-- ==== Sys2Proof/Word.lean ====
section
/-! DEFINITION. The word types of the block: registers are 32 bits wide (R9), memory is bytes, and every multi-byte
field is little-endian (R8). The readers and writers of fields stand in Machine/Bits.lean. -/

namespace Sys2Proof

/-- One byte of a buffer, an object or a descriptor. -/
abbrev Byte := BitVec 8

/-- One 32-bit register (R9). -/
abbrev Word := BitVec 32

/-- A run of bytes in address order: parameters, a descriptor, a header, a payload (R8). -/
abbrev Bytes := List Byte

end Sys2Proof
end

