-- ==== Sys2Proof/Syntax.lean ====
section
/-! DEFINITION. The commands of the block: one constructor of `Instr` per row of spec/opcode_table.json, with the
operands that the row's rules give it. Host and sideband commands carry their parameter bytes as laid out in the spec
(offset 0 is byte 0x10 of the packet, R396), op kinds carry their 64 B descriptors followed by their extension records
(R103, R104), and flits and headers carry their own bytes. Quantities the module measures (a temperature, a training
result, the light on a fibre) are operands: the outside world supplies them. -/

namespace Sys2Proof

/-- Who issued a command: a function's ring pair (R385, R392) or the sideband ring (R425). -/
inductive Issuer where
  | fn (f : Fin 64) (pair : Fin 64)
  | sideband
  deriving DecidableEq, Repr

/-- The header of a fetched command that its execution still needs (R396): issuer, tag, no_irq, and the ctx field when
its valid bit is set. -/
structure Src where
  issuer : Issuer
  tag : Nat
  noIrq : Bool
  ctx : Option Nat
  deriving DecidableEq, Repr

/-- What took a host port down (R401). -/
inductive LinkReset where
  | perst | hotReset | linkLoss
  deriving DecidableEq, Repr

/-- What the host's end of a PCIe link supports (R382): the widest width, the highest rate code 1-6, FLIT mode. -/
structure LinkOffer where
  width : Nat
  rate : Nat
  flit : Bool
  deriving DecidableEq, Repr

/-- A SETDASA message (R23): the static address it is sent to, and the dynamic address it assigns. -/
structure Dasa where
  static : Nat
  addr : Nat
  deriving DecidableEq, Repr

/-- Device power states of a function (R382). -/
inductive DState where
  | d0 | d3hot | d3cold
  deriving DecidableEq, Repr

/-- The rows of the protective table of R33, in its order. -/
inductive ProtectRow where
  | inletHigh | inletTooHigh | flowLow | flowTooLow | flowLost | leak | junctionTrip | undervoltage | emergencyOff
  deriving DecidableEq, Repr

/-- What a pattern test found (R17, R439): failed wavelengths per bundle, whether a control wire failed, and for an
optical loopback (R440) whether it failed. -/
structure TestResult where
  lanes : List (Fin 104 × List (Fin 34))
  wireFail : Bool
  loopFail : Bool
  deriving DecidableEq, Repr

/-- What GDDR7 training and the flash metadata scan found (R293, R305, R308, R316): devices that trained below
40 Gb/s with the rate reached, a device that failed at 32 Gb/s, flash dies that failed, a valid block map, and the
blocks whose age passed the refresh interval. -/
structure TrainResult where
  slow : List (Fin 64 × Nat)
  dead : Bool
  flashFailed : List (Fin 128 × Fin 4)
  mapValid : Bool
  aged : List Nat
  deriving DecidableEq, Repr

/-- What a firmware boot finds in the NOR records when they were written from outside since the last boot (R20, R315,
R346): the firmware image's version (none: no valid image), the installation map's payload (none: no valid copy), the
serial held by the calibration record, the installation ID that the module was given (none: none yet, R345), and the shim
plan's seq (0: none). -/
structure BootRecords where
  fw : Option Nat
  map : Option Bytes
  serial : Nat
  install : Option Nat
  shimSeq : Nat
  deriving DecidableEq, Repr

/-- What the shim planner measured (R422, R423): the values its margins ask for, before the limits of R423 are applied.
Power table entries are (die, step of 25 MHz, watts). Grid entries are the calibrated currents in mA of an 8-bit, a paired
and a 16-bit pass of 128 rows of 128 cells, for compute dies 0 to 3 in order; an empty list leaves the old ones (R87). -/
structure ShimMeasure where
  guardBand : List Nat
  powerTable : List (Nat × Nat × Nat)
  corrBits : Nat
  retryLevel : Nat
  retentionDays : Nat
  calPeriodMs : Nat
  laserCeil : List (Nat × Nat)
  eyeMargin : Nat
  gridCal : List (Nat × Nat × Nat)
  deriving DecidableEq, Repr

/-- The report of one die to the arbiter (R418): draw, demand at the clock it wants, power at the floor clock, in W, and
junction temperature in 0.1 °C. Dies 0-3 are K0-K3, 4-7 are M0-M3, 8 is C0. -/
structure DieReport where
  die : Fin 9
  draw : Nat
  demand : Nat
  floorW : Nat
  tj : Nat
  deriving DecidableEq, Repr

/-- The returns that every flit carries (R327): an acknowledged sequence number, the sequence number of a sequenced
flit, and credits. -/
structure LinkHdr where
  seq : Nat
  ack : Option Nat
  crReq : Nat
  crRsp : Nat
  deriving DecidableEq, Repr

/-- An INIT flit (R326; on an S port the gateway ID stands in for the serial, R342). Widths: what the partner can run. -/
structure InitFlit where
  serial : Nat
  addr : Nat
  install : Nat
  port : Nat
  low : Bool
  high : Bool
  epoch : Nat
  digest : Nat
  stagedEpoch : Nat
  stagedDigest : Nat
  deriving DecidableEq, Repr

/-- A KEEPALIVE flit (R355): current and staged (epoch, digest) and the staged T. -/
structure KeepFlit where
  epoch : Nat
  digest : Nat
  stagedEpoch : Nat
  stagedDigest : Nat
  stagedT : Nat
  deriving DecidableEq, Repr

/-- An ELECT flit (R348): best key (priority, serial), address and distance of its module, closed flag, epoch issued. -/
structure ElectFlit where
  prio : Nat
  serial : Nat
  addr : Nat
  dist : Nat
  closed : Bool
  epochIssued : Bool
  deriving DecidableEq, Repr

/-- A TSYNC exchange (R351): the instants t1-t4 in tenths of ns, 0 where they are not known yet, and whether the sender is
locked. -/
structure TsyncFlit where
  t1 : Int
  t2 : Int
  t3 : Int
  t4 : Int
  parentLocked : Bool
  deriving DecidableEq, Repr

/-- A TREE flit (R350): AGREED modules in the sender's subtree, or the FLEET_READY flood from the parent. -/
structure TreeFlit where
  count : Nat
  fleetReady : Bool
  deriving DecidableEq, Repr

/-- The routing header of a message that reached this module (R337): its source and msg_id. -/
structure MsgHdr where
  src : Nat
  msgId : Nat
  deriving DecidableEq, Repr

/-- A granted binding (R147, R162): the free slots, the slot size and the buffer's handle at the receiver. -/
structure Grant where
  slots : List Nat
  slotBytes : Nat
  handle : Nat
  deriving DecidableEq, Repr

/-- One instance of a collective (R228). -/
structure InstKey where
  coll : Nat
  job : Nat
  step : Nat
  deriving DecidableEq, Repr

/-- ROW_PLAN and ROW_COMMIT (R214): per tenant row of the receiver's group up to 4 contexts, and with a commit the
announced phase moves (R216). Context IDs are the receiver's. `group` is the place of that group among the `groups` groups
of the map, in ascending order. -/
structure RowMsg where
  pipeline : Nat
  frame : Nat
  rows : List (Nat × List Nat)
  moves : List Nat
  group : Nat
  groups : Nat
  deriving DecidableEq, Repr

/-- ROW_READY (R214): ready contexts and the phase each has completed (0 FWD, 1 BWD, 2 REDUCE, 3 UPDATE). -/
structure ReadyMsg where
  pipeline : Nat
  frame : Nat
  ready : List Nat
  phaseDone : List (Nat × Nat)
  deriving DecidableEq, Repr

/-- Rows that the job service posts as one micro-batch into stage 0 (R186): its step and number, tokpos and rows of its
extent record, whether it is the last of its step, and its bytes. -/
structure InputMb where
  step : Nat
  mb : Nat
  tok : Nat
  rows : Nat
  last : Bool
  data : Bytes
  deriving DecidableEq, Repr

/-- What a JOB_CTL message asks of a member or tells the lead (R338: admission, peer maps, fault notices, hold, cancel,
completion; R245, R281, R282, R364, R370, R375, R218, R251). -/
inductive JobCtl where
  /-- reserve a context for a job being admitted (R183): job, tenant, function, deadline, seed, steps, pipeline, flags,
      micro-batches per step, job tag -/
  | reserve (job tenant fn deadline seed steps pipeline flags mbPerStep jobTag : Nat)
  /-- commit it under the context ID that the lead assigns, with the peer map (stage, address, context ID there), the first
      version's objects (stage, object number, content) and the hyperparameter object's content (R183, R167, R263) -/
  | commit (job ctx v0 : Nat) (peers : List (Nat × Nat × Nat)) (init : List (Nat × Nat × Bytes)) (hyper : Bytes)
  /-- give a reservation back (R183) -/
  | release (job : Nat)
  /-- fault notice from a member, or from the lead to the members (R179) -/
  | fault (job cause : Nat)
  | hold (job reason : Nat)
  | resume (job reason : Nat)
  | cancel (job : Nat)
  /-- the job is finished; contexts become DONE (R188) -/
  | complete (job : Nat)
  /-- JOB.RELEASE reaches the members (R190) -/
  | free (job : Nat)
  /-- capture at boundary b (R364) -/
  | capture (job cseq boundary : Nat)
  /-- a member's part is complete, or it failed, with its cause (R369, R370) -/
  | partDone (job cseq : Nat) (failed : Option Nat) (bytes : Nat)
  /-- the catalogue of a retained capture (R370): its records (address, buddy, part bytes) -/
  | retained (job cseq step boundary : Nat) (members : List (Nat × Nat × Nat))
  /-- commit a reservation from a retained capture (R372): the context ID that the lead assigns, the old job, its cseq, the
      new deadline and flags, the peer map (stage, address, context ID there) -/
  | restore (job ctx old cseq deadline flags : Nat) (peers : List (Nat × Nat × Nat))
  /-- a retained capture is released (CKP.RELEASE, R378) -/
  | ckpRelease (job cseq : Nat)
  /-- the sender leaves the fleet (R373) -/
  | leaving (job : Nat)
  /-- the capture is abandoned (R370) -/
  | abandon (job cseq : Nat)
  /-- missing ranks of a waiting collective (R245) -/
  | missing (job coll step : Nat) (ranks : List Nat)
  /-- a divergence was found (R281) -/
  | diverged (job stage step shard : Nat)
  /-- copy differing shards from the lowest-ranked majority member (R282) -/
  | repair (job stage step : Nat)
  /-- new membership after a loss (R375), rolling back to capture cseq: addresses replaced (lost, buddy), addresses
      removed, and stages taken over (stage, address) -/
  | membership (job cseq : Nat) (replaced : List (Nat × Nat)) (removed : List Nat) (taken : List (Nat × Nat))
  /-- projected finish of a job, with its risk (R218) -/
  | finish (job time : Nat) (risk : Bool)
  /-- ledger records gathered or loaded (R251) -/
  | ledgerRead (job : Nat)
  | ledgerLoad (job : Nat) (records : List (List Nat))
  /-- rows for the member that hosts stage 0 (R186) -/
  | input (job : Nat) (m : InputMb)
  /-- the lead gathers the final working copy and the shard fingerprints (R188) -/
  | gather (job : Nat)
  deriving DecidableEq, Repr

/-- A member's answer to a JOB_CTL (R338 JOB_RSP). -/
inductive JobRsp where
  /-- a context is reserved: its ID and the stages this member hosts for the job -/
  | reserved (job ctx : Nat) (stages : List Nat)
  | refused (job : Nat)
  | committed (job : Nat)
  | done (job : Nat)
  | ledger (job : Nat) (records : List (List Nat))
  | ledgerHeld (job : Nat)
  | repaired (job stage step copied : Nat)
  | restored (job : Nat) (ok : Bool)
  /-- what `gather` asks for: whether the member has published its last version and fingerprinted every shard, the bytes of
      each stage's current version in object-number order, and the fingerprints of its shards (stage, shard, fingerprint) -/
  | gathered (job : Nat) (ok : Bool) (stages : List (Nat × Bytes)) (fps : List (Nat × Nat × Nat))
  deriving DecidableEq, Repr

/-- One CKP_COPY segment of a part (R369): its place in the part, whether it is the last, and the part's size. -/
structure CopySeg where
  job : Nat
  cseq : Nat
  offset : Nat
  last : Bool
  total : Nat
  data : Bytes
  deriving DecidableEq, Repr

/-- The change a LINK_STATE message reports (R340): module, port, whether it is UP, and the module's change counter. -/
structure LinkChange where
  addr : Nat
  port : Nat
  up : Bool
  ctr : Nat
  deriving DecidableEq, Repr

/-- Where an op runs: its tile (64 × die + tile, R434) and the index of the current micro-batch among those its RECV took
(R153). -/
structure OpRun where
  tile : Fin 256
  mb : Nat
  deriving DecidableEq, Repr

/-- The commands of the block, one constructor per row of spec/opcode_table.json, in the table's order. -/
inductive Instr where
  /-- IDENTIFY (R399): Returns the module identity words and optionally writes ID block bytes to host memory. -/
  | identify (src : Src) (p : Bytes)
  /-- FLUSH (R400): Completes once the covered writes are durable at GDDR7 or context-store level. -/
  | flush (src : Src) (p : Bytes)
  /-- FN_RESET (R401): Resets one function: aborts its outstanding commands, deletes pairs 1-63 and clears QUARANTINE and FATAL. -/
  | fnReset (src : Src) (p : Bytes)
  /-- MODULE_RESET (R401): Aborts all commands, ends every context and restarts the start sequence from firmware boot. -/
  | moduleReset (src : Src) (p : Bytes)
  /-- RING_CREATE (R399): Creates ring pair 1-63 with the given sizes, bases and vector. -/
  | ringCreate (src : Src) (p : Bytes)
  /-- RING_DELETE (R399): Stops fetching from a pair and completes once its outstanding commands have completed. -/
  | ringDelete (src : Src) (p : Bytes)
  /-- FW_COMMIT (R402): Checks a firmware image and writes it to the NOR bank that does not hold the valid copy. -/
  | fwCommit (src : Src) (p : Bytes)
  /-- FW_ACTIVATE (R402): Holds commands and schedules a firmware switch in STEP, IMMEDIATE or AT_T mode. -/
  | fwActivate (src : Src) (p : Bytes)
  /-- OWNER_SET (R386): Moves owner-PF rights to another PF. -/
  | ownerSet (src : Src) (p : Bytes)
  /-- EVT_WAIT (R399): Completes with the next event visible to the function, or with a held event at once. -/
  | evtWait (src : Src) (p : Bytes)
  /-- JIG_LOAD (R208): Checks a jig image in order and loads it into the shadow bank. -/
  | jigLoad (src : Src) (p : Bytes)
  /-- JIG_SWITCH (R220): Checks the shadow cycle and schedules it to become active at or after T. -/
  | jigSwitch (src : Src) (p : Bytes)
  /-- JIG_DISCARD (R223): Empties the shadow bank. -/
  | jigDiscard (src : Src) (p : Bytes)
  /-- JIG_QUERY (R223): Returns JIG_STATUS and the active bank digest. -/
  | jigQuery (src : Src) (p : Bytes)
  /-- MQ_CREATE (R161): Creates a mortise queue and its pinned buffer object. -/
  | mqCreate (src : Src) (p : Bytes)
  /-- MQ_DESTROY (R161): Destroys an empty, unbound queue not named by a loaded jig. -/
  | mqDestroy (src : Src) (p : Bytes)
  /-- MQ_BIND (R162): Finds a route and asks the receiver to bind a sending binding to a queue. -/
  | mqBind (src : Src) (p : Bytes)
  /-- MQ_UNBIND (R162): Takes a binding to CLOSING and completes once its resend window is acknowledged. -/
  | mqUnbind (src : Src) (p : Bytes)
  /-- MQ_QUERY (R161): Returns a queue's occupancy and configuration word 0. -/
  | mqQuery (src : Src) (p : Bytes)
  /-- MQ_PURGE (R161): Removes one context's or all entries from a queue under R156. -/
  | mqPurge (src : Src) (p : Bytes)
  /-- MQ_POST (R163): Copies a block from an object into a free slot of an unbound queue and posts it. -/
  | mqPost (src : Src) (p : Bytes)
  /-- JOB_SUBMIT (R183): At the lead, checks, places and commits admission of a job on a replica group. -/
  | jobSubmit (src : Src) (p : Bytes)
  /-- JOB_WAIT (R189): Stays outstanding until the job is DONE and returns its result or checkpoint. -/
  | jobWait (src : Src) (p : Bytes)
  /-- JOB_STATUS (R187): Returns a job's state, steps completed, projected finish and row-frames remaining. -/
  | jobStatus (src : Src) (p : Bytes)
  /-- JOB_CANCEL (R190): Cancels a job at the next frame boundary on every member. -/
  | jobCancel (src : Src) (p : Bytes)
  /-- JOB_RELEASE (R190): Frees a DONE job's contexts, pins and result object. -/
  | jobRelease (src : Src) (p : Bytes)
  /-- CTX_QUERY (R191): Returns CTX_STATE words 0-1 of a context. -/
  | ctxQuery (src : Src) (p : Bytes)
  /-- CTX_HOLD (R190): Holds a whole job out of row selection from the next frame boundary. -/
  | ctxHold (src : Src) (p : Bytes)
  /-- CTX_RESUME (R190): Ends the CTX.HOLD of a job at the next frame boundary. -/
  | ctxResume (src : Src) (p : Bytes)
  /-- CTX_SHARE (R191): Sets a function's maximum contexts and tenant-row share. -/
  | ctxShare (src : Src) (p : Bytes)
  /-- VNR_QUERY (R191): Returns the VNR_VER words of one version entry. -/
  | vnrQuery (src : Src) (p : Bytes)
  /-- VNR_PIN (R191): Adds a pin reference to a READY version entry. -/
  | vnrPin (src : Src) (p : Bytes)
  /-- VNR_UNPIN (R191): Removes a pin reference from a version entry. -/
  | vnrUnpin (src : Src) (p : Bytes)
  /-- GLU_QUERY (R251): Returns a job's deferral, drop and mismatch counts on this module. -/
  | gluQuery (src : Src) (p : Bytes)
  /-- GLU_LEDGER_READ (R251): Gathers every member's deferral ledger records into an object. -/
  | gluLedgerRead (src : Src) (p : Bytes)
  /-- GLU_LEDGER_LOAD (R251): Loads a ledger into every member of an ADMITTED REPLAY job. -/
  | gluLedgerLoad (src : Src) (p : Bytes)
  /-- KRF_READ (R284): Writes a context's kerf snapshot to an object. -/
  | krfRead (src : Src) (p : Bytes)
  /-- KRF_CLEAR (R284): Clears counters, histograms or loss monitor at the next frame boundary. -/
  | krfClear (src : Src) (p : Bytes)
  /-- KRF_HIST_SET (R284): Sets a histogram slot's e0 and clear-each-step flag and clears it. -/
  | krfHistSet (src : Src) (p : Bytes)
  /-- KRF_LOSS_SET (R284): Sets the loss monitor's k, alpha and warmup. -/
  | krfLossSet (src : Src) (p : Bytes)
  /-- KRF_FP_READ (R284): Writes a stage's fingerprint list for a step to an object. -/
  | krfFpRead (src : Src) (p : Bytes)
  /-- OBJ_CREATE (R319): Creates a zero-filled object and returns its handle. -/
  | objCreate (src : Src) (p : Bytes)
  /-- OBJ_DESTROY (R319): Destroys an object that is not pinned or referenced. -/
  | objDestroy (src : Src) (p : Bytes)
  /-- OBJ_WRITE (R319): Writes host data into an object, optionally durably. -/
  | objWrite (src : Src) (p : Bytes) (data : Option Bytes)
  /-- OBJ_READ (R319): Reads object data into host memory without promoting it. -/
  | objRead (src : Src) (p : Bytes)
  /-- OBJ_QUERY (R319): Returns MEM_OBJ words 0-3 for an object. -/
  | objQuery (src : Src) (p : Bytes)
  /-- OBJ_PIN (R302): Adds a pin, promoting the object first if needed. -/
  | objPin (src : Src) (p : Bytes)
  /-- OBJ_UNPIN (R319): Removes an OBJ.PIN reference. -/
  | objUnpin (src : Src) (p : Bytes)
  /-- OBJ_PROMOTE (R319): Promotes an object and completes when it is RESIDENT. -/
  | objPromote (src : Src) (p : Bytes)
  /-- OBJ_DEMOTE (R319): Demotes an object and completes when it is in FLASH. -/
  | objDemote (src : Src) (p : Bytes)
  /-- OBJ_GRANT (R319): Grants READ or READ_WRITE rights on an object to a function. -/
  | objGrant (src : Src) (p : Bytes)
  /-- OBJ_REVOKE (R292): Revokes a function's grant on an object. -/
  | objRevoke (src : Src) (p : Bytes)
  /-- OBJ_ATOMIC (R133): Applies an integer atomic at the home die's shared cache and returns the old value. -/
  | objAtomic (src : Src) (p : Bytes)
  /-- DVL_QUERY (R360): Returns DVL_PORT words of a port. -/
  | dvlQuery (src : Src) (p : Bytes)
  /-- DVL_CONFIG (R360): Sets the link-down thresholds N_ev and N_win. -/
  | dvlConfig (src : Src) (p : Bytes)
  /-- DVL_PORT (R360): Enables, disables or retrains a port. -/
  | dvlPort (src : Src) (p : Bytes)
  /-- DVL_EXT_READ (R360): Reads a gateway extent over an S port into an object. -/
  | dvlExtRead (src : Src) (p : Bytes)
  /-- DVL_EXT_WRITE (R360): Writes object data to a gateway extent and completes at EXT_ACK. -/
  | dvlExtWrite (src : Src) (p : Bytes)
  /-- CFG_STAGE (R359): Stages a fleet configuration set with epoch and activation time T. -/
  | cfgStage (src : Src) (p : Bytes)
  /-- CFG_CANCEL (R359): Cancels a staged configuration set. -/
  | cfgCancel (src : Src) (p : Bytes)
  /-- CFG_QUERY (R360): Returns current and staged epoch, digest and T. -/
  | cfgQuery (src : Src) (p : Bytes)
  /-- CKP_POLICY (R378): Sets a job's capture interval and copy window. -/
  | ckpPolicy (src : Src) (p : Bytes)
  /-- CKP_TAKE (R364): Requests a capture at the next frame boundary and completes when retained. -/
  | ckpTake (src : Src) (p : Bytes)
  /-- CKP_RESTORE (R372): Admits a new job from a retained checkpoint, continuing mid-step. -/
  | ckpRestore (src : Src) (p : Bytes)
  /-- CKP_RELEASE (R378): Releases a checkpoint's parts and records. -/
  | ckpRelease (src : Src) (p : Bytes)
  /-- CKP_QUERY (R378): Returns a checkpoint's cseq, step, members and local part size. -/
  | ckpQuery (src : Src) (p : Bytes)
  /-- CKP_RESERVE (R368): Sets the buddy reserve size while no jig bank holds an image. -/
  | ckpReserve (src : Src) (p : Bytes)
  /-- PWR_STATE (R411): Enters ACTIVE, SLEEP or DEEP and optionally sets the power limit. -/
  | pwrState (src : Src) (p : Bytes)
  /-- PWR_ALARM (R415): Sets or clears the RTC alarm. -/
  | pwrAlarm (src : Src) (p : Bytes)
  /-- PWR_QUERY (R426): Returns power status, last wake cause, draw, limit and latches. -/
  | pwrQuery (src : Src) (p : Bytes)
  /-- PWR_REPLAN (R422): Runs the shim planner and returns the new plan's seq. -/
  | pwrReplan (src : Src) (p : Bytes) (m : ShimMeasure)
  /-- DBG_LOG_READ (R441): Writes the visible error-log records of a range to host memory. -/
  | dbgLogRead (src : Src) (p : Bytes)
  /-- DBG_SUMMARY_READ (R441): Writes the persistent summary to host memory. -/
  | dbgSummaryRead (src : Src) (p : Bytes)
  /-- DBG_VIEW (R438): Copies one debug view into host memory. -/
  | dbgView (src : Src) (p : Bytes)
  /-- DBG_TEST (R440): Runs the pattern test or an optical loopback. -/
  | dbgTest (src : Src) (p : Bytes) (r : TestResult)
  /-- SQ_TAIL_DOORBELL (R393): A write to FN_SQ_TAIL makes submission entries available for fetch. -/
  | sqTailDoorbell (f : Fin 64) (pair : Fin 64) (v : Word)
  /-- CQ_HEAD_DOORBELL (R395): A write to FN_CQ_HEAD returns completion entries to the module. -/
  | cqHeadDoorbell (f : Fin 64) (pair : Fin 64) (v : Word)
  /-- FN_CTRL_ENABLE_WRITE (R390): Starts or stops fetching from every ring pair of the function. -/
  | fnCtrlEnableWrite (f : Fin 64) (v : Word)
  /-- REG64_LOW_READ (R10): A low-word read of a 64-bit register latches the high word per function. -/
  | reg64LowRead (f : Fin 64) (off : Nat)
  /-- REG64_LOW_WRITE (R10): A low-word write to a 64-bit register fills the per-function write latch. -/
  | reg64LowWrite (f : Fin 64) (off : Nat) (v : Word)
  /-- REG64_HIGH_WRITE (R10): A high-word write commits the latched low word and the new high word. -/
  | reg64HighWrite (f : Fin 64) (off : Nat) (v : Word)
  /-- MQ_HEAD_WORD0_READ (R159): Reading MQ_HEAD word 0 latches the whole head entry per function and queue. -/
  | mqHeadWord0Read (f : Fin 64) (q : Fin 256)
  /-- W1C_WRITE (R11): Writing 1 to a W1C bit clears it unless set in the same cycle. -/
  | w1cWrite (f : Fin 64) (off : Nat) (v : Word) (setNow : Word)
  /-- RC_READ (R12): A read of an RC register returns and clears its value for permitted functions. -/
  | rcRead (f : Fin 64) (off : Nat) (arriving : Nat)
  /-- REGISTER_WRITE (R14): A write to a register with no row of its own, subject to ownership and rsvd rules. -/
  | registerWrite (f : Fin 64) (off : Nat) (v : Word)
  /-- BAD_WIDTH_ACCESS (R9): An access of wrong width or alignment reads 0 or is ignored and is logged. -/
  | badWidthAccess (f : Fin 64) (off : Nat) (width : Nat) (write : Option Nat)
  /-- COMMAND_FETCH (R398): A fetched submission entry is checked and started or completed with an error status. -/
  | commandFetch (f : Fin 64) (pair : Fin 64) (entry : Bytes)
  /-- FETCH_ERROR (R384): A failed submission-entry fetch sets FATAL and stops fetching. -/
  | fetchError (f : Fin 64) (pair : Fin 64)
  /-- COMPLETION_WRITE (R395): A completion is written to the CQ once it has room, then an interrupt is sent. -/
  | completionWrite (f : Fin 64) (pair : Fin 64)
  /-- IRQ_COAL_TIMER (R395): Expiry of the coalescing delay sends the pending interrupt. -/
  | irqCoalTimer (f : Fin 64)
  /-- FLR (R401): A function-level reset of a VF or PF aborts commands and resets its FN block. -/
  | flr (f : Fin 64)
  /-- PERST_ASSERT (R401): PERST#, hot reset or link loss resets all functions of the port. -/
  | perstAssert (h : Fin 4) (kind : LinkReset)
  /-- PERST_DEASSERT (R416): PERSTn# deasserts; the link retrains and a PERST# wake may follow. -/
  | perstDeassert (h : Fin 4) (offer : LinkOffer)
  /-- PCIE_LINK_UP (R382): A host link trains at the common width, rate and mode. -/
  | pcieLinkUp (h : Fin 4) (offer : LinkOffer)
  /-- D_STATE_CHANGE (R417): The host moves a function between D0 and D3, possibly satisfying a pending wake request. -/
  | dStateChange (f : Fin 64) (d : DState) (pme : Bool)
  /-- L1_EXIT (R416): A host exits L1 or writes D0, giving an in-band wake. -/
  | l1Exit (h : Fin 4)
  /-- PME_REWAKE_TIMER (R417): A function back in D3 with a non-zero latch is asked to wake again after 1 ms. -/
  | pmeRewakeTimer (f : Fin 64)
  /-- POWER_GOOD (R25): 48 V has stayed at 40 V for 20 ms; PWR_GOOD asserts and the start sequence begins. -/
  | powerGood
  /-- UNDERVOLTAGE_TRIP (R29): The input falls below 39.0 V; PWR_GOOD deasserts and rails are removed. -/
  | undervoltageTrip
  /-- INPUT_BELOW_41V (R421): An input below 41 V cuts the power limit by 10 % per volt. -/
  | inputBelow41v (centivolts : Nat)
  /-- EMERG_OFF (R27): EMERG_OFF# low for 10 us removes all but always-on rails and latches DEEP. -/
  | emergOff
  /-- INLET_TEMP_HIGH (R33): Inlet above 45 C for 1 s asserts ALERT# and raises an event. -/
  | inletTempHigh (reading : Nat)
  /-- INLET_TEMP_TOO_HIGH (R33): Inlet above 50 C for 1 s makes the module leave the fleet. -/
  | inletTempTooHigh (reading : Nat)
  /-- FLOW_LOW (R33): Flow below 4.0 L/min for 1 s asserts ALERT# and raises an event. -/
  | flowLow (reading : Nat)
  /-- FLOW_TOO_LOW (R33): Flow below 3.0 L/min for 1 s makes the module leave the fleet. -/
  | flowTooLow (reading : Nat)
  /-- FLOW_LOST (R33): Flow below 1.0 L/min for 100 ms enters DEEP. -/
  | flowLost (reading : Nat)
  /-- LEAK (R33): LEAK_IN wet for 10 ms enters DEEP and latches. -/
  | leak
  /-- JUNCTION_TRIP (R33): A compute die above 115 C enters DEEP within 1 ms and latches. -/
  | junctionTrip (die : Fin 4) (reading : Nat)
  /-- COMPARATOR_CLEAR (R416): The non-latched protective condition clears for 2 s and wakes the module. -/
  | comparatorClear (inlet flow : Nat)
  /-- LEAVE_FLEET (R33): At the next frame boundary the module stops taking slots and enters SLEEP. -/
  | leaveFleet
  /-- WAVELENGTH_FAIL (R18): A failing die-to-die wavelength is moved to a spare, or the module resets if none is left. -/
  | wavelengthFail (bundle : Fin 104) (lane : Fin 34)
  /-- FIRMWARE_BOOT_DONE (R346): Firmware boot from NOR ends and FN_STATUS.READY is set. -/
  | firmwareBootDone (found : Option BootRecords)
  /-- PACKAGE_SELF_TEST_DONE (R17): The package self-test and pattern test end, assigning spares or giving OUT. -/
  | packageSelfTestDone (r : TestResult)
  /-- GDDR7_TRAINING_DONE (R293): GDDR7 training and the flash metadata scan end, or the module goes OUT. -/
  | gddr7TrainingDone (r : TrainResult)
  /-- PORT_BRINGUP_DONE (R346): Bring-up of all ports and the identity check end. -/
  | portBringupDone
  /-- LIGHT_DETECT (R326): Light on every fibre of a half takes a DARK port to TRAINING, and may wake the module. -/
  | lightDetect (port : Fin 32) (low high : Bool)
  /-- LIGHT_LOSS (R333): Loss of light on every lane of the width takes the port DOWN. -/
  | lightLoss (port : Fin 32)
  /-- LANE_LOSS (R325): An UP port losing a lane retrains at the widest remaining width. -/
  | laneLoss (port : Fin 32) (lane : Fin 8)
  /-- PORT_TRAINING_TIMEOUT (R326): A port failing TRAINING within 2.5 s goes DOWN. -/
  | portTrainingTimeout (port : Fin 32)
  /-- PORT_RETRY_TIMER (R326): One second after entering DOWN the port re-enters TRAINING. -/
  | portRetryTimer (port : Fin 32)
  /-- RETRAIN_TIMEOUT (R332): A retrain not ended within 1 s takes the port DOWN. -/
  | retrainTimeout (port : Fin 32)
  /-- REPLAY_WINDOW_TIMER (R333): At each 1 ms window the replay count is judged and the port may go DOWN. -/
  | replayWindowTimer (port : Fin 32)
  /-- FEC_ALIGN_LOSS (R333): FEC alignment lost for over 10 us takes the port DOWN. -/
  | fecAlignLoss (port : Fin 32)
  /-- NO_FLIT_TIMEOUT (R333): No flit received for 100 us takes the port DOWN. -/
  | noFlitTimeout (port : Fin 32)
  /-- INIT (R326): An INIT flit carries the partner's identity, widths and epoch pairs. -/
  | init (port : Fin 32) (l : LinkHdr) (i : InitFlit)
  /-- DATA (R336): A DATA flit is received, credited, acknowledged and delivered or forwarded cut-through. -/
  | data (port : Fin 32) (flit : Bytes)
  /-- IDLE (R327): An IDLE flit returns acks and credits. -/
  | idle (port : Fin 32) (l : LinkHdr)
  /-- NAK (R331): A NAK makes the sender resend from the named sequence number. -/
  | nak (port : Fin 32) (l : LinkHdr) (seq : Nat)
  /-- KEEPALIVE (R355): A KEEPALIVE flit carries current and staged epoch, digest and T for comparison. -/
  | keepalive (port : Fin 32) (l : LinkHdr) (k : KeepFlit)
  /-- ELECT (R348): An ELECT flit updates best key, distance and parent. -/
  | elect (port : Fin 32) (l : LinkHdr) (e : ElectFlit)
  /-- TSYNC (R351): A TSYNC exchange corrects fabric time rate and phase. -/
  | tsync (port : Fin 32) (l : LinkHdr) (t : TsyncFlit)
  /-- TREE (R350): A TREE flit carries the count of AGREED modules in the sender's subtree. -/
  | tree (port : Fin 32) (l : LinkHdr) (t : TreeFlit)
  /-- RETRAIN (R332): A received RETRAIN flit re-runs TRAINING and CHECK keeping replay and credits. -/
  | retrain (port : Fin 32) (l : LinkHdr)
  /-- ACK_TIMER (R330): At least every 1 us the receiver sends an acknowledgement. -/
  | ackTimer (port : Fin 32)
  /-- KEEPALIVE_TIMER (R355): After 10 us without another flit a KEEPALIVE is sent. -/
  | keepaliveTimer (port : Fin 32)
  /-- ELECT_TIMER (R348): Every 1 ms an ELECT flit is sent on each UP port. -/
  | electTimer
  /-- ELECT_SETTLE_TIMER (R348): Best key unchanged for 250 ms makes the module ELECTED. -/
  | electSettleTimer
  /-- TSYNC_TIMER (R351): Every 1 ms a TSYNC exchange with the parent starts. -/
  | tsyncTimer
  /-- TREE_TIMER (R350): Every 1 ms a TREE flit is sent to the parent. -/
  | treeTimer
  /-- DIGEST_CHECK_TIMEOUT (R356): 1 s after TIME_LOCKED without agreement, EV_DIGEST_MISMATCH is raised. -/
  | digestCheckTimeout
  /-- ROOT_LOST_TIMER (R349): No root ELECT for 10 ms starts a new election. -/
  | rootLostTimer
  /-- TIME_UNLOCK_TIMER (R352): A module unlocked for 100 ms enters HOLD. -/
  | timeUnlockTimer
  /-- RTC_WRITE_TIMER (R351): Every hour fabric time is written into the RTC. -/
  | rtcWriteTimer
  /-- LIVE_CAL_TIMER (R335): Every 100 us equaliser and CDR move toward the eye centre; margin events or retrain may follow. -/
  | liveCalTimer (port : Fin 32) (lane : Fin 8) (margin : Nat)
  /-- LASER_BIAS_TIMER (R335): Every 10 ms laser bias is adjusted within the shim plan. -/
  | laserBiasTimer (port : Fin 32) (lane : Fin 8) (want : Nat)
  /-- CFG_ACTIVATION (R359): At T every staged module switches to the staged configuration epoch. -/
  | cfgActivation
  /-- MQ_BIND_MSG (R147): The receiver checks a bind request and grants free slots as credits. -/
  | mqBindMsg (h : MsgHdr) (queue binding srcStage destStage : Nat)
  /-- MQ_GRANT (R147): The sender receives granted credits and its binding becomes ACTIVE. -/
  | mqGrant (h : MsgHdr) (binding : Nat) (g : Option Grant)
  /-- MQ_BLOCK (R155): A block write lands in a granted queue slot. -/
  | mqBlock (h : MsgHdr) (handle off : Nat) (data : Bytes)
  /-- MQ_HEADER (R148): An arriving header is checked, held for order, posted or refused. -/
  | mqHeader (h : MsgHdr) (queue binding : Nat) (hdr : Bytes)
  /-- MQ_CREDIT (R147): A credit message returns slots and acknowledges seqs at the sender. -/
  | mqCredit (h : MsgHdr) (binding : Nat) (slots : List Nat) (acked : Option Nat)
  /-- MQ_REJECT (R145): The sender resends once after a CRC refusal or faults its context. -/
  | mqReject (h : MsgHdr) (binding seq cause : Nat)
  /-- MQ_SYNC (R341): The sender adopts the receiver's free slots, seq and refused seqs. -/
  | mqSync (h : MsgHdr) (binding : Nat) (free : List Nat) (posted : Option Nat) (refused : List Nat)
  /-- CREDIT_FLUSH_TIMER (R147): Within 1 us of the oldest unreported slot a credit message is sent. -/
  | creditFlushTimer (queue : Fin 256)
  /-- MQ_BIND_TIMEOUT (R162): A receiver not answering within 10 ms ends the bind with S_MQ_REFUSED. -/
  | mqBindTimeout (binding : Fin 256)
  /-- COLL_DATA (R246): A contribution segment arrives at the owner's glue-up queue and is combined or deferred. -/
  | collData (h : MsgHdr) (hdr payload : Bytes)
  /-- ANCHOR_PROPOSE (R238): A member's anchor proposal arrives at the chunk owner. -/
  | anchorPropose (h : MsgHdr) (hdr payload : Bytes)
  /-- ANCHOR_AGREE (R238): A member receives agreed anchors and begins summing. -/
  | anchorAgree (h : MsgHdr) (hdr payload : Bytes)
  /-- COLL_RESULT (R246): Reduced rows from an owner arrive at a member. -/
  | collResult (h : MsgHdr) (hdr payload : Bytes)
  /-- COLL_ABORT (R242): An ABORT stops the instance, is forwarded once and completes ops with S_COLL_MISMATCH. -/
  | collAbort (h : MsgHdr) (hdr : Bytes)
  /-- COLL_CREDIT (R239): A CREDIT message returns glue-up page credits. -/
  | collCredit (h : MsgHdr) (hdr : Bytes)
  /-- ANCHOR_DEADLINE (R238): At the anchor deadline the owner agrees anchors from proposals present. -/
  | anchorDeadline (k : InstKey)
  /-- CLOSE_T (R246): At close_t the owner completes absorbing sums and writes ledger records for late ranks. -/
  | closeT (k : InstKey)
  /-- COLL_COMMIT (R240): A member holding all results and signatures commits and writes its destinations. -/
  | collCommit (k : InstKey)
  /-- COLL_TIMEOUT (R245): A waiting collective past its bound is abandoned and missing ranks are reported. -/
  | collTimeout (k : InstKey)
  /-- ROW_PLAN (R211): A member receives a row plan and promotes its primary contexts. -/
  | rowPlan (h : MsgHdr) (m : RowMsg)
  /-- ROW_READY (R212): The coordinator receives a member's readiness and phase report. -/
  | rowReady (h : MsgHdr) (m : ReadyMsg)
  /-- ROW_COMMIT (R213): A member receives the committed row lists for a frame. -/
  | rowCommit (h : MsgHdr) (m : RowMsg)
  /-- JOB_CTL (R179): A job-control message carries admission, peer maps, fault notices, hold, cancel or completion. -/
  | jobCtl (h : MsgHdr) (m : JobCtl)
  /-- JOB_RSP (R167): A member's answer to a job-control request reaches the lead. -/
  | jobRsp (h : MsgHdr) (m : JobRsp)
  /-- FP_LIST_REQ (R281): A member is asked for its shard fingerprint list. -/
  | fpListReq (h : MsgHdr) (job stage step : Nat)
  /-- FP_LIST (R281): A fingerprint list arrives and the lowest differing shard is named. -/
  | fpList (h : MsgHdr) (job stage step rank : Nat) (fps : List Nat)
  /-- CKP_COPY (R369): A buddy stores a checkpoint part segment in its reserve and acknowledges it. -/
  | ckpCopy (h : MsgHdr) (c : CopySeg)
  /-- CKP_ACK (R369): A source receives acknowledgement of a checkpoint copy segment. -/
  | ckpAck (h : MsgHdr) (job cseq offset : Nat) (refused : Bool)
  /-- CKP_ACK_TIMEOUT (R369): No CKP_ACK for 10 ms resends the last unacknowledged message. -/
  | ckpAckTimeout (job : Nat)
  /-- LINK_STATE (R340): A new link-state report is re-flooded and routes are recomputed. -/
  | linkState (port : Fin 32) (h : MsgHdr) (c : LinkChange)
  /-- ROUTE_RECOMPUTE_DONE (R340): The module finishes recomputing route candidates without down links. -/
  | routeRecomputeDone
  /-- MSG_LOST (R341): The source recovers a lost message once per pair and raises EV_DVL_MSG_LOST. -/
  | msgLost (h : MsgHdr) (lostSrc lostId mtype : Nat)
  /-- MSG_RESEND_TIMER (R341): A resendable message is resent up to three times, 1 ms apart. -/
  | msgResendTimer (msgId : Nat)
  /-- MSG_LOST_HOLD_EXPIRY (R341): A held MSG_LOST with no route after 250 ms is discarded and logged. -/
  | msgLostHoldExpiry (lostSrc lostId : Nat)
  /-- EXT_DATA (R343): Gateway read data lands in the target object. -/
  | extData (sp : Fin 4) (tag off : Nat) (data : Bytes)
  /-- EXT_ACK (R343): The gateway confirms durable writes and DVL.EXT_WRITE completes. -/
  | extAck (sp : Fin 4) (tag : Nat)
  /-- EXT_ERR (R343): A gateway error ends the tagged command with S_DVL_EXT_ERROR. -/
  | extErr (sp : Fin 4) (tag code : Nat)
  /-- EXT_TAG_TIMEOUT (R343): A tag with no answer for 100 ms ends with S_DVL_EXT_TIMEOUT. -/
  | extTagTimeout (sp : Fin 4) (tag : Nat)
  /-- FRAME_BOUNDARY (R196): At each frame boundary rows, phases, holds and monitors advance. -/
  | frameBoundary
  /-- DEADLINE_RISK_TEST (R218): Every 256 frames or after a job change, projected finishes and risks are tested. -/
  | deadlineRiskTest
  /-- BANK_SWITCH (R220): The shadow bank becomes active at T or the first cycle boundary at or after it. -/
  | bankSwitch
  /-- SLOT_START (R202): A free tile starts its slot program at the nominal start and invalidates its L1. -/
  | slotStart (entry : Nat) (tile : Fin 256)
  /-- DEFERRED_SLOT_START (R203): A program delayed by an overrun starts when the earlier one completes. -/
  | deferredSlotStart (tile : Fin 256)
  /-- PROGRAM_LATE (R204): A program not completed by nominal end plus grace is late and counted. -/
  | programLate (tile : Fin 256) (lateness : Nat) (creditWait : Bool)
  /-- CAL_WINDOW (R206): Every 1 ms a GDDR7 write-calibration window runs in a quiet interval. -/
  | calWindow
  /-- GEMM (R73): A tile runs a GEMM's passes, accumulates and drains its output blocks. -/
  | gemm (r : OpRun) (d : Bytes) (parts : List (OpRun × Bytes))
  /-- GEMM_SEND (R97): A GEMM drains into the outgoing block and sends it downstream. -/
  | gemmSend (r : OpRun) (d : Bytes)
  /-- GEMM_RS (R232): A GEMM whose C rows are reduce-scattered over members. -/
  | gemmRs (r : OpRun) (d : Bytes)
  /-- AG_GEMM (R232): A GEMM run on A rows all-gathered from members. -/
  | agGemm (r : OpRun) (d : Bytes)
  /-- GEMM_AR (R232): A GEMM whose C is reduce-scattered then all-gathered. -/
  | gemmAr (r : OpRun) (d : Bytes)
  /-- ATTN_FWD (R114): A tile computes blockwise attention forward, optionally over a ring. -/
  | attnFwd (r : OpRun) (d : Bytes)
  /-- ATTN_BWD (R118): A tile computes attention gradients on anchored accumulators. -/
  | attnBwd (r : OpRun) (d : Bytes)
  /-- ELEMWISE (R120): The vector unit applies an elementwise function and converts the result. -/
  | elemwise (r : OpRun) (d : Bytes)
  /-- NORM (R123): The vector unit computes LayerNorm or RMSNorm forward or backward. -/
  | norm (r : OpRun) (d : Bytes)
  /-- SOFTMAX_XENT (R268): Computes cross-entropy loss and logit gradients. -/
  | softmaxXent (r : OpRun) (d : Bytes)
  /-- DISTILL_KL (R269): Computes distillation KL loss and gradients against teacher records. -/
  | distillKl (r : OpRun) (d : Bytes)
  /-- OPT_ADAMW (R264): Updates master weights, moments and the working copy under AdamW. -/
  | optAdamw (r : OpRun) (d : Bytes)
  /-- GRAD_Q8 (R261): Quantises gradients to MXFP8 E5M2 with error feedback. -/
  | gradQ8 (r : OpRun) (d : Bytes)
  /-- CAST (R124): Converts elements from one format to another. -/
  | cast (r : OpRun) (d : Bytes)
  /-- COPY (R126): Copies strided rows of bytes between spaces and objects. -/
  | copy (r : OpRun) (d : Bytes)
  /-- GATHER (R130): Gathers table rows by index or scatter-adds rows into a table. -/
  | gather (r : OpRun) (d : Bytes)
  /-- SEND (R155): A send-group member writes its part into a remote slot after taking a credit. -/
  | send (r : OpRun) (d : Bytes)
  /-- SEND_GROUP_HEADER (R155): After the last member's write the queue engine sends the header. -/
  | sendGroupHeader (r : OpRun) (d : Bytes)
  /-- RECV (R152): A take group selects and takes queue entries into the tile stores. -/
  | recv (members : List (Fin 256 × Bytes))
  /-- RECV_TAKE_TAIL (R152): At the take_tail point a RECV with no entry completes empty. -/
  | recvTakeTail (members : List (Fin 256 × Bytes))
  /-- FINGERPRINT (R279): Writes CRC-64 shard fingerprints of the working copy. -/
  | fingerprint (r : OpRun) (d : Bytes)
  /-- KERF_SNAPSHOT (R273): Writes a context's kerf counters, histograms and loss monitor. -/
  | kerfSnapshot (r : OpRun) (d : Bytes)
  /-- DUMMY (R98): Runs dummy rows at a level for a set time to hold current. -/
  | dummy (r : OpRun) (d : Bytes)
  /-- BARRIER (R232): Synchronises members and all-reduces or all-gathers a vector. -/
  | barrier (r : OpRun) (d : Bytes)
  /-- EMBED (R129): Looks up embedding rows by token ID and converts them. -/
  | embed (r : OpRun) (d : Bytes)
  /-- TOPK_LOGITS (R266): Writes compressed top-k teacher records per row. -/
  | topkLogits (r : OpRun) (d : Bytes)
  /-- CTX_TEARDOWN_DONE (R178): Within 10 ms of a fault the context enters DONE and JOB.WAIT completes. -/
  | ctxTeardownDone (ctx : Nat)
  /-- VERSION_RETIRE (R174): A READY version whose references reach 0 retires and its objects are destroyed. -/
  | versionRetire (ctx stage v : Nat)
  /-- JOB_INPUT_POST (R186): The job service posts a step's micro-batches into stage 0 once input is resident. -/
  | jobInputPost (job : Nat)
  /-- JOB_COMPLETE (R188): The lead gathers the result object, computes the job fingerprint and raises EV_JOB_DONE. -/
  | jobComplete (job : Nat)
  /-- REPLICA_REPAIR (R282): Minority members copy differing shards into new version objects and refingerprint. -/
  | replicaRepair (ctx stage : Nat) (shards : List (Nat × Bytes))
  /-- FILL_GROUP_TIMEOUT (R85): A gather group's fill timeout expires and the group closes. -/
  | fillGroupTimeout (tile : Fin 256) (ctx version : Nat)
  /-- FILL_TAIL_POINT (R85): The slot's fill tail point closes every open gather group. -/
  | fillTailPoint (tile : Fin 256)
  /-- KEEP_CURRENT_THRESHOLD (R90): A gap reaching the threshold ramps the tile down to clock gating. -/
  | keepCurrentThreshold (tile : Fin 256)
  /-- TILE_RAMP_UP (R90): A resting tile ramps up before its next planned op. -/
  | tileRampUp (tile : Fin 256)
  /-- SLEW_GOVERNOR_WINDOW (R91): Each 1 us window the die's current change is limited by holding issue or adding dummy rows. -/
  | slewGovernorWindow (die : Fin 4) (current : Nat)
  /-- PROMOTION_COMMIT (R300): A promotion's copy completes and the object becomes RESIDENT. -/
  | promotionCommit (handle : Nat) (lost : List Nat)
  /-- DEMOTION_COMMIT (R300): A demotion's write-back completes and the object returns to FLASH. -/
  | demotionCommit (handle : Nat)
  /-- POISON_REWRITE (R295): A clean PERSISTENT poisoned line is rewritten from the context store. -/
  | poisonRewrite (handle line : Nat)
  /-- WCB_IDLE_TIMER (R296): A write-combining line idle for 2 us is written back. -/
  | wcbIdleTimer (mem : Fin 4) (handle line : Nat)
  /-- ACCESS_COUNT_HALVING (R298): Every 1,024 frames per-object access counts are halved. -/
  | accessCountHalving
  /-- FLASH_DIE_FAILED (R307): A die past its failure limit is marked failed and rebuild starts. -/
  | flashDieFailed (ch : Fin 128) (die : Fin 4)
  /-- REBUILD_DONE (R307): A failed die's data is rebuilt and EV_OBJ_REBUILT is raised. -/
  | rebuildDone (ch : Fin 128) (die : Fin 4) (lost : Nat)
  /-- BLOCK_REFRESH (R308): A block past a refresh threshold has its valid data rewritten. -/
  | blockRefresh (ch : Fin 128) (die : Fin 4) (block : Nat)
  /-- WEAR_LEVEL_MOVE (R309): Data of the lowest-count block is moved when counts differ by over 300. -/
  | wearLevelMove (ch : Fin 128) (die : Fin 4) (src dst : Nat)
  /-- SLC_FOLD (R310): Staged SLC data is folded into TLC. -/
  | slcFold (handle : Nat)
  /-- BLOCK_MAP_WRITE (R317): Every 60 s the flash block map is written in full. -/
  | blockMapWrite
  /-- CAPTURE_WINDOW_EXPIRY (R370): A capture not complete within its window is abandoned everywhere. -/
  | captureWindowExpiry (job : Nat)
  /-- CAPTURE_RETAIN (R370): When every part is complete the lead writes the catalogue and releases the previous capture. -/
  | captureRetain (job : Nat)
  /-- LOCAL_CHECKPOINT_WRITE (R371): A complete part is written into the local checkpoint record. -/
  | localCheckpointWrite (job : Nat)
  /-- MEMBER_LOSS (R373): The lead declares a member lost and starts a shrink. -/
  | memberLoss (job addr : Nat)
  /-- SHRINK_RESUME (R375): After restoring the last capture with the new membership the job resumes. -/
  | shrinkResume (job : Nat)
  /-- FW_SWITCH (R402): At the cycle boundary the module switches firmware and releases held commands. -/
  | fwSwitch
  /-- FW_ACTIVATE_TIMEOUT (R402): No switch 30 s after the hold began ends the hold with S_FW_TIMEOUT. -/
  | fwActivateTimeout
  /-- POWER_STATE_REACHED (R411): The module reaches SLEEP or DEEP after stopping slots and writing back. -/
  | powerStateReached
  /-- RTC_ALARM (R415): The RTC reaches the alarm time, clears it and wakes the module. -/
  | rtcAlarm
  /-- WAKE_COMPLETE (R412): A wake from SLEEP or DEEP reaches ACTIVE and rejoins the fleet. -/
  | wakeComplete
  /-- BUDGET_CYCLE (R418): Every 50 us dies report and the arbiter assigns power budgets. -/
  | budgetCycle (reports : List DieReport)
  /-- BUDGET_TIMEOUT (R419): A die with no budget for 150 us falls back to its last budget or floor power. -/
  | budgetTimeout (die : Fin 9)
  /-- THERMAL_THROTTLE_STEP (R420): Every 50 us a hot die steps its clock down or back up. -/
  | thermalThrottleStep (die : Fin 4) (tj : Nat)
  /-- DIE_NAP_ENTRY (R413): A die idle for 1 ms with no program for 200 us turns its grid PLLs off. -/
  | dieNapEntry (die : Fin 4)
  /-- DIE_WAKE (R413): A napping die restarts its PLLs before its next program or on demand. -/
  | dieWake (die : Fin 4)
  /-- SHIM_PLANNER_RUN (R422): The shim planner measures margins, writes a plan and schedules it. -/
  | shimPlannerRun (m : ShimMeasure)
  /-- SUMMARY_WRITE (R437): The persistent summary is written, at most every 60 s or on a fatal record. -/
  | summaryWrite (ok : Bool)
  /-- BUROS (R425): A sideband vendor message runs one command as owner and returns its completion. -/
  | buros (cmd : Bytes) (data : Option Bytes)
  /-- ALERT_READ (R425): Returns the alert status and releases ALERT#. -/
  | alertRead
  /-- WAKE (R425): The sideband wake message wakes the module, clearing latches if conditions have cleared. -/
  | wake
  /-- UNKNOWN_VENDOR_MESSAGE (R425): An unknown vendor code is answered with vendor error 0x01 and logged. -/
  | unknownVendorMessage (code : Nat)
  /-- SETDASA (R23): The I3C controller assigns the module's address from static address 0x2C. -/
  | setdasa (addr : Dasa)
  /-- ENTDAA (R23): The module takes a dynamic I3C address. -/
  | entdaa (addr : Nat)
  /-- HDR_ENTRY (R23): An HDR entry command is ignored until the HDR exit pattern. -/
  | hdrEntry
  /-- SET_ENDPOINT_ID (R424): MCTP control: sets the module's endpoint ID. -/
  | setEndpointId (eid : Nat)
  /-- GET_ENDPOINT_ID (R424): MCTP control: returns the endpoint ID. -/
  | getEndpointId
  /-- GET_MCTP_VERSION_SUPPORT (R424): MCTP control: returns supported MCTP versions. -/
  | getMctpVersionSupport (mtype : Nat)
  /-- GET_MESSAGE_TYPE_SUPPORT (R424): MCTP control: returns supported message types. -/
  | getMessageTypeSupport
  /-- GET_VENDOR_DEFINED_MSG_SUPPORT (R424): MCTP control: returns vendor-defined message support. -/
  | getVendorDefinedMsgSupport (sel : Nat)
  /-- GETTID (R424): PLDM base: returns the terminus ID. -/
  | gettid
  /-- GETPLDMVERSION (R424): PLDM base: returns the PLDM version. -/
  | getpldmversion (ptype : Nat)
  /-- GETPLDMTYPES (R424): PLDM base: returns the supported PLDM types. -/
  | getpldmtypes
  /-- GETPLDMCOMMANDS (R424): PLDM base: returns the supported commands. -/
  | getpldmcommands (ptype : Nat)
  /-- GETPDRREPOSITORYINFO (R424): PLDM Type 2: returns PDR repository information. -/
  | getpdrrepositoryinfo
  /-- GETPDR (R424): PLDM Type 2: returns a PDR. -/
  | getpdr (record : Nat)
  /-- GETSENSORREADING (R424): PLDM Type 2: returns a numeric sensor reading. -/
  | getsensorreading (id : Nat) (measured : Nat)
  /-- GETSTATESENSORREADINGS (R424): PLDM Type 2: returns state sensor readings. -/
  | getstatesensorreadings (id : Nat)
  /-- GETNUMERICEFFECTERVALUE (R424): PLDM Type 2: returns the PWR_LIMIT effecter value. -/
  | getnumericeffectervalue (id : Nat)
  /-- SETNUMERICEFFECTERVALUE (R424): PLDM Type 2: sets PWR_LIMIT through effecter 0x0100. -/
  | setnumericeffectervalue (id value : Nat)
  /-- SETEVENTRECEIVER (R424): PLDM Type 2: sets the receiver of platform events. -/
  | seteventreceiver (eid : Nat)
  /-- PLATFORMEVENTMESSAGE (R424): The module sends a platform event by In-Band Interrupt. -/
  | platformeventmessage
  /-- UNSUPPORTED_PLDM_CMD (R424): Any other PLDM command is answered with ERROR_UNSUPPORTED_PLDM_CMD. -/
  | unsupportedPldmCmd (ptype cmd : Nat)
  /-- UNDERVOLTAGE_REARM (R29): The 48 V input rises through 40.0 V: the undervoltage comparator re-arms, the always-on domain comes up with AON_3V3 valid within 10 ms, and the 20 ms count towards PWR_GOOD begins. -/
  | undervoltageRearm
  /-- FW_HOLD_AT_T (R402): In AT_T mode, at fabric time T the module stops starting commands, sets FN_STATUS.FW_HOLD in every function and starts the 30 s activation timeout. -/
  | fwHoldAtT
  /-- ALERT_CONDITION_CLEAR (R35): An R33 condition such as inlet above 45 C or flow below 4.0 L/min clears while the module is ACTIVE, and ALERT# is released if the sideband has already read the alert status. -/
  | alertConditionClear (row : ProtectRow)
  deriving DecidableEq, Repr

end Sys2Proof
end

