-- ==== Sys2Proof/Decode.lean ====
section
/-! DEFINITION. The block has no instruction encoding: the rows of spec/opcode_table.json give no bits, so no word spells
a command. Host commands are read from their 64 B packets (R396) in Machine/Host.lean. -/

namespace Sys2Proof

/-- The command that a word spells by the table's bits: none, for every row has no bits (log entry 30). -/
def decodeTableWord (_nbits _w : Nat) : Option Instr := none

end Sys2Proof
end

