-- ==== Sys2Proof/Config.lean ====
section
/-! DEFINITION. What an implementation fixes and the spec does not state: every constant here is opaque, so no proof can
see its value, and a statement that holds, holds whatever it is (log entries 1-3). -/

namespace Sys2Proof

/-- Which of the FP32 values within 2 ulp of the exact one firmware 3 returns for a transcendental function (numbered as
the codes of R120, with 0x20 exp2, 0x21 log2, 0x22 erf) of a finite FP32 input: R66 bounds the error and states no
bits. -/
opaque Config.transc : Nat → BitVec 32 → BitVec 2

/-- What a value beyond the range of INT8 (width 8) or INT32 (width 32), an infinity or a NaN is stored as (R41, R69: the
spec states no result): a function of the width and of the value, as `Val.key` lists it. -/
opaque Config.intOut : Nat → List Int → BitVec 32

/-- One addend of an element of dQ (0), dK (1) or dV (2), in FP32 (R118 states that each is an anchored sum, and P, but no
further formula): from the op's descriptor, the P of its query and key, the rows of dO and O of the query, of V of the
key, and of K (dQ) or Q (dK) that it multiplies, all in FP32, and the element's place in the row. -/
opaque Config.gradTerm : Nat → Bytes → BitVec 32 → List (List (BitVec 32)) → Nat → BitVec 32

/-- An element of dx in NORM's backward pass, in FP32 (R123 states that the sums over the row are anchored reductions, but
no further formula): RMSNorm or not, dy × gamma, the normalised x, rstd, the row sums of dy × gamma and of
dy × gamma × normalised x, and the row length. -/
opaque Config.normGrad : Bool → BitVec 32 → BitVec 32 → BitVec 32 → BitVec 32 → BitVec 32 → Nat → BitVec 32

/-- The 32-bit LFSR of a tile's dummy rows after dummy rows for so many ns (R88: the spec gives its width and seed, not
its polynomial). -/
opaque Config.lfsr : Nat → BitVec 32 → BitVec 32

/-- A fresh value the spec leaves open, drawn by the model's own counter (State.freeCtr). -/
opaque Config.freeValue : Nat → BitVec 32

/-- The severity (R433: 0 info to 3 fatal) of an event or log code. The spec gives it for EV_CTX_FAULT alone, in its
example; `severity` in Machine/Ops.lean takes that one from the spec (log entry 7). -/
opaque Config.severity : Nat → BitVec 2

/-- What the check of a firmware image (R402: its length and the SHA-256 of its payload) finds in the image's bytes: the
minor and patch version of a good image, or nothing. The spec does not place the length, the digest and the version in
the image. -/
opaque Config.fwImage : Bytes → Option (BitVec 16)

/-- The payload of the persistent summary (R437) and the debug views whose fields the spec lists without offsets
(R438): the first argument tells them apart, the second holds the values in the order listed. -/
opaque Config.layout : Nat → List Nat → Bytes

end Sys2Proof
end

