-- ==== Sys2Proof/Machine/Bits.lean ====
section
/-! DEFINITION. Fields of byte strings (R8: little-endian), bit ranges (R5), and the checks and generators that the spec
names: CRC-32C, CRC-64 ECMA-182 (R278), SHA-256 and Philox-4x32-10 (R62). -/

namespace Sys2Proof.Machine

/-- Bits [hi:lo] of a number (R5). -/
def bits (v hi lo : Nat) : Nat := (v >>> lo) % 2 ^ (hi + 1 - lo)

/-- A Bool as a bit. -/
def b2n (b : Bool) : Nat := if b then 1 else 0

/-- Bit `i` of a number. -/
def bit (v i : Nat) : Bool := (v >>> i) % 2 == 1

/-- The n bytes from offset `off`, zero beyond the end (R396: bytes at and beyond plen are read as 0). -/
def slice (b : Bytes) (off n : Nat) : Bytes :=
  (b.drop off).take n ++ List.replicate (n - (b.length - off)) 0

/-- A little-endian number (R8). -/
def leNat : Bytes → Nat
  | [] => 0
  | x :: xs => x.toNat + 256 * leNat xs

/-- The n-byte field at offset `off` (R8); bytes beyond the end read as 0. -/
def getLE (b : Bytes) (off n : Nat) : Nat := leNat ((b.drop off).take n)

/-- n bytes of a number, little-endian (R8). -/
def toLE (n v : Nat) : Bytes := (List.range n).map fun i => BitVec.ofNat 8 (v >>> (8 * i))

/-- Write bytes over the bytes at offset `off`, extending with zeros where needed. -/
def splice (b : Bytes) (off : Nat) (x : Bytes) : Bytes :=
  slice b 0 off ++ x ++ b.drop (off + x.length)

/-- Write an n-byte field at offset `off`. -/
def setLE (b : Bytes) (off n v : Nat) : Bytes := splice b off (toLE n v)

/-- All the bytes in the given (offset, length) ranges are zero (R13). -/
def zeroAt (b : Bytes) (rs : List (Nat × Nat)) : Bool := rs.all fun r => getLE b r.1 r.2 == 0

/-- All bytes from an offset on are zero (R13). -/
def zeroFrom (b : Bytes) (off : Nat) : Bool := (b.drop off).all (· == 0)

/-- A signed number held in n bits. -/
def signed (n v : Nat) : Int := if v < 2 ^ (n - 1) then (v : Int) else (v : Int) - (2 ^ n : Nat)

/-- One bit step of the reflected CRC-32C. -/
def crc32cBit (c : Nat) : Nat := if c % 2 = 1 then (c >>> 1) ^^^ 0x82F6_3B78 else c >>> 1

def crc32cByte (c : Nat) (b : Byte) : Nat :=
  let c := c ^^^ b.toNat
  crc32cBit (crc32cBit (crc32cBit (crc32cBit (crc32cBit (crc32cBit (crc32cBit (crc32cBit c)))))))

/-- CRC-32C (Castagnoli), as the standards table of chapter 0 names it. -/
def crc32c (b : Bytes) : Nat := (b.foldl crc32cByte 0xFFFF_FFFF) ^^^ 0xFFFF_FFFF

def crc64Bit (c : Nat) : Nat :=
  if c >>> 63 = 1 then ((c <<< 1) % 2 ^ 64) ^^^ 0x42F0_E1EB_A9EA_3693 else c <<< 1

def crc64Byte (c : Nat) (b : Byte) : Nat :=
  let c := c ^^^ (b.toNat <<< 56)
  crc64Bit (crc64Bit (crc64Bit (crc64Bit (crc64Bit (crc64Bit (crc64Bit (crc64Bit c)))))))

/-- CRC-64 with the ECMA-182 polynomial, initial value 0, no reflection, no final XOR (R278). -/
def crc64 (b : Bytes) : Nat := b.foldl crc64Byte 0

/-! SHA-256 (FIPS 180-4), named by R220, R241, R353, R402. The standard defines its constants as the first 32 fractional
bits of roots of the first primes, and so does the model. -/

/-- The largest r below 2^i more than `r` whose k-th power is at most `n`, found bit by bit. -/
def rootFrom (k n : Nat) : Nat → Nat → Nat
  | 0, r => r
  | i + 1, r => rootFrom k n i (if (r + 2 ^ i) ^ k ≤ n then r + 2 ^ i else r)

/-- The first 32 fractional bits of the k-th root of `p`. -/
def rootFraction (k p : Nat) : Word := BitVec.ofNat 32 (rootFrom k (p <<< (32 * k)) 36 0)

/-- The primes up to 311: the first 64. -/
def smallPrimes : List Nat :=
  (List.range 312).filter fun n => 2 ≤ n && (List.range 18).all fun d => d < 2 || n ≤ d || n % d != 0

/-- XOR of a word rotated right by each of some amounts. -/
def turns (x : Word) (by' : List Nat) : Word := by'.foldl (fun a n => a ^^^ x.rotateRight n) 0

/-- The eight working words, as two halves whose first words each round replaces. -/
structure ShaHalves where
  lo : Word × Word × Word × Word
  hi : Word × Word × Word × Word
  deriving DecidableEq, Repr

def ShaHalves.initial : ShaHalves :=
  let r := fun p => rootFraction 2 p
  ⟨(r 2, r 3, r 5, r 7), (r 11, r 13, r 17, r 19)⟩

/-- One round, with the sum of its constant and its message word. -/
def ShaHalves.round (h : ShaHalves) (kw : Word) : ShaHalves :=
  match h with
  | ⟨(p, q, r, u), (v, x, y, z)⟩ =>
    let mixed := z + kw + turns v [6, 11, 25] + (y ^^^ (v &&& (x ^^^ y)))
    ⟨(mixed + turns p [2, 13, 22] + ((p &&& (q ||| r)) ||| (q &&& r)), p, q, r), (u + mixed, v, x, y)⟩

/-- The rounds of one block: a window of 16 message words moves on by one word a round. -/
def ShaHalves.rounds : List Word → List Word → ShaHalves → ShaHalves
  | [], _, h => h
  | k :: ks, win, h =>
    let at' := fun i => win.getD i 0
    let next := at' 0 + at' 9 + (turns (at' 1) [7, 18] ^^^ (at' 1 >>> 3)) + (turns (at' 14) [17, 19] ^^^ (at' 14 >>> 10))
    rounds ks (win.drop 1 ++ [next]) (h.round (k + at' 0))

def ShaHalves.add (a b : ShaHalves) : ShaHalves :=
  let plus := fun (x y : Word × Word × Word × Word) => (x.1 + y.1, x.2.1 + y.2.1, x.2.2.1 + y.2.2.1, x.2.2.2 + y.2.2.2)
  ⟨plus a.lo b.lo, plus a.hi b.hi⟩

/-- A word of four bytes, most significant first. -/
def wordBE (b : Bytes) : Word := BitVec.ofNat 32 (leNat b.reverse)

/-- Take in `n` blocks of 64 B. -/
def ShaHalves.absorb (ks : List Word) : Nat → Bytes → ShaHalves → ShaHalves
  | 0, _, h => h
  | n + 1, b, h =>
    let win := (List.range 16).map fun i => wordBE (slice b (4 * i) 4)
    absorb ks n (b.drop 64) (h.add (h.rounds ks win))

/-- The message with its end mark and its length in bits, to a multiple of 64 B. -/
def shaPadded (b : Bytes) : Bytes :=
  let room := 64 - (b.length + 9) % 64
  b ++ 0x80#8 :: (List.replicate (room % 64) 0 ++ (toLE 8 (8 * b.length)).reverse)

/-- SHA-256 of a byte string: 32 bytes. -/
def sha256 (b : Bytes) : Bytes :=
  let padded := shaPadded b
  let h := ShaHalves.initial.absorb (smallPrimes.map (rootFraction 3)) (padded.length / 64) padded
  [h.lo.1, h.lo.2.1, h.lo.2.2.1, h.lo.2.2.2, h.hi.1, h.hi.2.1, h.hi.2.2.1, h.hi.2.2.2].flatMap fun w =>
    (toLE 4 w.toNat).reverse

/-- The first 128 bits of SHA-256, as a little-endian number (R220, R353, R362 DVL_DIGEST). -/
def digest128 (b : Bytes) : Nat := leNat ((sha256 b).take 16)

/-! Philox-4x32-10 (R62). -/

def philoxRound (c : Nat × Nat × Nat × Nat) (k : Nat × Nat) : Nat × Nat × Nat × Nat :=
  let p0 := 0xD251_1F53 * c.1
  let p1 := 0xCD9E_8D57 * c.2.2.1
  ((p1 >>> 32) ^^^ c.2.1 ^^^ k.1, p1 % 2 ^ 32, (p0 >>> 32) ^^^ c.2.2.2 ^^^ k.2, p0 % 2 ^ 32)

def philoxRounds : Nat → Nat × Nat × Nat × Nat → Nat × Nat → Nat × Nat × Nat × Nat
  | 0, c, _ => c
  | n + 1, c, k =>
    philoxRounds n (philoxRound c k) ((k.1 + 0x9E37_79B9) % 2 ^ 32, (k.2 + 0xBB67_AE85) % 2 ^ 32)

/-- The word drawn for element `e` of a tensor (R62): counter (e >> 2, tensor ID, step), key the context's seed. -/
def philox (seed tensor step e : Nat) : Nat :=
  let c := philoxRounds 10 ((e >>> 2) % 2 ^ 32, (e >>> 34) % 2 ^ 32, tensor % 2 ^ 32, step % 2 ^ 32)
    (seed % 2 ^ 32, (seed >>> 32) % 2 ^ 32)
  match e % 4 with
  | 0 => c.1
  | 1 => c.2.1
  | 2 => c.2.2.1
  | _ => c.2.2.2

end Sys2Proof.Machine
end

