-- ==== Sys2Proof/Machine/State.lean ====
section
/-! DEFINITION. The state of the module: every register, queue, buffer, counter, mode and pin the spec gives the
UX1, as plain data, its value right after reset, and the reasons a step can stop.

Large sparse families (functions, contexts, objects, queues, tiles) are tables: lists of (number, record) in which an
absent number stands for the record's reset value. Byte memories are lists of (address, byte) in one canonical form
(Machine/Ops.lean, `Memory.wf`). `out` is the model's own record of what the module sends to the outside. -/

namespace Sys2Proof.Machine

/-- A sparse table: an absent key stands for the default record (log entry 4). -/
abbrev Tab (α : Type) := List (Nat × α)

/-- A byte memory: (address, byte) pairs, addresses rising, no zero bytes (R109 and R300 give zero for what nothing
has written; log entry 5). -/
abbrev Mem := List Host.Cell

/-! ### What leaves the module -/

/-- Bodies of the fabric messages the module sends (R338). -/
inductive Msg where
  | mqBind (queue binding srcStage destStage : Nat)
  | mqGrant (binding : Nat) (g : Option Grant)
  | mqBlock (handle off : Nat) (data : Bytes)
  | mqHeader (queue binding : Nat) (hdr : Bytes)
  | mqCredit (binding : Nat) (slots : List Nat) (acked : Option Nat)
  | mqReject (binding seq cause : Nat)
  | mqSync (binding : Nat) (free : List Nat) (posted : Option Nat) (refused : List Nat)
  | coll (hdr payload : Bytes)
  | rowPlan (m : RowMsg)
  | rowReady (m : ReadyMsg)
  | rowCommit (m : RowMsg)
  | jobCtl (m : JobCtl)
  | jobRsp (m : JobRsp)
  | fpListReq (job stage step : Nat)
  | fpList (job stage step rank : Nat) (fps : List Nat)
  | ckpCopy (c : CopySeg)
  | ckpAck (job cseq offset : Nat) (refused : Bool)
  | linkState (c : LinkChange)
  | msgLost (src id mtype : Nat)
  | extRead (tag extent off len : Nat)
  | extWrite (tag extent off : Nat) (last : Bool) (data : Bytes)
  deriving DecidableEq, Repr

/-- Flits the module originates itself (R328). -/
inductive FlitOut where
  | idle
  | data (bytes : Bytes)
  | nak (seq : Nat)
  | init (i : InitFlit)
  | keepalive (k : KeepFlit)
  | elect (e : ElectFlit)
  | tsync (t : TsyncFlit)
  | tree (t : TreeFlit)
  | retrain
  deriving DecidableEq, Repr

/-- Answers on the sideband (R424, R425). -/
inductive SbReply where
  | completion (status : Nat) (tag : Nat) (words : List Nat)
  | alert (bits : Nat)
  | woken (ok : Bool)
  | vendorError (code : Nat)
  | mctp (fields : List Nat)
  | pldm (fields : List Nat)
  | pldmError (code : Nat)
  | ibi (code : Nat)
  | address (a : Nat)
  deriving DecidableEq, Repr

/-- Everything the module sends to the outside, as the model records it. -/
inductive Out where
  /-- a write to host memory through port `h` (R384) -/
  | hostWrite (h addr : Nat) (data : Bytes)
  /-- an MSI-X message (R395) -/
  | msix (fn vector : Nat)
  /-- the value a register read returned -/
  | read (fn off : Nat) (v : Nat)
  /-- an error reported through AER (R384) -/
  | aer (fn : Nat)
  /-- a PME message or WAKEn# asserted for a function (R417) -/
  | pme (fn : Nat)
  | wakePin (h : Nat) (on : Bool)
  /-- a fabric message, with the bytes of its routing header and body (R337) -/
  | msg (dst msgId : Nat) (m : Msg) (wire : Bytes)
  /-- a flit, with the sequence number, acknowledgement and credit returns of its header (R327); those of a DATA flit
  stand in its bytes too -/
  | flit (port : Nat) (f : FlitOut) (hdr : LinkHdr)
  | sideband (r : SbReply)
  deriving DecidableEq, Repr

/-! ### Host ports (chapter 13) -/

/-- A completion that is waiting for room in its completion ring (R395, R397). -/
structure Completion where
  tag : Nat
  status : Nat
  words : List Nat
  noIrq : Bool
  deriving DecidableEq, Repr

/-- A ring pair (R392, R393, R395). -/
structure Pair where
  sqBase : Nat
  sqSize : Nat
  sqHead : Nat
  sqTail : Nat
  cqBase : Nat
  cqSize : Nat
  cqHead : Nat
  cqTail : Nat
  phase : Bool
  vector : Nat
  coalesce : Bool
  /-- RING.DELETE has stopped the fetching (R399) -/
  closing : Bool
  held : List Completion
  deriving DecidableEq, Repr

/-- Why a started command has not completed yet. -/
inductive Wait where
  /-- started, and waiting for data from outside (host memory, a measurement) -/
  | started
  /-- completed, and its completion entry not yet written (R393, R395) -/
  | done
  /-- not started: held by a firmware activation (R402), by a fence (R394), or by a sleeping module (R416) -/
  | held
  | flush (level handle : Nat)
  | ringDelete (pair : Nat)
  | fwSwitch
  | event
  | jigSwitch
  | bind (b : Nat)
  | unbind (b : Nat)
  | submit (job : Nat)
  | job (job : Nat)
  | cancel (job : Nat)
  | ledgerRead (job handle : Nat)
  | ledgerLoad (job : Nat)
  | krfClear (ctx flags : Nat)
  | krfHist (ctx slot flags : Nat) (e0 : Int)
  | krfLoss (ctx k alpha warmup : Nat)
  | pin (handle : Nat)
  | promote (handle : Nat)
  | demote (handle : Nat)
  | atomic (handle off op width operand compare : Nat)
  | mqPost (handle : Nat)
  | port (p : Nat)
  | extRead (sp tag : Nat)
  | extWrite (sp tag : Nat)
  | ckpTake (job : Nat)
  | restore (job : Nat)
  | ckpRelease (handle : Nat)
  | pwrState (target : Nat)
  | holdJob (job : Nat) (resume : Bool)
  deriving DecidableEq, Repr

/-- A command that is outstanding (R393): who issued it, the command, whether it is fenced,
whether it was fetched with owner rights (R386), and what it waits for. -/
structure Outst where
  src : Src
  cmd : Instr
  opcode : Nat
  fence : Bool
  owner : Bool
  wait : Wait
  deriving DecidableEq, Repr

/-- The state of one function (R385, R390). Registers that are held per function stand here too (R14). -/
structure FnSt where
  quarantine : Bool
  fatal : Bool
  enable : Bool
  violCnt : Nat
  /-- instants and kinds of the last violations, newest first, at most 1,024: more than that in any 1 s quarantine the function (R404) -/
  violTimes : List (Nat × Nat)
  sq0Base : Nat
  cq0Base : Nat
  ring0Cfg : Word
  irqCoal : Word
  /-- completions not yet reported under coalescing, and the vectors of their pairs (R395) -/
  coalPend : Nat
  coalVectors : List Nat
  /-- events held for EVT.WAIT: the seq, code and time of their records (R399) -/
  evtHeld : List (Nat × Nat × Nat)
  ovfl : Bool
  msixOn : Bool
  /-- MSI-X table words by byte offset from 0x4000, and the pending bits by vector (R390) -/
  msixTable : Tab Nat
  pba : List Nat
  pairs : Tab Pair
  /-- R10: latched high words of 64-bit reads, and latched low words of 64-bit writes, by register offset -/
  readLatch : Tab Nat
  writeLatch : Tab Nat
  /-- R159: latched head entries by queue -/
  headLatch : Tab Bytes
  vnrSel : Word
  krfSel : Word
  memSel : Nat
  ckpSel : Word
  wakeCause : Word
  dstate : DState
  pmeOn : Bool
  wakePending : Bool
  /-- CTX.SHARE (R191, R387) -/
  maxCtx : Nat
  permille : Nat
  deriving DecidableEq, Repr

/-- The reset value of a function's block (R390, R286, R387). -/
def FnSt.reset : FnSt where
  quarantine := false
  fatal := false
  enable := false
  violCnt := 0
  violTimes := []
  sq0Base := 0
  cq0Base := 0
  ring0Cfg := 0
  irqCoal := 0
  coalPend := 0
  coalVectors := []
  evtHeld := []
  ovfl := false
  msixOn := false
  msixTable := []
  pba := []
  pairs := []
  readLatch := []
  writeLatch := []
  headLatch := []
  vnrSel := 0
  krfSel := 0x0001_0000
  memSel := 0
  ckpSel := 0
  wakeCause := 0
  dstate := .d0
  pmeOn := false
  wakePending := false
  maxCtx := 4096
  permille := 1000

/-- A host port's link (R382, R391 ID_PCIE). -/
structure HostLink where
  perst : Bool
  up : Bool
  width : Nat
  rate : Nat
  flit : Bool
  numVfs : Nat
  deriving DecidableEq, Repr

/-- A host port whose PERST# nothing drives: the pull-down holds it in reset (R22, R24). -/
def HostLink.reset : HostLink where
  perst := true
  up := false
  width := 0
  rate := 0
  flit := false
  numVfs := 0

/-- A pending firmware activation (R402): mode 0 STEP, 1 IMMEDIATE, 2 AT_T, and when its hold began. -/
structure FwAct where
  mode : Nat
  t : Nat
  holdFrom : Option Nat
  src : Option Src
  deriving DecidableEq, Repr

/-- Host ports, commands and firmware (chapter 13). -/
structure HostSt where
  fns : Tab FnSt
  links : Tab HostLink
  outst : List Outst
  ownerPf : Nat
  ready : Bool
  fwVersion : Nat
  fwAct : Option FwAct
  fwCommitted : Option Nat
  deriving DecidableEq, Repr

/-! ### Error log and summary (chapter 15) -/

/-- A record of the error log (R433); `detail` holds the fields of R434 as (width, value). -/
structure LogRec where
  seq : Nat
  code : Nat
  sev : Nat
  source : Nat
  time : Nat
  fn : Option Nat
  rtc : Bool
  repeated : Nat
  ctx : Option Nat
  tenant : Nat
  job : Nat
  detail : List (Nat × Nat)
  deriving DecidableEq, Repr

/-- The payload of the persistent summary (R437): counters by code, the last records of severity 2 or 3, the protective
causes (by row of R33) and the OUT causes, the power-up count and the time spent in ACTIVE, in ns. -/
structure Summary where
  counts : Tab Nat
  severe : List LogRec
  causes : List Nat
  outCauses : List Nat
  powerUps : Nat
  activeNs : Nat
  deriving DecidableEq, Repr

/-- Error log, persistent summary, debug views and interconnect test (chapter 15). -/
structure DbgSt where
  events : Word
  /-- newest first; at most 4,096 records (R433) -/
  log : List LogRec
  nextSeq : Nat
  /-- the last record of a rate-limited kind, by 128 × kind + function, or + 64 + port: its time and seq (R433) -/
  lastLog : Tab (Nat × Nat)
  /-- persistent summary (R437): as it stands, and as it was last written -/
  live : Summary
  saved : Summary
  summaryDue : Bool
  summarySeq : Nat
  lastSummary : Nat
  /-- failed wavelengths and used spares per bundle (R16, R17, R439): (bundle, failed lanes) -/
  lanes : Tab (List Nat)
  /-- error counts of each bundle since LOCAL_READY (R438) -/
  laneErrs : Tab Nat
  deriving DecidableEq, Repr

/-! ### Package, sideband, power (chapters 1 and 14) -/

inductive PowerState where
  | off | deep | sleep | active
  deriving DecidableEq, Repr

/-- Protective comparators and pins of the always-on domain (R22-R35). -/
structure PkgSt where
  pwrGood : Bool
  aonValid : Bool
  uvArmed : Bool
  alert : Bool
  emergOffLow : Bool
  leakWet : Bool
  /-- the flow has stayed at 4.0 L/min or more since a comparator last found it for 2 s (R34) -/
  flowOk : Bool
  /-- the package self-test has passed since power-up or the last module reset (R17, R412) -/
  selfTested : Bool
  rails : Bool
  /-- rows of R33 that hold now, and those that held since the last ALERT_READ -/
  holding : List ProtectRow
  alertStatus : List ProtectRow
  latches : List ProtectRow
  /-- causes of protective entries, with their readings, that the next firmware boot copies into summary and log (R437) -/
  causesDue : List (ProtectRow × Nat)
  /-- a die-to-die wavelength failed with no spare left: module reset at the next frame boundary (R18) -/
  resetDue : Bool
  wakePins : List Nat
  i3cAddr : Option Nat
  hdrIgnore : Bool
  eid : Nat
  eventReceiver : Option Nat
  /-- platform events not yet sent by In-Band Interrupt (R424) -/
  ibiQueue : List Nat
  deriving DecidableEq, Repr

/-- One compute die's clock, budget and temperature (R428 PWR_DIE). -/
structure DieSt where
  clock : Nat
  nap : Bool
  hot : Bool
  budget : Nat
  tj : Nat
  vk : Nat
  /-- when the last budget arrived (R419) -/
  lastBudget : Nat
  floorW : Nat
  demand : Nat
  draw : Nat
  /-- grid current of the last 1 µs window in mA (R91) -/
  current : Nat
  held : Bool
  deriving DecidableEq, Repr

/-- The shim plan in force (R423). Guard bands in mV per die; power table entries (64 × die + step, watts). -/
structure ShimPlan where
  guardBand : List Nat
  powerTable : Tab Nat
  corrBits : Nat
  retryLevel : Nat
  retentionDays : Nat
  calPeriodMs : Nat
  laserCeil : Tab Nat
  eyeMargin : Nat
  /-- per compute die, the grid current of a tile in mA: an 8-bit, a paired and a 16-bit pass of 128 rows of 128 cells (R87) -/
  gridCal : List (Nat × Nat × Nat)
  deriving DecidableEq, Repr

/-- Power, clocks and wake (chapter 14). -/
structure PwrSt where
  events : Word
  state : PowerState
  waking : Bool
  /-- an entry to SLEEP or DEEP that waits for the next frame boundary, and one in progress since it (R411); the flag
  tells an entry on command from a protective one -/
  entryDue : Option (PowerState × Bool)
  entering : Option (PowerState × Bool)
  entryCause : Option ProtectRow
  wakeEn : Word
  lastWake : Nat
  limit : Nat
  inputCut : Option Nat
  volts : Nat
  amps : Nat
  inlet : Nat
  flow : Nat
  rtc : Nat
  alarm : Nat
  shimSeq : Nat
  plan : ShimPlan
  nextPlan : Option ShimPlan
  nextPlanSeq : Nat
  /-- the plan that waits comes from a run at a wake, which may lower voltages too (R423) -/
  nextPlanWake : Bool
  throttleCnt : Nat
  lastThrottleEv : Nat
  dies : Tab DieSt
  otherBudget : Tab Nat
  draw : Nat
  /-- no light on F00 and F01 (R416) -/
  dark : Bool
  /-- the shim planner has not run since the last wake (R422, R423) -/
  planAtWake : Bool
  /-- when the module last became ACTIVE (R437) -/
  activeFrom : Nat
  deriving DecidableEq, Repr

/-! ### Memory tiers (chapter 10) -/

inductive ObjState where
  | flash | promoting | resident | demoting
  deriving DecidableEq, Repr

/-- What an object is to the module, beside a plain object (R290, R297, R302). -/
inductive ObjRole where
  | plain | queueBuf (q : Nat) | result (job : Nat) | version (ctx stage : Nat) | training (ctx stage : Nat)
  | catalogue (job : Nat)
  deriving DecidableEq, Repr

/-- An object (R289). `mem` is its content as reads see it; `durable` its durable content (R318). -/
structure Obj where
  gen : Nat
  live : Bool
  size : Nat
  scratch : Bool
  home : Nat
  ownerFn : Nat
  ownerCtx : Option Nat
  grants : List (Nat × Bool)
  pinRefs : Nat
  sysPins : Nat
  state : ObjState
  dirty : Bool
  mem : Mem
  durable : Mem
  poisoned : List Nat
  /-- lines whose context-store copy is lost, while GDDR7 holds the committed one (R307) -/
  lostLines : List Nat
  /-- the first of its stripes in the context store, none for a SCRATCH object, and the flash dies that had failed when they
  were laid out, as (channel, die) (R306, R307) -/
  stripe : Option Nat
  stripeSkip : List (Nat × Nat)
  access : Nat
  lastAccess : Nat
  /-- protected from demotion up to and with this frame (R299) -/
  protectedTo : Option Nat
  planned : Bool
  /-- it has data staged in SLC mode, and the instants of its last two writes to the context store (R310) -/
  slc : Bool
  programmed : List Nat
  role : ObjRole
  /-- revocations that ops still see until the frame boundary (R292) -/
  oldGrants : List (Nat × Bool)
  deriving DecidableEq, Repr

/-- An unused object-table slot (R288, R289). -/
def Obj.free : Obj where
  gen := 0
  live := false
  size := 0
  scratch := false
  home := 0
  ownerFn := 0
  ownerCtx := none
  grants := []
  pinRefs := 0
  sysPins := 0
  state := .flash
  dirty := false
  mem := []
  durable := []
  poisoned := []
  lostLines := []
  stripe := none
  stripeSkip := []
  access := 0
  lastAccess := 0
  protectedTo := none
  planned := false
  slc := false
  programmed := []
  role := .plain
  oldGrants := []

/-- A flash block's bookkeeping (R308, R309). -/
structure Block where
  erases : Nat
  progTime : Nat
  reads : Nat
  corr : Nat
  retry : Nat
  bad : Bool
  deriving DecidableEq, Repr

/-- One persistent record kept in two banks (R314, R316): seq of each bank, 0 for no valid copy. -/
structure TwoBank where
  bank0 : Nat
  bank1 : Nat
  /-- the record as each bank holds it: its 32 B header and its payload (R314) -/
  copy0 : Bytes
  copy1 : Bytes
  deriving DecidableEq, Repr

/-- A record that has never been written: both banks erased. -/
def TwoBank.erased : TwoBank where
  bank0 := 0
  bank1 := 0
  copy0 := []
  copy1 := []

/-- A 256 B line in a memory die's write-combining buffer, with a mask of its bytes written (R296). -/
structure WcbLine where
  die : Nat
  handle : Nat
  line : Nat
  mask : Nat
  deriving DecidableEq, Repr

/-- Memory tiers, placement and the context store (chapter 10). -/
structure MemSt where
  events : Word
  ceCnt : Nat
  ueCnt : Nat
  lateCnt : Nat
  refreshCnt : Nat
  objs : Tab Obj
  /-- write-combining lines not yet written back, oldest first (R296) -/
  wcb : List WcbLine
  gddrRate : Tab Nat
  gddrSyms : Tab Nat
  flashFailed : List (Nat × Nat)
  rebuilding : List (Nat × Nat)
  maxRetry : Tab Nat
  blocks : Tab Block
  wearRaised : Nat
  /-- EV_OBJ_SPARE_LOW has been raised, and the spare capacity that failed dies have taken (R304, R311) -/
  spareRaised : Bool
  spareLostGiB : Nat
  records : Tab TwoBank
  journalSeq : Nat
  lastMapWrite : Nat
  gddrReady : Bool
  nextCal : Nat
  deriving DecidableEq, Repr

/-! ### Mortise queues (chapter 5) -/

inductive SlotSt where
  | free | granted | posted | taken
  deriving DecidableEq, Repr

/-- A posted entry: its 64 B header (R143) and its slot. -/
structure QEntry where
  hdr : Bytes
  slot : Nat
  deriving DecidableEq, Repr

/-- A mortise queue (R146-R148, R158). -/
structure Queue where
  state : Nat
  phase : Nat
  stage : Nat
  depth : Nat
  slotUnits : Nat
  producer : Nat
  posted : Nat
  handle : Nat
  /-- the binding that feeds it: (sender address, binding number at the sender) -/
  bound : Option (Nat × Nat)
  slots : List SlotSt
  entries : List QEntry
  early : List (Nat × Bytes)
  nextSeq : Nat
  doneSeqs : List Nat
  crcOnce : List Nat
  /-- freed slots not yet reported, and whether a posting is unreported (R147) -/
  creditPend : List Nat
  ackPend : Bool
  emptyFrame : Bool
  /-- EV_MQ_INFLIGHT_LIMIT raised in this frame (R139) -/
  limitFrame : Bool
  deriving DecidableEq, Repr

def Queue.reset : Queue where
  state := 0
  phase := 0
  stage := 0
  depth := 0
  slotUnits := 0
  producer := 0
  posted := 0
  handle := 0
  bound := none
  slots := []
  entries := []
  early := []
  nextSeq := 0
  doneSeqs := []
  crcOnce := []
  creditPend := []
  ackPend := false
  emptyFrame := false
  limitFrame := false

/-- A send in progress on a binding (R155): context, micro-batch, slot, members still to write, the header taken
upstream, its rows, total block length and queue word. -/
structure Sending where
  ctx : Nat
  mb : Nat
  slot : Nat
  left : List Nat
  hdr : Bytes
  rows : Nat
  blkLen : Nat
  word : Nat
  /-- every member's length and the block length are 0: the header goes with the marker flag -/
  marker : Bool
  deriving DecidableEq, Repr

/-- A sending binding (R147, R158, R162). -/
structure Binding where
  state : Nat
  ports : Nat
  destQueue : Nat
  destStage : Nat
  destAddr : Nat
  srcStage : Nat
  credits : List Nat
  slotBytes : Nat
  handle : Nat
  /-- resend window: (seq, sending context, header) -/
  window : List (Nat × Nat × Bytes)
  seq : Nat
  crcRefused : List Nat
  /-- slots of discarded headers, usable again after the next credit message (R156) -/
  reclaim : List Nat
  loc : Bool
  /-- sends whose header has not gone to the link yet, oldest first (R155) -/
  sending : List Sending
  deriving DecidableEq, Repr

def Binding.reset : Binding where
  state := 0
  ports := 0
  destQueue := 0
  destStage := 0
  destAddr := 0
  srcStage := 0
  credits := []
  slotBytes := 0
  handle := 0
  window := []
  seq := 0
  crcRefused := []
  reclaim := []
  loc := false
  sending := []

structure MqSt where
  events : Word
  refuseCnt : Nat
  emptyCnt : Nat
  stallCnt : Nat
  resendCnt : Nat
  queues : Tab Queue
  bindings : Tab Binding
  /-- contexts torn down, with the time (R145 CTX_GONE within 10 ms) -/
  gone : List (Nat × Nat)
  deriving DecidableEq, Repr

/-! ### Contexts, veneer store, jobs (chapter 6) and training state (chapter 9) -/

inductive CtxState where
  | free | admitted | running | held | faulted | done
  deriving DecidableEq, Repr

/-- Reasons a context can be held for (R166), each kept separately; `veneerOther` is the hold that the lead orders while the
veneer store of another member is full (R176). -/
inductive HoldReason where
  | command | divergence | shrink | veneerFull | moduleHold | timeout | restore | veneerOther
  deriving DecidableEq, Repr

/-- A version entry (R171): state 0 EMPTY, 1 LOADING, 2 READY. -/
structure Version where
  state : Nat
  current : Bool
  objects : List (Nat × Nat)
  refs : Nat
  pins : Nat
  /-- where the slice of object 0 stands in the tile stores (R172): (tile, offset in its store, bytes) -/
  copies : List (Nat × Nat × Nat)
  deriving DecidableEq, Repr

def Version.empty : Version where
  state := 0
  current := false
  objects := []
  refs := 0
  pins := 0
  copies := []

/-- The loss monitor (R275, R276); FP32 fields as bit patterns; the step accumulator at anchor 32. -/
structure LossMon where
  mean : Nat
  var : Nat
  last : Nat
  k : Nat
  alpha : Nat
  warmup : Nat
  n : Nat
  spikes : Nat
  nonfinite : Nat
  lastStep : Nat
  truncated : Nat
  acc : Int
  accP : Bool
  accN : Bool
  accQ : Bool
  rows : Nat
  truncStep : Bool
  deriving DecidableEq, Repr

/-- Defaults of R275: k = 6.0, alpha = 0.03125, warmup = 32. -/
def LossMon.reset : LossMon where
  mean := 0
  var := 0
  last := 0
  k := 0x40C0_0000
  alpha := 0x3D00_0000
  warmup := 32
  n := 0
  spikes := 0
  nonfinite := 0
  lastStep := 0
  truncated := 0
  acc := 0
  accP := false
  accN := false
  accQ := false
  rows := 0
  truncStep := false

/-- One histogram slot's setting (R272). -/
structure HistCfg where
  e0 : Int
  eachStep : Bool
  deriving DecidableEq, Repr

/-- One shard's fingerprint, and where its bytes lay: an object, or the field of a space on a tile (handle 0). -/
structure FpShard where
  no : Nat
  fp : Nat
  handle : Nat
  off : Nat
  len : Nat
  tile : Nat
  deriving DecidableEq, Repr

/-- A stage's fingerprint list for one step (R279, R280): shard fingerprints, and F once formed (0: not yet). -/
structure FpList where
  stage : Nat
  step : Nat
  shards : List FpShard
  f : Nat
  coll : Nat
  deriving DecidableEq, Repr

/-- What waits for the next frame boundary to act on a context (R190, R219). -/
inductive CtxAct where
  | hold (r : HoldReason)
  | resume (r : HoldReason)
  | cancel
  deriving DecidableEq, Repr

/-- A tenant context on this module (R165). -/
structure Ctx where
  state : CtxState
  heldFrom : CtxState
  holds : List HoldReason
  acts : List CtxAct
  tenant : Nat
  job : Nat
  fn : Nat
  deadline : Nat
  seed : Nat
  pipeline : Nat
  /-- flags of JOB.SUBMIT (R181) -/
  flags : Nat
  jobTag : Nat
  mbPerStep : Nat
  /-- per neighbouring stage: (stage, address, context ID there) (R165, R167) -/
  peers : List (Nat × Nat × Nat)
  step : Nat
  steps : Nat
  rowFrames : Nat
  /-- 0 FWD, 1 BWD, 2 REDUCE, 3 UPDATE, and whether its work is done (R216) -/
  phase : Nat
  phaseDone : Bool
  rowFramesIn : Nat
  /-- frame of the last phase move, and the instant of admission (R216, R218) -/
  movedAt : Option Nat
  admittedAt : Nat
  /-- the first frame for which it was reported ready while objects were still to promote (R299) -/
  readyBy : Option Nat
  cause : Nat
  faultedAt : Nat
  vers : Tab (List Version)
  /-- micro-batches in flight per stage: (step, mb, version) (R138, R139, R173) -/
  inflight : Tab (List (Nat × Nat × Nat))
  /-- handles of the state, error and gradient objects per stage (R258) -/
  stateObj : Tab Nat
  errObj : Tab Nat
  gradObj : Tab Nat
  hyper : Nat
  prefixObj : Nat
  /-- the records of the job's manifest as they were admitted (R182, R186) -/
  manifest : Bytes
  /-- next micro-batch of the step to post, and the extent cursor: record and byte offset (R186) -/
  nextMb : Nat
  extent : Nat
  extentOff : Nat
  /-- rows that the lead has sent for stage 0 here and that wait for a free slot (R186) -/
  inputs : List InputMb
  fullRaised : Bool
  /-- kerf counters by ((class × 11 + format − 1) × 5 + event) (R271, R273) -/
  kerf : Tab Nat
  /-- overflow and NaN events since the last EV_KRF_NONFINITE, and the (class, format) of the first since the last frame boundary (R277) -/
  kerfSeen : Nat
  kerfFirst : Option (Nat × Nat)
  /-- histogram bins by (slot − 1) × 64 + bin, and settings by slot (R272) -/
  hist : Tab Nat
  histCfg : Tab HistCfg
  loss : LossMon
  fps : List FpList
  /-- deferral ledger (R247): [coll, step, rank, policy, applied, owner] -/
  ledger : List (List Nat)
  ledgerFull : Bool
  /-- ledger loaded for a REPLAY job, and whether it has been loaded (R248) -/
  replay : List (List Nat)
  replayLoaded : Bool
  deferrals : Nat
  drops : Nat
  mismatches : Nat
  /-- repairs the lead has asked for: (stage, step) (R282) -/
  repairs : List (Nat × Nat)
  /-- a restored context waits for the bank digest, cycle position and visit frame captured (R372) -/
  startAt : Option (Nat × Nat × Nat)
  /-- the rank map of a shrunk job (R375): addresses replaced (lost, buddy), addresses removed, and the stages this
  module has taken over (R374) -/
  replaced : List (Nat × Nat)
  removed : List Nat
  taken : List Nat
  deriving DecidableEq, Repr

/-- A FREE context (R166). -/
def Ctx.free : Ctx where
  state := .free
  heldFrom := .admitted
  holds := []
  acts := []
  tenant := 0
  job := 0
  fn := 0
  deadline := 0
  seed := 0
  pipeline := 0
  flags := 0
  jobTag := 0
  mbPerStep := 0
  peers := []
  step := 0
  steps := 0
  rowFrames := 0
  phase := 0
  phaseDone := false
  rowFramesIn := 0
  movedAt := none
  admittedAt := 0
  readyBy := none
  cause := 0
  faultedAt := 0
  vers := []
  inflight := []
  stateObj := []
  errObj := []
  gradObj := []
  hyper := 0
  prefixObj := 0
  manifest := []
  nextMb := 0
  extent := 0
  extentOff := 0
  inputs := []
  fullRaised := false
  kerf := []
  kerfSeen := 0
  kerfFirst := none
  hist := []
  histCfg := []
  loss := LossMon.reset
  fps := []
  ledger := []
  ledgerFull := false
  replay := []
  replayLoaded := false
  deferrals := 0
  drops := 0
  mismatches := 0
  repairs := []
  startAt := none
  replaced := []
  removed := []
  taken := []

/-- Where an admission stands at the lead (R183). -/
inductive Admission where
  | reserving (awaiting : List Nat)
  | committing (awaiting : List Nat)
  | admitted
  deriving DecidableEq, Repr

/-- A member's answer to the lead's gathering (R188): bytes per stage, and shard fingerprints (stage, shard, fingerprint). -/
structure Gathered where
  member : Nat
  stages : List (Nat × Bytes)
  fps : List (Nat × Nat × Nat)
  deriving DecidableEq, Repr

/-- A job at its lead (R165, R181-R190, R218). -/
structure Job where
  id : Nat
  fn : Nat
  tenant : Nat
  jobTag : Nat
  pipeline : Nat
  flags : Nat
  deadline : Nat
  admittedAt : Nat
  seed : Nat
  steps : Nat
  mbPerStep : Nat
  manifest : Bytes
  group : Nat
  members : List Nat
  /-- context ID and hosted stages at each member: (address, context, stages) -/
  memberCtx : List (Nat × Nat × List Nat)
  admission : Admission
  groupsLeft : List Nat
  /-- final status once the job is finished, none while it runs -/
  status : Option Nat
  stepsDone : Nat
  cause : Nat
  causeMember : Nat
  /-- the holds that the lead has ordered on every member (R166, R190) -/
  holds : List HoldReason
  /-- members whose veneer store is full for the job's next version (R176) -/
  fullAt : List Nat
  result : Nat
  fingerprint : Nat
  /-- what members have answered to the lead's gathering (R188) -/
  gathered : List Gathered
  lastCkp : Nat
  cancelling : Bool
  deadlineCkp : Bool
  doneMembers : List Nat
  finish : Option Nat
  risk : Bool
  calmTests : Nat
  /-- (stage, step) pairs of divergence acted on, and repairs awaited (R281, R282) -/
  diverged : List (Nat × Nat)
  /-- the divergence whose fingerprints are collected or repaired, those found meanwhile (R283), members whose list is
  awaited, lists collected as (member, F), members that repair, and shards copied so far -/
  collecting : Option (Nat × Nat)
  laterDiv : List (Nat × Nat)
  asked : List Nat
  collected : List (Nat × Nat)
  repairing : List Nat
  copied : Nat
  /-- lists of the final step still awaited, as (member, stage) (R281) -/
  finalLists : List (Nat × Nat)
  /-- collective instances whose timeout the lead has acted on: (coll, step) (R245) -/
  timeouts : List (Nat × Nat)
  ledgerGot : List (Nat × List (List Nat))
  /-- the checkpoint that a CKP.RESTORE admits this job from: its job and cseq (R372) -/
  restoring : Option (Nat × Nat)
  deriving DecidableEq, Repr

structure VnrSt where
  events : Word
  faultCnt : Nat
  indexCnt : Nat
  ctxs : Tab Ctx
  jobs : Tab Job
  jobSerial : Nat
  krfEvents : Word
  divergeCnt : Nat
  deriving DecidableEq, Repr

/-! ### The jig (chapter 7) -/

/-- A tenant row in the current frame (R225 JIG_ROW). -/
structure RowHold where
  ctx : Option Nat
  arrival : Bool
  pipe : Nat
  deriving DecidableEq, Repr

/-- A pending JIG.SWITCH (R220). -/
structure JigPend where
  t : Nat
  idle : Bool
  src : Option Src
  deriving DecidableEq, Repr

structure JigSt where
  events : Word
  lateCnt : Nat
  idleRows : Nat
  /-- images of bank 0 and bank 1 by cycle position: the bytes that JIG.LOAD read -/
  bank0 : Tab Bytes
  bank1 : Tab Bytes
  activeNo : Nat
  running : Bool
  ts : Nat
  frame : Nat
  pos : Nat
  visit : Nat
  pend : Option JigPend
  rows : Tab RowHold
  /-- plans, readiness reports and commits by frame: (pipeline, frame) (R211-R213) -/
  plans : List RowMsg
  readies : List (Nat × ReadyMsg)
  commits : List RowMsg
  /-- at a row coordinator: the plans and commits of its groups, contexts by job ID (R211, R213), and of the jobs whose
  contexts it does not host the phase announced last, with the frame of the move: (job, phase, frame) (R216) -/
  groupPlans : List (Nat × RowMsg)
  groupCommits : List (Nat × RowMsg)
  phases : List (Nat × Nat × Nat)
  /-- tenant row-frames run, newest first, at most 1,024: lists of (key of replica group, pipeline and function,
  count) (R211, R217, R218) -/
  usage : List (List (Nat × Nat))
  /-- a program was late in this frame, and the latest one: entry, tile, lateness (R204) -/
  late : Bool
  latest : Nat × Nat × Nat
  lateHist : List Bool
  throttleArmed : Bool
  noCommit : Bool
  /-- a job changed since the last deadline test (R218) -/
  retest : Bool
  /-- a bank kept through SLEEP that has not resumed yet (R412) -/
  paused : Bool
  deriving DecidableEq, Repr

/-! ### Tiles (chapters 3 and 4) -/

/-- What an op acts for and on: its tile, context, stage, weight version, step, micro-batch and seed; the header of its
micro-batch, and where that micro-batch's input block (address, bytes) and outgoing block (address, first block byte,
bytes) lie in the tile stores (R153). -/
structure OpEnv where
  tile : Nat
  kind : Nat
  seq : Nat
  ctx : Nat
  stage : Nat
  ver : Nat
  step : Nat
  mb : Nat
  win : Nat
  seed : Nat
  hdr : Option Bytes
  inAt : Option (Nat × Nat)
  outAt : Option (Nat × Nat × Nat)
  deriving DecidableEq, Repr

/-- A and B of a matrix product as bytes with their scales, and the bias, for `k` inner indices and `n` columns. -/
structure GemmIn where
  fa : Nat
  fb : Nat
  k : Nat
  n : Nat
  a : Bytes
  sa : Bytes
  b : Bytes
  sb : Bytes
  bias : Option Bytes
  deriving DecidableEq, Repr

/-- A micro-batch of a grid op on its way through the grid: its descriptor, what it acts for, the operands it brought
along when its turn in the program came (R83), the instant it was taken from its queue (R85), the row of the pass its rows
begin at (R86), and the parts of its split-K group, as (tile, seq), itself apart (R95). -/
structure GridItem where
  desc : Bytes
  env : OpEnv
  inp : GemmIn
  since : Nat
  row : Nat
  parts : List (Nat × Nat)
  deriving DecidableEq, Repr

/-- A gather group of the fill gate (R84): its key, its rows, what joined it in order, when the first of that was taken
from its queue, and how many of its rows have issued. -/
structure Group where
  ctx : Nat
  stage : Nat
  version : Nat
  rows : Nat
  items : List GridItem
  opened : Nat
  closed : Bool
  issued : Nat
  deriving DecidableEq, Repr

/-- An anchored accumulator (R49): an 88-bit integer with its anchor and sticky flags. -/
structure Elem where
  acc : Int
  anchor : Int
  p : Bool
  n : Bool
  q : Bool
  deriving DecidableEq, Repr

/-- What one set of weight registers of a grid holds (R75): the format of the weights, the (context, version) they belong
to, and for each grid row the contents of its cells; an empty list stands for zero weights. -/
structure Weights where
  fmt : Nat
  owner : Option (Nat × Nat)
  cells : List (List Nat)
  deriving DecidableEq, Repr

/-- A grid (R71-R81): the CUR and NXT registers of its cells, whether the row with the front bit has passed since they
last switched, and the accumulators of the block as its passes before the last left them. -/
structure GridSt where
  cur : Weights
  nxt : Weights
  armed : Bool
  acc : List (List Elem)
  deriving DecidableEq, Repr

/-- What the last RECV of the program took, when, and where its spaces lie (R151-R153). -/
structure Take where
  hdrs : List Bytes
  times : List Nat
  inBase : Nat
  inStride : Nat
  outBase : Nat
  outStride : Nat
  outPartOff : Nat
  /-- the RECV took nothing, so later ops are skipped (R152) -/
  skip : Bool
  /-- the descriptor of the RECV -/
  recv : Bytes
  /-- version references that end with this tile's program (R173): (context, stage, version) -/
  refs : List (Nat × Nat × Nat)
  /-- a stream RECV may still take entries (R152) -/
  streaming : Bool
  deriving DecidableEq, Repr

/-- A slot as a tile meets it at its nominal start (R200-R203, R222): entry number, nominal start, entry bytes, grace in
ns, the ops of the slot by tile, and the context of its tenant row. -/
structure SlotDue where
  entry : Nat
  start : Nat
  desc : Bytes
  grace : Nat
  ops : List (Nat × Bytes)
  row : Option Nat
  deriving DecidableEq, Repr

structure TileSt where
  /-- the slot whose program runs: entry number, nominal start, entry bytes; those that wait for it, in order (R203);
  whether lateness was counted, and the grace before it is (R204) -/
  prog : Option (Nat × Nat × Bytes)
  next : List SlotDue
  lateSeen : Bool
  grace : Nat
  /-- the ops of its program that have had their turn, as (seq, micro-batch) (R107, R153) -/
  turns : List (Nat × Nat)
  /-- the ops of the slot by tile, as its image held them when the program began, and the context of its tenant row then
  (R201, R203, R209, R222) -/
  slotOps : List (Nat × Bytes)
  rowHeld : Option Nat
  /-- the last descriptor of the program has run for every micro-batch taken so far (R107) -/
  ended : Bool
  take : Option Take
  /-- the context a HEAD-mode RECV selected for the slot's tenant row (R152, R215) -/
  sel : Option Nat
  tags : Tab Nat
  groups : List Group
  /-- parts of split-K groups that wait for the others' pre-scans (R54, R95) -/
  split : List GridItem
  level : Nat
  gated : Bool
  lastCurrent : Nat
  lfsr : Nat
  /-- index-range counter (R130) -/
  indexCnt : Nat
  passes : Nat
  grid : GridSt
  /-- the slew governor holds the tile's west-edge issue, and for how many ns it has done so (R91, R438) -/
  held : Bool
  slewNs : Nat
  running : Option (Nat × Nat × Nat)
  /-- L1 lines held since the slot began, newest first: (handle, 128 B line) with the bytes read (R100, R102) -/
  l1 : List (Nat × Nat × Bytes)
  /-- bytes of objects and of the window (handle 0) that other tiles of the slot have written and this tile does not see
  yet, as it sees them: (handle, offset, byte) (R108) -/
  unseen : List (Nat × Nat × Byte)
  opStatus : Nat
  deriving DecidableEq, Repr

/-- Weight registers after power-up: zero weights (log entry 97). -/
def Weights.zero : Weights where
  fmt := 0
  owner := none
  cells := []

/-- A grid at rest: a first pass switches at its first row. -/
def GridSt.reset : GridSt where
  cur := Weights.zero
  nxt := Weights.zero
  armed := true
  acc := []

def TileSt.reset : TileSt where
  prog := none
  next := []
  lateSeen := false
  grace := 0
  turns := []
  slotOps := []
  rowHeld := none
  ended := false
  take := none
  sel := none
  tags := []
  groups := []
  split := []
  level := 0
  gated := true
  lastCurrent := 0
  lfsr := 1
  indexCnt := 0
  passes := 0
  grid := GridSt.reset
  held := false
  slewNs := 0
  running := none
  l1 := []
  unseen := []
  opStatus := 0

/-- Tile stores (address tile × 2^22 + offset), windows (die × 2^26 + offset) and their granule tags (R109). -/
structure TilesSt where
  tiles : Tab TileSt
  store : Mem
  window : Mem
  wtags : Tab Nat
  deriving DecidableEq, Repr

/-! ### Collectives (chapter 8) -/

/-- One part of this member: the tile, micro-batch index, descriptor with its extensions, and the operands it read
(R228; R54: products wait for the agreed anchor). -/
structure CollPart where
  tile : Nat
  mb : Nat
  desc : Bytes
  operands : List Bytes
  deriving DecidableEq, Repr

/-- An instance of a collective on this member (R228, R237-R246). -/
structure Inst where
  key : InstKey
  ctx : Nat
  /-- descriptor of one part: every part has the same fields but its rows and destinations (R230) -/
  desc : Bytes
  parts : List CollPart
  /-- how many ops of the slot form the member (R228) -/
  expected : Nat
  members : List Nat
  rank : Nat
  signature : Nat
  closeT : Nat
  ttrav : Nat
  anchorT : Nat
  queue : Option Nat
  /-- every part has run -/
  ready : Bool
  /-- own anchor proposals: (owner, one anchor per block of its chunk) -/
  ownProposals : List (Nat × List Int)
  /-- proposals received for the own chunk: (rank, anchors) -/
  proposals : List (Nat × List Int)
  /-- anchors agreed per owner -/
  agreed : List (Nat × List Int)
  /-- contributions to the own chunk as they arrive: (rank, bytes); ranks whose contribution is complete, in the order
  in which they became so -/
  got : List (Nat × Bytes)
  order : List Nat
  /-- chunks gathered, and reduced chunks, by owner rank -/
  res : List (Nat × Bytes)
  /-- signatures seen in first messages: (rank, signature) -/
  firstSeen : List (Nat × Nat)
  /-- ranks to which a first message has gone -/
  firstSent : List Nat
  /-- ranks late for the own chunk (R244) -/
  late : List Nat
  /-- the own chunk has been reduced -/
  summed : Bool
  closed : Bool
  committed : Bool
  stopped : Bool
  deriving DecidableEq, Repr

/-- A deferred contribution held for the next step's instance (R246). -/
structure Deferred where
  key : InstKey
  rank : Nat
  data : Bytes
  deriving DecidableEq, Repr

/-- An open glue-up queue (R239, R254). -/
structure GluQueue where
  key : InstKey
  ctx : Nat
  closed : Bool
  deriving DecidableEq, Repr

structure GluSt where
  events : Word
  mismatchCnt : Nat
  lateCnt : Nat
  deferCnt : Nat
  dropCnt : Nat
  /-- glue-up queue q: the key of its open instance -/
  queues : Tab GluQueue
  insts : List Inst
  deferred : List Deferred
  /-- pages that segments of this module hold at a member, by its address, until CREDIT messages return them (R239) -/
  credits : Tab Nat
  lateEv : List Nat
  deriving DecidableEq, Repr

/-! ### Dovetail fabric (chapter 11) -/

/-- A sequenced flit in the replay buffer (R330), with the source, msg_id and mtype of the forwarded message it belongs
to. -/
structure Unacked where
  seq : Nat
  flit : FlitOut
  msg : Option (Nat × Nat × Nat)
  deriving DecidableEq, Repr

/-- Where the flits of an arriving message go (R336): to this module, out on a port, or nowhere, the message being
lost. -/
inductive Onward where
  | here | port (p : Nat) | lost
  deriving DecidableEq, Repr

/-- A message that has begun to arrive and whose eop has not come yet (R336, R337): its source, msg_id and mtype, the
body length and CRC of its header, and the body so far. -/
structure OpenMsg where
  onward : Onward
  src : Nat
  msgId : Nat
  mtype : Nat
  length : Nat
  crc : Nat
  body : Bytes
  deriving DecidableEq, Repr

/-- A flit that waits to be sent on (R329, R336): its input port, class (true: RSP), the flit, and its message. -/
structure Waiting where
  src : Nat
  rsp : Bool
  flit : Bytes
  msg : Nat × Nat × Nat
  deriving DecidableEq, Repr

/-- A port (R326, R327-R333, R362). Ports 28-31 are S0-S3. -/
structure PortSt where
  state : Nat
  width : Nat
  partner : Nat
  partnerPort : Nat
  partnerSerial : Nat
  failedLanes : List Nat
  litLow : Bool
  litHigh : Bool
  /-- replay events in the current 1 ms window, and in the last one (R333, R362) -/
  replay : Nat
  lastReplay : Nat
  overWindows : Nat
  /-- violations of the last second, newest first: instant and kind (R334, R362) -/
  viols : List (Nat × Nat)
  fecCorr : Nat
  fecUncorr : Nat
  margin : Nat
  downs : Nat
  txSeq : Nat
  rxSeq : Nat
  nakSent : Bool
  window : List Unacked
  crReq : Nat
  crRsp : Nat
  crShared : Nat
  rxReq : Nat
  rxRsp : Nat
  rxShared : Nat
  retReq : Nat
  retRsp : Nat
  /-- the open message of each class (R336) -/
  openReq : Option OpenMsg
  openRsp : Option OpenMsg
  /-- the input port whose message holds this output, per class, and flits that wait for a credit (R336, R329) -/
  txReq : Option Nat
  txRsp : Option Nat
  waitTx : List Waiting
  /-- the class that a DATA flit went out in last (true: RSP), and the module's own sequenced flits that wait for room in
  the replay buffer (R336, R330) -/
  lastRsp : Bool
  waitOwn : List FlitOut
  /-- the retrain in progress resets the credit counts (R334) -/
  creditReset : Bool
  unacked : Nat
  retraining : Bool
  laser : Tab Nat
  marginLane : Tab Nat
  /-- what the neighbour advertised last (R348, R350, R355) -/
  nbrKeep : Option KeepFlit
  nbrElect : Option ElectFlit
  nbrCount : Nat
  sinceMatch : Nat
  sinceDiffer : Nat
  lastTx : Nat
  deriving DecidableEq, Repr

def PortSt.reset : PortSt where
  state := 0
  width := 0
  partner := 0
  partnerPort := 0
  partnerSerial := 0
  failedLanes := []
  litLow := false
  litHigh := false
  replay := 0
  lastReplay := 0
  overWindows := 0
  viols := []
  fecCorr := 0
  fecUncorr := 0
  margin := 0
  downs := 0
  txSeq := 0
  rxSeq := 0
  nakSent := false
  window := []
  crReq := 256
  crRsp := 256
  crShared := 1536
  rxReq := 0
  rxRsp := 0
  rxShared := 0
  retReq := 0
  retRsp := 0
  openReq := none
  openRsp := none
  txReq := none
  txRsp := none
  waitTx := []
  lastRsp := false
  waitOwn := []
  creditReset := false
  unacked := 0
  retraining := false
  laser := []
  marginLane := []
  nbrKeep := none
  nbrElect := none
  nbrCount := 0
  sinceMatch := 0
  sinceDiffer := 0
  lastTx := 0

/-- A message kept for resending (R341). -/
structure Sent where
  msgId : Nat
  dst : Nat
  msg : Msg
  resends : Nat
  lostAt : Option Nat
  deriving DecidableEq, Repr

/-- A staged configuration set (R359). -/
structure Staged where
  epoch : Nat
  digest : Nat
  t : Nat
  set : Bytes
  map : Option Bytes
  deriving DecidableEq, Repr

/-- An outstanding EXT tag on an S port (R343). -/
structure ExtTag where
  sp : Nat
  tag : Nat
  read : Bool
  handle : Nat
  objOff : Nat
  extOff : Nat
  left : Nat
  src : Src
  deriving DecidableEq, Repr

structure DvlSt where
  events : Word
  step : Nat
  hold : Bool
  /-- HOLD begins, or ends, at the next frame boundary (R357, R358) -/
  holdDue : Bool
  holdEnd : Bool
  locked : Bool
  closed : Bool
  outCause : Nat
  rootAddr : Nat
  rootDist : Nat
  rootPrio : Nat
  rootSerial : Nat
  parent : Option Nat
  bestSince : Nat
  epochIssued : Bool
  offsets : List Int
  /-- correction of the counter's rate, in parts per 10^12 (R351) -/
  rate : Int
  unlockedAt : Option Nat
  estError : Nat
  fleetReady : Bool
  mismatchRaised : Bool
  /-- the module is AGREED (R356), the root's count has fallen below the quorum (R350), and why HOLD is due: the cause
  under R357 with the other pair, none for a time error (R352) -/
  agreed : Bool
  belowQuorum : Bool
  holdCause : Option (Nat × Nat × Nat)
  nEv : Nat
  nWin : Nat
  epoch : Nat
  digest : Nat
  /-- the set in force, and the map in force (R344, R353) -/
  set : Bytes
  map : Option Bytes
  /-- the module's own serial and installation ID, where it holds one (R345) -/
  serial : Nat
  install : Option Nat
  addr : Nat
  staged : Option Staged
  lostCnt : Nat
  msgCrcCnt : Nat
  nextMsgId : Nat
  sent : List Sent
  /-- (src, msg_id) pairs seen in the last 10 ms, and MSG_LOST handled (R341) -/
  seen : List (Nat × Nat × Nat)
  handled : List (Nat × Nat)
  heldLost : List (Nat × Nat × Nat × Nat)
  linkCtr : Nat
  /-- reports seen: address, port, change counter (R340) -/
  linkSeen : List (Nat × Nat × Nat)
  /-- links known to be down, and those the routes computed last leave out (R340) -/
  downLinks : List (Nat × Nat)
  routedDown : List (Nat × Nat)
  ports : Tab PortSt
  ext : List ExtTag
  deriving DecidableEq, Repr

/-! ### Checkpoint (chapter 12) -/

/-- A READY version as a capture holds it (R365, R367): stage, entry, and its objects as (number, handle, contents). -/
structure VerPart where
  stage : Nat
  entry : Nat
  objects : List (Nat × Nat × Bytes)
  deriving DecidableEq, Repr

/-- A member's part of a capture (R366): what the job's context holds here at the boundary. -/
structure Part where
  ctx : Nat
  /-- the context itself: phase and step, version tables, counters, monitor, fingerprints, ledger, key, job record -/
  snap : Ctx
  /-- granules tagged with the context: (in the window, address, contents) -/
  granules : List (Bool × Nat × Bytes)
  /-- posted entries naming it: (queue, header, slot contents) -/
  entries : List (Nat × Bytes × Bytes)
  /-- its headers in resend windows: (binding, seq, header), and the credits and seq of each binding -/
  windows : List (Nat × Nat × Bytes)
  bindings : List (Nat × List Nat × Nat)
  versions : List VerPart
  /-- state, error and gradient objects: (stage, 0 1 2, contents), and the hyperparameter object -/
  training : List (Nat × Nat × Bytes)
  hyper : Bytes
  deferred : List Deferred
  bankDigest : Nat
  pos : Nat
  visit : Nat
  /-- the job record, at the lead -/
  job : Option Job
  deriving DecidableEq, Repr

/-- A capture in progress at this member (R364-R370): announced for boundary b (as fabric time); `part` once taken. -/
structure Capture where
  job : Nat
  cseq : Nat
  boundary : Nat
  part : Option Part
  /-- programs that were running at the boundary, as (tile, entry number, nominal start): the part still takes what they
  do until they end (R365); and that none is left, so that the part is copied -/
  late : List (Nat × Nat × Nat)
  sealed : Bool
  /-- the part as bytes (R369), how many of them the buddy has acknowledged, and that it is complete -/
  bytes : Bytes
  acked : Nat
  complete : Bool
  /-- the buddy cannot take it: it goes to the local record only (R371); and it stands in that record -/
  localOnly : Bool
  inRecord : Bool
  windowLeft : Nat
  /-- at the lead: members whose part is complete, with its bytes -/
  doneMembers : List (Nat × Nat)
  deriving DecidableEq, Repr

/-- A retained capture (R370) as this member holds it; `catalogue` is the handle of the catalogue object at the lead,
0 elsewhere, `members` its records (address, buddy, bytes). -/
structure Retained where
  job : Nat
  fn : Nat
  cseq : Nat
  step : Nat
  boundary : Nat
  catalogue : Nat
  members : List (Nat × Nat × Nat)
  part : Option Part
  partBytes : Nat
  inRecord : Bool
  deriving DecidableEq, Repr

/-- A part held for another module in the buddy reserve (R368). -/
structure BuddyPart where
  src : Nat
  job : Nat
  cseq : Nat
  total : Nat
  data : Mem
  complete : Bool
  deriving DecidableEq, Repr

/-- Capture policy of a job (R378) at its lead, the cseq of its last capture, and the step whose interval capture has
been announced last. -/
structure CkpPolicy where
  interval : Nat
  window : Nat
  cseq : Nat
  announced : Option Nat
  deriving DecidableEq, Repr

/-- A shrink in progress at the lead (R375): lost addresses, t_L, stages taken over, members still to restore, and
whether one has failed. -/
structure Shrink where
  job : Nat
  lost : List Nat
  since : Nat
  taken : Nat
  width : Nat
  awaiting : List Nat
  failed : Bool
  deriving DecidableEq, Repr

/-- A new membership that this member takes at the next frame boundary, rolling back to capture `cseq` (R375). -/
structure Rollback where
  job : Nat
  cseq : Nat
  replaced : List (Nat × Nat)
  removed : List Nat
  taken : List (Nat × Nat)
  deriving DecidableEq, Repr

structure CkpSt where
  events : Word
  reserveGiB : Nat
  failCnt : Nat
  shrinkCnt : Nat
  localSeq : Nat
  policy : Tab CkpPolicy
  captures : List Capture
  retained : List Retained
  buddy : List BuddyPart
  shrinks : List Shrink
  rollbacks : List Rollback
  /-- by job, the lead of a job whose own lead was lost; and modules lost (R373) -/
  leads : Tab Nat
  lost : List Nat
  deriving DecidableEq, Repr

/-! ### The module -/

/-- The whole state of one UX1 module. -/
structure State where
  pending : List Instr
  /-- fabric time in ns (R351), and the model's own counter for fresh free values (log entry 3) -/
  now : Nat
  freeCtr : Nat
  host : HostSt
  dbg : DbgSt
  pkg : PkgSt
  pwr : PwrSt
  mem : MemSt
  mq : MqSt
  vnr : VnrSt
  jig : JigSt
  tile : TilesSt
  glu : GluSt
  dvl : DvlSt
  ckp : CkpSt
  out : List Out
  deriving DecidableEq, Repr

/-- Reasons a step stops. The spec gives every row an effect, so no meaning raises one. -/
inductive Fault where
  /-- raised by nobody; safe: no state is left undefined by the rows of the table -/
  | never
  deriving DecidableEq, Repr

/-- Reasons a command has no meaning. -/
inductive Refusal where
  /-- raised by an arm of `exec` whose row has no meaning yet; safe: nothing is claimed about it -/
  | notModelled (mnemonic : String)
  deriving DecidableEq, Repr

/-- The machine right after power-up reset: 48 V applied and PWR_GOOD not yet asserted (R22), every register at the
reset value of its table, firmware not booted (R346 step 0). Values the spec does not state are named in log entry 6. -/
def State.reset : State where
  pending := []
  now := 0
  freeCtr := 0
  host := {
    fns := [], links := [], outst := [], ownerPf := 0, ready := false, fwVersion := 0x0003_0000, fwAct := none,
    fwCommitted := none }
  dbg := {
    events := 0, log := [], nextSeq := 0, lastLog := [], live := ⟨[], [], [], [], 0, 0⟩, saved := ⟨[], [], [], [], 0, 0⟩,
    summaryDue := false, summarySeq := 0, lastSummary := 0, lanes := [], laneErrs := [] }
  pkg := {
    pwrGood := false, aonValid := true, uvArmed := true, alert := false, emergOffLow := false, leakWet := false,
    flowOk := true, selfTested := false, rails := false, holding := [], alertStatus := [], latches := [], causesDue := [],
    resetDue := false, wakePins := [], i3cAddr := none,
    hdrIgnore := false, eid := 0, eventReceiver := none, ibiQueue := [] }
  pwr := {
    events := 0, state := .active, waking := false, entryDue := none, entering := none, entryCause := none, wakeEn := 0x1FFF,
    lastWake := 0, limit := 3600, inputCut := none, volts := 0, amps := 0, inlet := 0, flow := 0, rtc := 0, alarm := 0,
    shimSeq := 0,
    plan := {
      guardBand := [40, 40, 40, 40], powerTable := [], corrBits := 72, retryLevel := 3, retentionDays := 90,
      calPeriodMs := 1, laserCeil := [], eyeMargin := 30, gridCal := [] },
    nextPlan := none, nextPlanSeq := 0, nextPlanWake := false, throttleCnt := 0, lastThrottleEv := 0, dies := [], otherBudget := [], draw := 0,
    dark := true, planAtWake := false, activeFrom := 0 }
  mem := {
    events := 0, ceCnt := 0, ueCnt := 0, lateCnt := 0, refreshCnt := 0, objs := [], wcb := [], gddrRate := [],
    gddrSyms := [], flashFailed := [], rebuilding := [], maxRetry := [], blocks := [], wearRaised := 0,
    spareRaised := false, spareLostGiB := 0, records := [], journalSeq := 0, lastMapWrite := 0, gddrReady := false,
    nextCal := 0 }
  mq := {
    events := 0, refuseCnt := 0, emptyCnt := 0, stallCnt := 0, resendCnt := 0, queues := [], bindings := [],
    gone := [] }
  vnr := {
    events := 0, faultCnt := 0, indexCnt := 0, ctxs := [], jobs := [], jobSerial := 0, krfEvents := 0,
    divergeCnt := 0 }
  jig := {
    events := 0, lateCnt := 0, idleRows := 0, bank0 := [], bank1 := [], activeNo := 0, running := false, ts := 0,
    frame := 0, pos := 0, visit := 0, pend := none, rows := [], plans := [], readies := [], commits := [], groupPlans := [],
    groupCommits := [], phases := [], usage := [], late := false, latest := (0, 0, 0), lateHist := [], throttleArmed := true, noCommit := false, retest := false,
    paused := false }
  tile := { tiles := [], store := [], window := [], wtags := [] }
  glu := {
    events := 0, mismatchCnt := 0, lateCnt := 0, deferCnt := 0, dropCnt := 0, queues := [], insts := [],
    deferred := [], credits := [], lateEv := [] }
  dvl := {
    events := 0, step := 0, hold := false, holdDue := false, holdEnd := false, locked := false, closed := false, outCause := 0, rootAddr := 0,
    rootDist := 0, rootPrio := 0, rootSerial := 0, parent := none, bestSince := 0, epochIssued := false, offsets := [],
    rate := 0, unlockedAt := none, estError := 0, fleetReady := false,
    mismatchRaised := false, agreed := false, belowQuorum := false, holdCause := none, nEv := 256, nWin := 4, epoch := 0, digest := 0, set := [], map := none, serial := 0, install := none,
    addr := 0, staged := none, lostCnt := 0, msgCrcCnt := 0, nextMsgId := 0, sent := [], seen := [], handled := [],
    heldLost := [], linkCtr := 0, linkSeen := [], downLinks := [], routedDown := [], ports := [], ext := [] }
  ckp := {
    events := 0, reserveGiB := 32, failCnt := 0, shrinkCnt := 0, localSeq := 0, policy := [], captures := [],
    retained := [], buddy := [], shrinks := [], rollbacks := [], leads := [], lost := [] }
  out := []

end Sys2Proof.Machine
end

