-- ==== Sys2Proof/Machine/Num.lean ====
section
/-! DEFINITION. Number formats (R41-R47), the one rounding every conversion makes (R58-R63), the FP32 arithmetic of the
vector unit (R64-R66), and the anchored accumulator (R49-R57). -/

namespace Sys2Proof.Machine

/-- A number as the module's formats hold it: ± m × 2^e with a signed zero, an infinity, or a quiet NaN with its sign
and the mantissa it has in FP32 (R65, R443). -/
inductive Val where
  | num (neg : Bool) (m : Nat) (e : Int)
  | inf (neg : Bool)
  | nan (neg : Bool) (man : Nat)
  deriving DecidableEq, Repr

/-- The most significant bit of an FP32 mantissa: set in a quiet NaN (R65). -/
abbrev quietBit : Nat := 0x0040_0000

/-- The canonical NaN (R43). -/
def Val.canon : Val := .nan false quietBit

/-- Layout of a floating-point element (R42): mantissa bits, least normal exponent, code of the largest finite magnitude,
code of infinity if the format has one, canonical NaN code if it has one (R43), width. -/
structure Fmt where
  man : Nat
  emin : Int
  maxCode : Nat
  infCode : Option Nat
  nanCode : Option Nat
  width : Nat
  deriving DecidableEq, Repr

def fp32 : Fmt := ⟨23, -126, 0x7F7F_FFFF, some 0x7F80_0000, some 0x7FC0_0000, 32⟩
def bf16 : Fmt := ⟨7, -126, 0x7F7F, some 0x7F80, some 0x7FC0, 16⟩
def fp16 : Fmt := ⟨10, -14, 0x7BFF, some 0x7C00, some 0x7E00, 16⟩
def e4m3 : Fmt := ⟨3, -6, 0x7E, none, some 0x7F, 8⟩
def e5m2 : Fmt := ⟨2, -14, 0x7B, some 0x7C, some 0x7E, 8⟩
def e3m2 : Fmt := ⟨2, -2, 0x1F, none, none, 6⟩
def e2m3 : Fmt := ⟨3, 0, 0x1F, none, none, 6⟩
def e2m1 : Fmt := ⟨1, 0, 7, none, none, 4⟩

/-- The element layout of a format code of R41 (the integer and WIDE codes have none). -/
def fmtOf : Nat → Option Fmt
  | 0x01 => some fp32
  | 0x02 => some bf16
  | 0x03 => some fp16
  | 0x04 => some e4m3
  | 0x05 => some e5m2
  | 0x07 => some e4m3
  | 0x08 => some e5m2
  | 0x09 => some e3m2
  | 0x0A => some e2m3
  | 0x0B => some e2m1
  | _ => none

/-- MX formats carry a block scale (R41). -/
def isMx (c : Nat) : Bool := 0x07 ≤ c && c ≤ 0x0B

/-- Grid input column of R41. -/
def gridInput (c : Nat) : Bool := (0x02 ≤ c && c ≤ 0x0B)

/-- Drain output column of R41, WIDE apart. -/
def drainOut (c : Nat) : Bool := (0x01 ≤ c && c ≤ 0x05) || isMx c

/-- Vector unit column of R41: formats it loads (R443). -/
def vecFmt (c : Nat) : Bool := 0x01 ≤ c && c ≤ 0x0B

/-- Grid operand pairs (R48). -/
def gridPair (a b : Nat) : Bool :=
  (isMx a && isMx b) || ((a == 4 || a == 5) && (b == 4 || b == 5)) || (a == 2 && b == 2) || (a == 3 && b == 3) ||
    (a == 6 && b == 6)

/-- Element bits of R41. -/
def fmtBits : Nat → Nat
  | 0x01 => 32
  | 0x02 => 16
  | 0x03 => 16
  | 0x09 => 6
  | 0x0A => 6
  | 0x0B => 4
  | 0x0C => 32
  | 0x0D => 128
  | _ => 8

/-- Bytes of n packed elements (R44): whole 3-byte groups for MXFP6, whole bytes for MXFP4. -/
def fmtBytes (c n : Nat) : Nat :=
  match c with
  | 0x09 | 0x0A => 3 * ((n + 3) / 4)
  | 0x0B => (n + 1) / 2
  | c => n * (fmtBits c / 8)

/-- The code of element i in a packed run of elements (R44). -/
def elemCode (c : Nat) (b : Bytes) (i : Nat) : Nat :=
  match c with
  | 0x09 | 0x0A => bits (getLE b (3 * (i / 4)) 3) (6 * (i % 4) + 5) (6 * (i % 4))
  | 0x0B => bits (getLE b (i / 2) 1) (4 * (i % 2) + 3) (4 * (i % 2))
  | c => getLE b (i * (fmtBits c / 8)) (fmtBits c / 8)

/-- Pack element codes (R44); bits that hold no element are 0. -/
def packCodes (c : Nat) (codes : List Nat) : Bytes :=
  match c with
  | 0x09 | 0x0A =>
    (List.range ((codes.length + 3) / 4)).flatMap fun g =>
      toLE 3 ((List.range 4).foldl (fun a i => a + codes.getD (4 * g + i) 0 * 2 ^ (6 * i)) 0)
  | 0x0B =>
    (List.range ((codes.length + 1) / 2)).flatMap fun g =>
      toLE 1 (codes.getD (2 * g) 0 + 16 * codes.getD (2 * g + 1) 0)
  | c => codes.flatMap fun x => toLE (fmtBits c / 8) x

/-- Decode one element (R42, R43). A NaN is made quiet and keeps its sign and its mantissa, whose leading bits stand
first in FP32's (R65, R443; that the mantissa of an FP8 or 16-bit NaN is kept is the model's choice, log entry 96). -/
def decodeVal (f : Fmt) (code : Nat) : Val :=
  let neg := bit code (f.width - 1)
  let mag := code % 2 ^ (f.width - 1)
  if f.infCode = some mag then .inf neg
  else if mag > f.maxCode then .nan neg (quietBit ||| (((mag % 2 ^ f.man) <<< 23) >>> f.man))
  else
    let ex := mag >>> f.man
    let fr := mag % 2 ^ f.man
    if ex = 0 then .num neg fr (f.emin - f.man)
    else .num neg (2 ^ f.man + fr) (f.emin + ex - 1 - f.man)

/-- The value of an INT8 or INT32 element of n bits. -/
def intVal (n code : Nat) : Val :=
  let v := signed n code
  .num (v < 0) v.natAbs 0

/-- The value of an element under a block scale code (R45, R47). -/
def scaled (scale : Nat) (v : Val) : Val :=
  if scale = 0xFF then .canon
  else match v with
    | .num s m e => .num s m (e + scale - 127)
    | v => v

/-- How a conversion rounds (R58): to nearest even, or stochastically with the drawn word (R63). -/
inductive Rnd where
  | rne
  | stoch (word : Nat)
  deriving DecidableEq, Repr

/-- |v| = (m + a fraction that is non-zero iff sticky) × 2^e, rounded to a multiple of 2^q: the quotient, and whether
anything was discarded (R58, R63). -/
def roundAt (r : Rnd) (m : Nat) (e : Int) (sticky : Bool) (q : Int) : Nat × Bool :=
  if q ≤ e then (m <<< (e - q).toNat, sticky)
  else
    let sh := (q - e).toNat
    let t := m >>> sh
    let rem := m % 2 ^ sh
    let inexact := rem != 0 || sticky
    match r with
    | .rne =>
      let half := 2 ^ (sh - 1)
      if rem > half || (rem = half && (sticky || t % 2 = 1)) then (t + 1, inexact) else (t, inexact)
    | .stoch w =>
      let d := (rem <<< 32) >>> sh
      if d ≠ 0 && w < d then (t + 1, inexact) else (t, inexact)

/-- The exponent of the leading bit of m × 2^e (m non-zero). -/
def leadExp (m : Nat) (e : Int) : Int := (Nat.log2 m : Int) + e

/-- The magnitude code a format gives a finite magnitude, before range handling: above `maxCode` it has overflowed. -/
def roundMag (f : Fmt) (r : Rnd) (m : Nat) (e : Int) (sticky : Bool) : Nat :=
  if m = 0 then 0
  else
    let ex := max (leadExp m e) f.emin
    let t := (roundAt r m e sticky (ex - f.man)).1
    ((ex - f.emin).toNat <<< f.man) + t

/-- Kerf events of R69, numbered as in R271. -/
abbrev evSat : Nat := 0
abbrev evOvf : Nat := 1
abbrev evFlush : Nat := 2
abbrev evSub : Nat := 3
abbrev evNan : Nat := 4

/-- A sign bit above a magnitude code. -/
def signCode (f : Fmt) (neg : Bool) (mag : Nat) : Nat := (if neg then 2 ^ (f.width - 1) else 0) + mag

/-- The code of a NaN result: in the formats the vector unit computes in, the NaN with its sign and the leading bits of
its mantissa (R65; the bits kept are the model's choice, log entry 96); in FP8 the canonical one (R60). A NaN that the
module creates is canonical in every format (R43). -/
def nanResult (f : Fmt) (neg : Bool) (man : Nat) : Nat :=
  match f.infCode with
  | some c => if f.width = 8 then f.nanCode.getD 0 else signCode f neg (c ||| ((man <<< f.man) >>> 23))
  | none => f.nanCode.getD 0

/-- Convert a value to a plain format in one rounding (R58-R60): code and kerf events (R69). `nonsat` is the saturation
field, which acts on FP8 alone; `mx` makes elements saturate (R60, R61). -/
def convert (f : Fmt) (r : Rnd) (nonsat mx : Bool) (v : Val) (sticky : Bool := false) : Nat × List Nat :=
  let nanC := f.nanCode.getD 0
  match v with
  | .nan s p => (nanResult f s p, [evNan])
  | .inf s => match f.infCode with
    | some c => (signCode f s c, [])
    | none => (nanC, [evNan])
  | .num s m e =>
    if m = 0 && !sticky then (signCode f s 0, [])
    else
      let c := roundMag f r m e sticky
      if c > f.maxCode then
        if mx || (f.width = 8 && !nonsat) then (signCode f s f.maxCode, [evSat])
        else match f.infCode with
          | some i => (signCode f s i, [evOvf])
          | none => (nanC, [evOvf, evNan])
      else if c = 0 then (signCode f s 0, [evFlush])
      else (signCode f s c, if c < 2 ^ f.man then [evSub] else [])

/-! ### Microscaling blocks -/

/-- emax of R50 for the element layouts of the MX formats. -/
def emaxOf (c : Nat) : Int :=
  match c with
  | 0x07 => 8
  | 0x08 => 15
  | 0x09 => 4
  | 0x0A => 2
  | 0x0B => 2
  | _ => 0

def Val.finite : Val → Bool
  | .num _ _ _ => true
  | _ => false

/-- Form one MX block from its exact values (R61): scale code, element codes, events. `rnd i` rounds element i. -/
def mxBlock (c : Nat) (rnd : Nat → Rnd) (vs : List Val) : Nat × List Nat × List Nat :=
  if vs.any (fun v => !v.finite) then (0xFF, vs.map fun _ => 0, vs.map fun _ => evNan)
  else
    let exps := vs.filterMap fun v => match v with
      | .num _ m e => if m = 0 then none else some (leadExp m e)
      | _ => none
    match exps.max? with
    | none => (0x7F, vs.map fun _ => 0, [])
    | some top =>
      let se := max (-127) (min 127 (top - emaxOf c))
      let clampEv := if top - emaxOf c > 127 then [evSat] else []
      match fmtOf c with
      | none => (0x7F, [], [])
      | some f =>
        let cs := vs.mapIdx fun i v => match v with
          | .num s m e => convert f (rnd i) false true (.num s m (e - se))
          | v => convert f (rnd i) false true v
        ((se + 127).toNat, cs.map (·.1), clampEv ++ cs.flatMap (·.2))

/-! ### FP32 arithmetic of the vector unit -/

/-- An FP32 bit pattern as a value. -/
def f32 (b : Nat) : Val := decodeVal fp32 b

/-- A quiet NaN that keeps its sign and payload (R65). -/
def quiet (b : Nat) : Nat := b ||| 0x0040_0000

def isNan32 (b : Nat) : Bool := b % 2 ^ 31 > 0x7F80_0000

/-- The first NaN operand made quiet, if there is one (R65). -/
def nanOf (ops : List Nat) : Option Nat := (ops.find? isNan32).map quiet

/-- An FP32 result and the kerf events of the operation that produced it (R444). -/
abbrev F32 : Type := Nat × List Nat

def canonNan32 : Nat := 0x7FC0_0000

/-- Round an exact value to FP32, nearest even (R64). -/
def to32 (v : Val) (sticky : Bool := false) : F32 := convert fp32 .rne false false v sticky

def alignAdd (s1 : Bool) (m1 : Nat) (e1 : Int) (s2 : Bool) (m2 : Nat) (e2 : Int) : Int × Int :=
  let e := min e1 e2
  let a : Int := ((m1 <<< (e1 - e).toNat : Nat) : Int)
  let b : Int := ((m2 <<< (e2 - e).toNat : Nat) : Int)
  ((if s1 then -a else a) + (if s2 then -b else b), e)

/-- The exact sum of two values; an exact zero sum of opposite signs is +0 (IEEE 754, round to nearest). -/
def addVal (a b : Val) : Val :=
  match a, b with
  | .nan s p, _ => .nan s p
  | _, .nan s p => .nan s p
  | .inf s, .inf t => if s = t then .inf s else .canon
  | .inf s, _ => .inf s
  | _, .inf t => .inf t
  | .num s m e, .num t n f =>
    let r := alignAdd s m e t n f
    if r.1 = 0 then .num (s && t && m = 0 && n = 0) 0 r.2 else .num (r.1 < 0) r.1.natAbs r.2

def mulVal (a b : Val) : Val :=
  match a, b with
  | .nan s p, _ => .nan s p
  | _, .nan s p => .nan s p
  | .inf s, .inf t => .inf (s != t)
  | .inf s, .num t n _ => if n = 0 then .canon else .inf (s != t)
  | .num s m _, .inf t => if m = 0 then .canon else .inf (s != t)
  | .num s m e, .num t n f => .num (s != t) (m * n) (e + f)

def negVal : Val → Val
  | .num s m e => .num (!s) m e
  | .inf s => .inf (!s)
  | .nan s p => .nan s p

/-- Apply an exact operation to FP32 operands and round once (R64, R65). -/
def op32 (ops : List Nat) (v : Val) (sticky : Bool := false) : F32 :=
  match nanOf ops with
  | some n => (n, [evNan])
  | none => to32 v sticky

def add32 (a b : Nat) : F32 := op32 [a, b] (addVal (f32 a) (f32 b))
def sub32 (a b : Nat) : F32 := op32 [a, b] (addVal (f32 a) (negVal (f32 b)))
def mul32 (a b : Nat) : F32 := op32 [a, b] (mulVal (f32 a) (f32 b))
def fma32 (a b c : Nat) : F32 := op32 [a, b, c] (addVal (mulVal (f32 a) (f32 b)) (f32 c))

/-- Division, correctly rounded: 64 quotient bits and a sticky bit decide every rounding to 24 bits. -/
def div32 (a b : Nat) : F32 :=
  match f32 a, f32 b with
  | .inf _, .inf _ => op32 [a, b] .canon
  | .inf s, .num t _ _ => op32 [a, b] (.inf (s != t))
  | .num s _ _, .inf t => op32 [a, b] (.num (s != t) 0 0)
  | .num s m e, .num t n f =>
    if n = 0 then op32 [a, b] (if m = 0 then .canon else .inf (s != t))
    else op32 [a, b] (.num (s != t) ((m <<< 64) / n) (e - f - 64)) ((m <<< 64) % n != 0)
  | _, _ => op32 [a, b] .canon

/-- Square root, correctly rounded. -/
def sqrt32 (a : Nat) : F32 :=
  match f32 a with
  | .num s m e =>
    if m = 0 then op32 [a] (.num s 0 0)
    else if s then op32 [a] .canon
    else
      let m2 := if e % 2 = 0 then m <<< 64 else m <<< 65
      let e2 := if e % 2 = 0 then e - 64 else e - 65
      let r := Nat.sqrt m2
      op32 [a] (.num false r (e2 / 2)) (r * r != m2)
  | .inf s => op32 [a] (if s then .canon else .inf false)
  | .nan _ _ => op32 [a] .canon

/-- A total order key of non-NaN FP32 patterns, −0 below +0 (IEEE 754-2019 minimum and maximum). -/
def key32 (b : Nat) : Int := if b < 2 ^ 31 then (b : Int) else -((b - 2 ^ 31 : Nat) : Int) - 1

def max32 (a b : Nat) : F32 :=
  match nanOf [a, b] with
  | some n => (n, [evNan])
  | none => (if key32 a < key32 b then b else a, [])

def min32 (a b : Nat) : F32 :=
  match nanOf [a, b] with
  | some n => (n, [evNan])
  | none => (if key32 b < key32 a then b else a, [])

/-- Numeric comparison a < b of FP32 patterns; false when either is NaN. -/
def lt32 (a b : Nat) : Bool :=
  !isNan32 a && !isNan32 b && (if a % 2 ^ 31 = 0 && b % 2 ^ 31 = 0 then false else key32 a < key32 b)

/-- The FP32 value an element loads as (R443): exact, or ∞ beyond FP32's range; a NaN element keeps its sign and is made
quiet (R65). -/
def load32 (c code scale : Nat) : Nat :=
  match c with
  | 0x01 => if isNan32 code then quiet code else code
  | 0x06 => (to32 (intVal 8 code)).1
  | 0x0C => (to32 (intVal 32 code)).1
  | c =>
    match fmtOf c with
    | none => 0
    | some f => (to32 (if isMx c then scaled scale (decodeVal f code) else decodeVal f code)).1

/-! ### The anchored accumulator (R49) -/

def Elem.zero (anchor : Int) : Elem := ⟨0, anchor, false, false, false⟩

/-- Anchors are clamped to a signed byte (R50). -/
def clampAnchor (a : Int) : Int := max (-128) (min 127 a)

/-- Keep an integer in 88-bit two's complement (R49). -/
def wrap88 (x : Int) : Int := (x + 2 ^ 87) % 2 ^ 88 - 2 ^ 87

/-- Round a signed contribution to the register's unit 2^(A − 62), once, to nearest even (R51). -/
def placed (anchor : Int) (neg : Bool) (m : Nat) (e : Int) : Int :=
  let t : Int := ((roundAt .rne m e false (anchor - 62)).1 : Nat)
  if neg then -t else t

/-- Add one contribution (R51). -/
def Elem.add (x : Elem) (v : Val) : Elem :=
  match v with
  | .nan _ _ => { x with q := true }
  | .inf false => { x with p := true }
  | .inf true => { x with n := true }
  | .num s m e =>
    if m ≠ 0 && decide (leadExp m e ≥ x.anchor + 2) then
      (if s then { x with n := true } else { x with p := true })
    else { x with acc := wrap88 (x.acc + placed x.anchor s m e) }

/-- Combine two WIDE elements of one anchor (R57): none when the anchors differ. -/
def Elem.combine (x y : Elem) : Option Elem :=
  if x.anchor = y.anchor then
    some ⟨wrap88 (x.acc + y.acc), x.anchor, x.p || y.p, x.n || y.n, x.q || y.q⟩
  else none

/-- Shift an element to a higher anchor, rounding once to nearest even (R246). -/
def Elem.raise (x : Elem) (anchor : Int) : Elem :=
  if x.anchor ≤ anchor then
    let t : Int := ((roundAt .rne x.acc.natAbs 0 false (anchor - x.anchor)).1 : Nat)
    { x with acc := if x.acc < 0 then -t else t, anchor := anchor }
  else x

/-- The value a register drains (R59): the sign of a non-zero sum is kept by the rounding that follows. -/
def Elem.val (x : Elem) : Val :=
  if x.q || (x.p && x.n) then .canon
  else if x.p then .inf false
  else if x.n then .inf true
  else .num (x.acc < 0) x.acc.natAbs (x.anchor - 62)

/-- A WIDE element's 16 bytes (R56). -/
def Elem.bytes (x : Elem) : Bytes :=
  toLE 11 (x.acc % 2 ^ 88).toNat ++ toLE 1 (x.anchor % 256).toNat ++
    toLE 1 ((if x.p then 1 else 0) + (if x.n then 2 else 0) + (if x.q then 4 else 0)) ++ toLE 3 0

/-- Read a WIDE element, ignoring its rsvd bits (R56). -/
def Elem.ofBytes (b : Bytes) : Elem :=
  let fl := getLE b 12 1
  ⟨signed 88 (getLE b 0 11), signed 8 (getLE b 11 1), bit fl 0, bit fl 1, bit fl 2⟩

/-- The anchor a pre-scan of exponents gives: their maximum clamped, or −128 when none takes part (R50). -/
def anchorOf (es : List Int) : Int :=
  match es.max? with
  | none => -128
  | some m => clampAnchor m

/-- The exponent an element counts with in a shadow scale (R50): subnormals at the least normal exponent, zeros and
non-finite values left out. -/
def shadowExp (f : Fmt) (v : Val) : Option Int :=
  match v with
  | .num _ m e => if m = 0 then none else some (max (leadExp m e) f.emin)
  | _ => none

/-- An anchored sum of FP32 values, as a reduction of the vector unit forms it (R67). -/
def sum32 (xs : List Nat) : Elem :=
  let a := anchorOf (xs.filterMap fun x => shadowExp fp32 (f32 x))
  xs.foldl (fun acc x => acc.add (f32 x)) (Elem.zero a)

/-- The FP32 drain of an anchored sum, to nearest even. -/
def drain32 (x : Elem) : F32 := to32 x.val

/-- 1/√n in FP32 and other constants the spec rounds once from an exact rational: num/den to FP32. -/
def rat32 (num den : Nat) : Nat := (to32 (.num false ((num <<< 64) / den) (-64)) ((num <<< 64) % den != 0)).1

end Sys2Proof.Machine
end

