-- ==== Sys2Proof/Machine/Trans.lean ====
section
/-! DEFINITION. The transcendental functions of the vector unit (R66): their special values, their exact values to 512
fractional bits, and a result within 2 ulp of the exact one, which of those being firmware 3's (log entry 1). -/

namespace Sys2Proof.Machine

/-- The transcendental functions of R66. -/
inductive Fn1 where
  | exp | exp2 | log | log2 | tanh | sigmoid | erf | gelu | recip | rsqrt
  deriving DecidableEq, Repr

/-- The number by which Config.transc knows a function. -/
def Fn1.code : Fn1 → Nat
  | .exp => 0x0A
  | .log => 0x0B
  | .tanh => 0x0C
  | .sigmoid => 0x0D
  | .gelu => 0x0E
  | .rsqrt => 0x11
  | .recip => 0x12
  | .exp2 => 0x20
  | .log2 => 0x21
  | .erf => 0x22

/-- The values that R66 fixes, directly or through IEEE 754-2019 clause 9.2: for an infinite, zero or out-of-domain
input. None: a finite input whose bits the spec leaves to firmware 3. -/
def special (f : Fn1) (b : Nat) : Option Nat :=
  let neg := b ≥ 2 ^ 31
  let mag := b % 2 ^ 31
  let one := 0x3F80_0000
  let inf := 0x7F80_0000
  let s (m : Nat) : Nat := if neg then 2 ^ 31 + m else m
  if mag = inf then
    some (match f with
      | .exp | .exp2 => if neg then 0 else inf
      | .log | .log2 | .rsqrt => if neg then canonNan32 else (if f = .rsqrt then 0 else inf)
      | .tanh | .erf => s one
      | .sigmoid => if neg then 0 else one
      | .gelu => if neg then 2 ^ 31 else inf
      | .recip => s 0)
  else if mag = 0 then
    some (match f with
      | .exp | .exp2 => one
      | .log | .log2 => 2 ^ 31 + inf
      | .tanh | .erf | .gelu => b
      | .sigmoid => 0x3F00_0000
      | .recip | .rsqrt => s inf)
  else match f with
    | .log | .log2 => if neg then some canonNan32 else if b = one then some 0 else none
    | .rsqrt => if neg then some canonNan32 else none
    | _ => none

/-! ### Exact values

Numbers with 512 fractional bits, as integers. The smallest result that matters is 2^-150 and the largest 2^129, so
every function below is exact to far less than 2^-100 ulp. -/

abbrev fxOne : Int := 2 ^ 512

def fxMul (a b : Int) : Int := a * b / fxOne
def fxDiv (a b : Int) : Int := a * fxOne / b

/-- ± m × 2^e. -/
def fxOf (neg : Bool) (m : Nat) (e : Int) : Int :=
  let v : Int := ((if -512 ≤ e then m <<< (e + 512).toNat else m >>> (-512 - e).toNat : Nat) : Int)
  if neg then -v else v

def fxClamp (lo hi x : Int) : Int := max (lo * fxOne) (min (hi * fxOne) x)

/-- 1 + y/k (1 + y/(k+1) (...)), n terms. -/
def expTail (y : Int) : Nat → Nat → Int
  | 0, _ => fxOne
  | n + 1, k => fxOne + fxMul y (expTail y n (k + 1)) / (k : Int)

def squareTimes : Nat → Int → Int
  | 0, x => x
  | n + 1, x => squareTimes n (fxMul x x)

/-- e^x for |x| up to 160. -/
def fxExp (x : Int) : Int := squareTimes 12 (expTail (x / 2 ^ 12) 72 1)

/-- The sum of t^(2i+1)/(2i+1), the signs alternating for the arc tangent: power, next odd number, n terms. -/
def oddSeries (alt : Bool) (t2 : Int) : Nat → Int → Nat → Int
  | 0, _, _ => 0
  | n + 1, p, k => p / (k : Int) + oddSeries alt t2 n (fxMul (if alt then -p else p) t2) (k + 2)

/-- The logarithm of z between 1 and 2: 2 artanh((z − 1)/(z + 1)). -/
def fxLnUnit (z : Int) : Int :=
  let t := fxDiv (z - fxOne) (z + fxOne)
  2 * oddSeries false (fxMul t t) 170 t 1

def fxLn2 : Int := fxLnUnit (2 * fxOne)

/-- ln(m × 2^e). -/
def fxLn (m : Nat) (e : Int) : Int :=
  let k : Nat := Nat.log2 m
  (e + (k : Int)) * fxLn2 + fxLnUnit (fxOf false m (-(k : Int)))

def fxAtanInv (n : Int) : Int :=
  let t := fxOne / n
  oddSeries true (fxMul t t) 120 t 1

/-- π = 16 arctan(1/5) − 4 arctan(1/239). -/
def fxPi : Int := 16 * fxAtanInv 5 - 4 * fxAtanInv 239

def fxSqrt (x : Int) : Int := (Nat.sqrt (x * fxOne).toNat : Nat)

/-- x + x·2x²/3 + ..., each term 2x²/(2n+3) of the one before. -/
def erfSeries (x2 : Int) : Nat → Int → Nat → Int
  | 0, _, _ => 0
  | n + 1, t, k => t + erfSeries x2 n (fxMul t (2 * x2) / (k : Int)) (k + 2)

/-- erf(x) for |x| up to 12. -/
def fxErf (x : Int) : Int :=
  let x2 := fxMul x x
  fxMul (fxMul (fxDiv (2 * fxOne) (fxSqrt fxPi)) (fxExp (-x2))) (erfSeries x2 1000 x 3)

/-- x × Φ(x) for x above −16; below that its magnitude is under 2^-180. -/
def fxGelu (x : Int) : Int :=
  let r := fxClamp (-16) 16 x
  fxMul x ((fxOne + fxErf (fxMul r (fxSqrt (fxOne / 2)))) / 2)

/-- The exact value of a function at ± m × 2^e, where R66 and IEEE 754 name no special value: sign, m and e of its
magnitude truncated, and whether anything was cut off. -/
def exactOf (f : Fn1) (neg : Bool) (m : Nat) (e : Int) : Bool × Nat × Int × Bool :=
  let x := fxOf neg m e
  let out (v : Int) : Bool × Nat × Int × Bool := (decide (v < 0), v.natAbs, -512, true)
  match f with
  | .exp => out (fxExp (fxClamp (-110) 92 x))
  | .exp2 => out (fxExp (fxMul fxLn2 (fxClamp (-160) 130 x)))
  | .log => out (fxLn m e)
  | .log2 => out (fxDiv (fxLn m e) fxLn2)
  | .tanh =>
    let u := fxExp (2 * fxClamp (-64) 64 x)
    out (fxDiv (u - fxOne) (u + fxOne))
  | .sigmoid => out (fxDiv fxOne (fxOne + fxExp (-fxClamp (-110) 110 x)))
  | .erf => out (fxErf (fxClamp (-12) 12 x))
  | .gelu => if x < -16 * fxOne then (true, 0, 0, true) else out (fxGelu x)
  | .recip => (neg, 2 ^ 96 / m, -e - 96, 2 ^ 96 % m != 0)
  | .rsqrt =>
    let k : Nat := if e % 2 = 0 then m else 2 * m
    let h : Int := if e % 2 = 0 then e / 2 else (e - 1) / 2
    let r := Nat.sqrt (2 ^ 200 / k)
    (false, r, -h - 100, r * r * k != 2 ^ 200)

/-- The FP32 magnitude returned for an exact value: of the FP32 neighbours within 2 ulp of it, from one below its
truncation to two above, the one that `pick` names; never past zero, and ∞ for a value beyond them all (R66). -/
def near2 (m : Nat) (e : Int) (inexact : Bool) (pick : Nat) : Nat :=
  let c := roundMag fp32 (.stoch 0xFFFF_FFFF) m e inexact
  if 0x7F80_0000 < c then 0x7F80_0000 else min (c + pick - 1) 0x7F80_0000

/-- One transcendental function of the vector unit (R65, R66), with the events of its rounding (R444): overflow where a
finite exact result became ∞, flush to zero where a non-zero one became zero. -/
def trans32 (f : Fn1) (b : Nat) : F32 :=
  match nanOf [b] with
  | some n => (n, [evNan])
  | none => match special f b with
    | some r => (r, if isNan32 r then [evNan] else [])
    | none => match f32 b with
      | .num s m e =>
        let v := exactOf f s m e
        let r := near2 v.2.1 v.2.2.1 v.2.2.2 (Config.transc f.code (BitVec.ofNat 32 b)).toNat
        ((if v.1 then 2 ^ 31 else 0) + r,
          if r = 0x7F80_0000 then [evOvf] else if r = 0 then [evFlush] else if r < 2 ^ 23 then [evSub] else [])
      | _ => (canonNan32, [evNan])

end Sys2Proof.Machine
end

