-- ==== Sys2Proof/Machine/Wire.lean ====
section
/-! DEFINITION. The bytes of what the module sends and keeps: fabric messages with their routing header (R337) and body
(R338, R214, R237, R343), and persistent records with theirs (R314). -/

namespace Sys2Proof

/-- The body, or the part of a body, that the spec does not lay out (log entry 114): the MQ, JOB, FP, CKP, LINK_STATE and
MSG_LOST messages, and the fields that stand beside a header, a block or the row entries of a message. -/
opaque Config.msgBody : Machine.Msg → Bytes

/-- The format version that firmware gives a record's payload (R314); the spec states none (log entry 114). -/
opaque Config.recordFormat : Nat → BitVec 16

end Sys2Proof

namespace Sys2Proof.Machine

/-- Message types (R338). -/
def mtypeOf : Msg → Nat
  | .mqBind .. => 0x0101
  | .mqGrant .. => 0x0102
  | .mqBlock .. => 0x0103
  | .mqHeader .. => 0x0104
  | .mqCredit .. => 0x0105
  | .mqReject .. => 0x0106
  | .mqSync .. => 0x0107
  | .coll .. => 0x0201
  | .rowPlan _ => 0x0301
  | .rowReady _ => 0x0302
  | .rowCommit _ => 0x0303
  | .jobCtl _ => 0x0401
  | .jobRsp _ => 0x0402
  | .fpListReq .. => 0x0403
  | .fpList .. => 0x0404
  | .ckpCopy _ => 0x0501
  | .ckpAck .. => 0x0502
  | .linkState _ => 0x0601
  | .msgLost .. => 0x0602
  | .extRead .. => 0x0701
  | .extWrite .. => 0x0703

/-- The entries of a plan or commit (R214): for each group and row 4 of 2 B, valid in [15]. A context of another group than
the receiver's has no ID there, so the entries of other groups are empty. -/
def rowEntries (m : RowMsg) : Bytes :=
  (List.range m.groups).flatMap fun g => m.rows.flatMap fun r => (List.range 4).flatMap fun i =>
    match if g = m.group then r.2[i]? else none with
    | some c => toLE 2 (c % 4096 + 2 ^ 15)
    | none => [0, 0]

/-- The resident bitmap over context IDs and 2 bits of completed phase per context (R214). -/
def readyMaps (m : ReadyMsg) : Bytes :=
  ((List.range 512).map fun i => BitVec.ofNat 8 (((List.range 8).map fun k => if m.ready.contains (8 * i + k) then 2 ^ k else 0).sum)) ++
  (List.range 1024).map fun i => BitVec.ofNat 8 (((List.range 4).map fun k =>
    ((m.phaseDone.find? fun p => p.1 == 4 * i + k).map (·.2)).getD 0 % 4 * 4 ^ k).sum)

/-- The body of a message: the fields the spec lays out at their places, and before them those it only names. -/
def bodyOf (m : Msg) : Bytes := match m with
  | .coll hdr payload => hdr ++ payload
  | .mqHeader _ _ hdr => Config.msgBody m ++ hdr
  | .mqBlock _ _ data => Config.msgBody m ++ data
  | .rowPlan x => Config.layout 0x0301 [x.pipeline] ++ toLE 8 x.frame ++ rowEntries x
  | .rowReady x => Config.layout 0x0302 [x.pipeline] ++ toLE 8 x.frame ++ readyMaps x
  | .rowCommit x => Config.layout 0x0303 [x.pipeline] ++ toLE 8 x.frame ++ rowEntries x ++ Config.layout 0x0303 x.moves
  | .ckpCopy c => Config.msgBody m ++ c.data
  | .extRead tag extent off len => toLE 4 tag ++ toLE 8 extent ++ toLE 8 off ++ toLE 4 len
  | .extWrite tag extent off last data =>
    toLE 4 tag ++ toLE 8 extent ++ toLE 8 off ++ toLE 2 (if last then 1 else 0) ++ toLE 2 0 ++ data
  | _ => Config.msgBody m

/-- The routing header of a message that leaves its source (R337). -/
def routingHdr (dst src id mtype : Nat) (body : Bytes) : Bytes :=
  toLE 4 dst ++ toLE 4 src ++ toLE 2 mtype ++ [0, 0] ++ toLE 4 body.length ++ toLE 4 id ++ toLE 4 (crc32c body) ++
    List.replicate 8 0

/-- The payload of a message of this module: its routing header and its body. -/
def wireOf (dst src id : Nat) (m : Msg) : Bytes := routingHdr dst src id (mtypeOf m) (bodyOf m) ++ bodyOf m

/-- The record of a message that module `src` sends. -/
def msgOut (src dst id : Nat) (m : Msg) : Out := .msg dst id m (wireOf dst src id m)

/-- A persistent record as it is programmed: the 32 B header of R314, and the payload. -/
def recordBytes (type seq : Nat) (payload : Bytes) : Bytes :=
  let h := toLE 4 0x4B425855 ++ toLE 2 type ++ toLE 2 (Config.recordFormat type).toNat ++ toLE 8 seq ++ toLE 8 payload.length
  h ++ toLE 4 (crc32c (h ++ payload)) ++ toLE 4 0 ++ payload

/-- Where a field of width w starts, at or after an offset (R434). -/
def fieldAt (off w : Nat) : Nat :=
  let a := if w ≥ 8 then 8 else max w 1
  (off + a - 1) / a * a

/-! ### Records as bytes (R433, R434) -/

/-- The detail of a record: each field at its place, 0 between. -/
def detailBytes : Nat → List (Nat × Nat) → Bytes
  | off, [] => List.replicate (0x3C - off) 0
  | off, (w, v) :: r =>
    let at_ := fieldAt off w
    List.replicate (at_ - off) 0 ++ toLE w v ++ detailBytes (at_ + w) r

/-- A record of the log ring. -/
def recBytes (r : LogRec) : Bytes :=
  let b := toLE 4 r.seq ++ toLE 2 r.code ++ toLE 1 r.sev ++ toLE 1 r.source ++ toLE 8 r.time ++
    toLE 1 (r.fn.getD 0 + b2n r.fn.isSome * 64 + b2n r.rtc * 128) ++ toLE 1 r.repeated ++
    toLE 2 (r.ctx.getD 0 + b2n r.ctx.isSome * 32768) ++ toLE 4 r.tenant ++ toLE 4 r.job ++ detailBytes 0x1C r.detail
  let h := slice b 0 0x3C
  h ++ toLE 4 (crc32c h)

/-- The payload of the persistent summary (R437), which the spec does not lay out. -/
def summaryBytes (m : Summary) : Bytes :=
  Config.layout 0x15 ((m.counts.flatMap fun c => [c.1, c.2]) ++ (m.severe.map fun r => leNat (recBytes r)) ++ m.causes ++ m.outCauses ++
    [m.powerUps, m.activeNs / 3600000000000])

end Sys2Proof.Machine
end

