-- ==== Sys2Proof/Machine/Ops.lean ====
section
/-! DEFINITION. Operations that many commands share: tables and byte memories, the error log and its events
(R433-R436), completions and the checks before a command starts (R394, R398), interrupts, fabric messages (R341), and
what every command's end settles (EVT.WAIT, ALERT#, PME). -/

namespace Sys2Proof.Machine

/-! ### Tables -/

/-- The record a table holds for key `k`, or the default record (log entry 4). -/
def tget {α : Type} (d : α) (t : Tab α) (k : Nat) : α :=
  match t with
  | [] => d
  | (i, v) :: r => if i = k then v else tget d r k

/-- Put a record under key `k`. -/
def tset {α : Type} (t : Tab α) (k : Nat) (v : α) : Tab α :=
  match t with
  | [] => [(k, v)]
  | (i, w) :: r => if i = k then (k, v) :: r else if k < i then (k, v) :: (i, w) :: r else (i, w) :: tset r k v

/-- Remove key `k`, so that it stands for the default record again. -/
def tdel {α : Type} (t : Tab α) (k : Nat) : Tab α := t.filter fun e => e.1 != k

/-- Change the record under key `k`. -/
def tupd {α : Type} (d : α) (t : Tab α) (k : Nat) (f : α → α) : Tab α := tset t k (f (tget d t k))

/-- Is key `k` present? -/
def thas {α : Type} (t : Tab α) (k : Nat) : Bool := t.any fun e => e.1 == k

/-! ### Byte memories -/

/-- The byte at an address; an unlisted address reads 0 (log entry 5). -/
def memGet (m : Mem) (a : Nat) : Byte :=
  match m with
  | [] => 0
  | (b, v) :: r => if b = a then v else memGet r a

/-- Write one byte, keeping the canonical form: addresses rising, no zero byte listed. -/
def memSet (m : Mem) (a : Nat) (v : Byte) : Mem :=
  match m with
  | [] => if v = 0 then [] else [(a, v)]
  | (b, w) :: r =>
    if b < a then (b, w) :: memSet r a v
    else if b = a then (if v = 0 then r else (a, v) :: r)
    else if v = 0 then (b, w) :: r else (a, v) :: (b, w) :: r

/-- The n bytes from address `a`. -/
def memRead (m : Mem) (a n : Nat) : Bytes := (List.range n).map fun i => memGet m (a + i)

/-- Write a run of bytes from address `a`. -/
def memWrite (m : Mem) (a : Nat) : Bytes → Mem
  | [] => m
  | b :: bs => memWrite (memSet m a b) (a + 1) bs

/-- Zero the n bytes from address `a` (R109, R137). -/
def memZero (m : Mem) (a n : Nat) : Mem := m.filter fun c => c.1 < a || a + n ≤ c.1

/-- Addresses rising strictly from at least `lo`, and no zero byte listed. -/
def memWfFrom (lo : Nat) : Mem → Bool
  | [] => true
  | (a, v) :: r => decide (lo ≤ a) && v != 0 && memWfFrom (a + 1) r

/-- The canonical form of a byte memory: equal memories are equal lists. -/
def Memory.wf (m : Mem) : Bool := memWfFrom 0 m

/-! ### Counters and register fields -/

/-- A 32-bit counter that saturates at 0xFFFF_FFFF. -/
def satInc (c : Nat) (n : Nat := 1) : Nat := min (c + n) 0xFFFF_FFFF

def word (n : Nat) : Word := BitVec.ofNat 32 n

/-- Set bit `i` of a register. -/
def setBit (w : Word) (i : Nat) : Word := w ||| BitVec.ofNat 32 (2 ^ i)


/-- Low and high words of a 64-bit number. -/
def words64 (v : Nat) : List Nat := [v % 2 ^ 32, v / 2 ^ 32 % 2 ^ 32]

/-! ### Parts of the state -/

def fnOf (s : State) (f : Nat) : FnSt := tget FnSt.reset s.host.fns f

def setFn (f : Nat) (g : FnSt → FnSt) (s : State) : State :=
  { s with host := { s.host with fns := tupd FnSt.reset s.host.fns f g } }

def ctxOf (s : State) (c : Nat) : Ctx := tget Ctx.free s.vnr.ctxs c

def setCtx (c : Nat) (g : Ctx → Ctx) (s : State) : State :=
  { s with vnr := { s.vnr with ctxs := tupd Ctx.free s.vnr.ctxs c g } }

def tileOf (s : State) (t : Nat) : TileSt := tget TileSt.reset s.tile.tiles t

def setTile (t : Nat) (g : TileSt → TileSt) (s : State) : State :=
  { s with tile := { s.tile with tiles := tupd TileSt.reset s.tile.tiles t g } }

def portOf (s : State) (p : Nat) : PortSt := tget PortSt.reset s.dvl.ports p

def setPort (p : Nat) (g : PortSt → PortSt) (s : State) : State :=
  { s with dvl := { s.dvl with ports := tupd PortSt.reset s.dvl.ports p g } }

def queueOf (s : State) (q : Nat) : Queue := tget Queue.reset s.mq.queues q

def setQueue (q : Nat) (g : Queue → Queue) (s : State) : State :=
  { s with mq := { s.mq with queues := tupd Queue.reset s.mq.queues q g } }

def bindOf (s : State) (b : Nat) : Binding := tget Binding.reset s.mq.bindings b

def setBind (b : Nat) (g : Binding → Binding) (s : State) : State :=
  { s with mq := { s.mq with bindings := tupd Binding.reset s.mq.bindings b g } }

/-- The job a lead holds under this ID. -/
def jobOf (s : State) (j : Nat) : Option Job := (s.vnr.jobs.find? fun e => e.1 == j).map (·.2)

def setJob (j : Nat) (g : Job → Job) (s : State) : State :=
  { s with vnr := { s.vnr with jobs := s.vnr.jobs.map fun e => if e.1 = j then (j, g e.2) else e } }

/-- Record something the module sends to the outside. -/
def emit (o : Out) (s : State) : State := { s with out := o :: s.out }

/-- A fresh value the spec leaves open (log entry 3). -/
def fresh (s : State) : Nat × State := ((Config.freeValue s.freeCtr).toNat, { s with freeCtr := s.freeCtr + 1 })

/-- Bring fabric time, and the RTC with it (R415), forward to an instant; time never runs back. -/
def advance (t : Nat) (s : State) : State :=
  { s with now := max s.now t, pwr := { s.pwr with rtc := s.pwr.rtc + (t - s.now) } }

/-! ### Functions (R385, R386) -/

/-- The host port of a function (R385). -/
def fnPort (f : Nat) : Nat := f / 16

def linkOf (s : State) (h : Nat) : HostLink := tget HostLink.reset s.host.links h

/-- A VF exists while its PF has NumVFs of at least its number (R385). -/
def fnExists (s : State) (f : Nat) : Bool := f % 16 == 0 || decide (f % 16 ≤ (linkOf s (f / 16)).numVfs)

/-- Does this function hold owner rights (R386)? -/
def isOwner (s : State) (f : Nat) : Bool := f == s.host.ownerPf

/-- Is this the outstanding command of that issuer and tag? -/
def Outst.is (src : Src) (o : Outst) : Bool :=
  o.src.issuer == src.issuer && o.src.tag == src.tag && o.wait != .done

/-- Owner rights of an issuer (R386): the sideband runs as the owner (R425), and a fetched command keeps the rights it
had when fetched. -/
def srcOwner (s : State) (src : Src) : Bool :=
  match s.host.outst.find? (Outst.is src) with
  | some o => o.owner
  | none => match src.issuer with
    | .fn f _ => isOwner s f
    | .sideband => true

/-- The function a command acts for: the issuer, or the owner PF for the sideband (R425). -/
def srcFn (s : State) (src : Src) : Nat :=
  match src.issuer with
  | .fn f _ => f
  | .sideband => s.host.ownerPf

/-! ### Error log and events (R433-R436) -/

/-- What an event or log entry says about itself: its code, its source (R433), the function and context it names, and
the fields of its record as (width, value) (R434). -/
structure Ev where
  code : Nat
  source : Nat := 8
  fn : Option Nat := none
  ctx : Option Nat := none
  tenant : Nat := 0
  job : Nat := 0
  detail : List (Nat × Nat) := []
  deriving DecidableEq, Repr

/-- Severity of a record: stated for EV_CTX_FAULT in the example of R436, open for every other code (log entry 7). -/
def severity (code : Nat) : Nat := if code = 0x0401 then 2 else (Config.severity code).toNat

/-- The fields of one record, split at the 32 B of its detail (R434): what fits, then what continues. -/
def splitDetail : Nat → List (Nat × Nat) → List (Nat × Nat) → List (List (Nat × Nat))
  | _, acc, [] => [acc.reverse]
  | off, acc, (w, v) :: r =>
    if fieldAt off w + w ≤ 0x3C then splitDetail (fieldAt off w + w) ((w, v) :: acc) r
    else acc.reverse :: splitDetail (fieldAt 0x1C w + w) [(w, v)] r

/-- Time of a record: fabric time, or the RTC's before lock (R433 [7] rtc). -/
def logTime (s : State) : Nat := if s.dvl.locked then s.now else s.pwr.rtc

def mkRec (s : State) (e : Ev) (seq rep : Nat) (detail : List (Nat × Nat)) : LogRec where
  seq := seq
  code := e.code
  sev := severity e.code
  source := e.source
  time := logTime s
  fn := e.fn
  rtc := !s.dvl.locked
  repeated := rep
  ctx := e.ctx
  tenant := e.tenant
  job := e.job
  detail := detail

/-- The records of one entry, oldest first: the first with repeat 1, its continuations with repeat 0 (R434). -/
def entryRecs (s : State) (e : Ev) : List LogRec :=
  (splitDetail 0x1C [] e.detail).mapIdx fun i d => mkRec s e (s.dbg.nextSeq + i) (if i = 0 then 1 else 0) d

/-- Write an entry into the log ring (R433) and count it for the persistent summary (R437). -/
def logEntry (e : Ev) (s : State) : State :=
  let rs := entryRecs s e
  let sev := severity e.code
  { s with dbg := { s.dbg with
      log := (rs.reverse ++ s.dbg.log).take 4096
      nextSeq := s.dbg.nextSeq + rs.length
      live := { s.dbg.live with
        counts := tupd 0 s.dbg.live.counts e.code (· + 1)
        severe := if 2 ≤ sev then (rs.reverse ++ s.dbg.live.severe).take 1024 else s.dbg.live.severe }
      summaryDue := s.dbg.summaryDue || sev == 3 } }

/-- Set the pending bit of an event in its class's EVENTS register: bit n for event 0xCC01 + n. Class 0x01 has none. -/
def setEvent (code : Nat) (s : State) : State :=
  let n := code % 256 - 1
  match code / 256 with
  | 0x02 => { s with jig := { s.jig with events := setBit s.jig.events n } }
  | 0x03 => { s with mq := { s.mq with events := setBit s.mq.events n } }
  | 0x04 => { s with vnr := { s.vnr with events := setBit s.vnr.events n } }
  | 0x05 => { s with glu := { s.glu with events := setBit s.glu.events n } }
  | 0x06 => { s with vnr := { s.vnr with krfEvents := setBit s.vnr.krfEvents n } }
  | 0x07 => { s with mem := { s.mem with events := setBit s.mem.events n } }
  | 0x08 => { s with dvl := { s.dvl with events := setBit s.dvl.events n } }
  | 0x09 => { s with ckp := { s.ckp with events := setBit s.ckp.events n } }
  | 0x0A => { s with pwr := { s.pwr with events := setBit s.pwr.events n } }
  | 0x0B => { s with dbg := { s.dbg with events := setBit s.dbg.events n } }
  | _ => s

/-- Raise an event: its record in the log and its pending bit. Its delivery to EVT.WAIT follows in `settle`. -/
def raise (e : Ev) (s : State) : State := setEvent e.code (logEntry e s)

/-- An event about a context names the context, its tenant and its job (R433). -/
def raiseCtx (code source c : Nat) (detail : List (Nat × Nat)) (s : State) : State :=
  let x := ctxOf s c
  raise { code := code, source := source, fn := some x.fn, ctx := some c, tenant := x.tenant, job := x.job,
          detail := detail } s

/-- The source number of a tile's die (R433). -/
def tileSource (t : Nat) : Nat := t / 64

/-- Raise the repeat count of a record (R433), saturating at 255. -/
def mergeRepeat (seq : Nat) (log : List LogRec) : List LogRec :=
  log.map fun r => if r.seq = seq then { r with repeated := min (r.repeated + 1) 255 } else r

/-- Log an access or a violation, at most once per 1 ms per kind per function or port (R433): within the 1 ms the
record already written takes the occurrence. -/
def logLimited (key : Nat) (e : Ev) (s : State) : State :=
  match s.dbg.lastLog.find? (fun x => x.1 == key) with
  | some (_, t, seq) =>
    if s.now < t + 1000000 then { s with dbg := { s.dbg with log := mergeRepeat seq s.dbg.log } }
    else
      let s1 := logEntry e s
      { s1 with dbg := { s1.dbg with lastLog := tset s1.dbg.lastLog key (s.now, s.dbg.nextSeq) } }
  | none =>
    let s1 := logEntry e s
    { s1 with dbg := { s1.dbg with lastLog := tset s1.dbg.lastLog key (s.now, s.dbg.nextSeq) } }

/-- Can a function see a record (R435)? -/
def visible (s : State) (f : Nat) (r : LogRec) : Bool :=
  isOwner s f || r.fn == some f || (match r.ctx with
    | some c => (ctxOf s c).fn == f && (ctxOf s c).state != .free
    | none => false) ||
  r.code == 0x0A01 || r.code == 0x0104 || r.code == 0x080A ||
    (r.code == 0x0103 && r.detail.head? == some (1, fnPort f))

/-- Log codes raise no event and are not delivered to EVT.WAIT (R436); neither is a continuation record. -/
def deliverable (r : LogRec) : Bool := decide (r.code % 256 < 0x80) && r.repeated != 0

/-! ### Violations and quarantine (R403, R404) -/

/-- Kinds of host protocol violation, numbered in the order of R403 and, for register accesses, of its last entry
(log entry 8). -/
abbrev violPacket : Nat := 0
abbrev violSqTail : Nat := 1
abbrev violCqHead : Nat := 2
abbrev violAccess : Nat := 3

/-- Does one more violation now make more than 1,024 of them within 1 s (R404): are there 1,024 before it, the oldest of
them less than 1 s ago? -/
def overLimit (times : List (Nat × Nat)) (now : Nat) : Bool := match times.drop 1023 with
  | t :: _ => decide (now < t.1 + 1000000000)
  | [] => false

/-- Count a host protocol violation; more than 1,024 in any 1 s quarantine the function (R404). -/
def countViolation (f kind : Nat) (s : State) : State :=
  let x := fnOf s f
  let many := overLimit x.violTimes s.now
  let s1 := setFn f (fun x => { x with
      violCnt := satInc x.violCnt
      violTimes := ((s.now, kind) :: x.violTimes).take 1024
      quarantine := x.quarantine || many }) s
  if many && !x.quarantine then
    raise { code := 0x0101, fn := some f, detail := [(4, satInc x.violCnt), (1, ((x.violTimes.getLast?).map (·.2)).getD kind)] } s1
  else s1

/-- A violation is counted, and logged as LOG_VIOLATION with kind, ring pair and value (R403, R436). -/
def violation (f kind pair value : Nat) (s : State) : State :=
  countViolation f kind (logLimited (128 * (0x80 + kind) + f)
    { code := 0x0B82, fn := some f, detail := [(1, kind), (1, pair), (4, value)] } s)

/-- A refused register access is logged as LOG_ACCESS: offset, width, write value (R436). -/
def logAccess (f off width value : Nat) (s : State) : State :=
  logLimited (128 * violAccess + f)
    { code := 0x0B81, fn := some f, detail := [(4, off), (1, width), (4, value)] } s

/-- ... and counted, where R403 counts it. -/
def badAccess (f off width value : Nat) (s : State) : State :=
  countViolation f violAccess (logAccess f off width value s)

/-! ### Completions (R395-R397) -/

/-- The issuer's function and pair. -/
def pairOf (s : State) (f p : Nat) : Option Pair := ((fnOf s f).pairs.find? fun e => e.1 == p).map (·.2)

def setPair (f p : Nat) (g : Pair → Pair) (s : State) : State :=
  setFn f (fun x => { x with pairs := x.pairs.map fun e => if e.1 = p then (p, g e.2) else e }) s

/-- Complete a command: its completion joins those held by its pair, in the order of completion (R395); the sideband's
answer goes out at once (R425). A completion whose ring is gone is lost with it (R432). -/
def complete (src : Src) (status : Nat) (words : List Nat) (s : State) : State :=
  match src.issuer with
  | .sideband =>
    { s with
      host := { s.host with outst := s.host.outst.filter fun o => !Outst.is src o }
      out := .sideband (.completion status src.tag words) :: s.out }
  | .fn f p =>
    let s1 := { s with host := { s.host with
      outst := s.host.outst.map fun o => if Outst.is src o then { o with wait := .done } else o } }
    setPair f p (fun q => { q with held := q.held ++ [⟨src.tag, status, words, src.noIrq⟩] }) s1

/-- Leave a command outstanding until its wait ends. -/
def await (src : Src) (w : Wait) (s : State) : State :=
  { s with host := { s.host with
    outst := s.host.outst.map fun o => if Outst.is src o then { o with wait := w } else o } }

/-- Complete every outstanding command whose wait satisfies a test. -/
def completeWaits (p : Wait → Bool) (status : Nat) (words : List Nat) (s : State) : State :=
  (s.host.outst.filter fun o => p o.wait).foldl (fun s o => complete o.src status words s) s

/-- Record an aborted command (R432, R436 LOG_ABORTED): effect 0 none, 1 complete. -/
def logAborted (o : Outst) (effect : Nat) (s : State) : State :=
  let pr := match o.src.issuer with
    | .fn _ p => p.val
    | .sideband => 0
  let f : Option Nat := match o.src.issuer with
    | .fn f _ => some f.val
    | .sideband => none
  logEntry { code := 0x0B83, fn := f, ctx := o.src.ctx, detail := [(2, o.opcode), (2, o.src.tag), (1, pr), (1, effect)] }
    s

/-- The status codes of R407 by name. -/
abbrev sOk : Nat := 0x0000
abbrev sBadPacket : Nat := 0x0001
abbrev sBadField : Nat := 0x0002
abbrev sAborted : Nat := 0x0003
abbrev sBusy : Nat := 0x0004
abbrev sNoResource : Nat := 0x0005
abbrev sDenied : Nat := 0x0006
abbrev sFwTimeout : Nat := 0x0007
abbrev sQuarantined : Nat := 0x0008
abbrev sFwImage : Nat := 0x0101
abbrev sRing : Nat := 0x0102
abbrev sHostDma : Nat := 0x0103
abbrev sJobUnknown : Nat := 0x0402
abbrev sCtxState : Nat := 0x0406
abbrev sObjUnknown : Nat := 0x0701

/-! ### Starting a command (R394, R398) -/

/-- What the checks before a command need: its opcode, whether its chapter marks it "owner", and the parameter bytes
that are rsvd, as (offset, length). -/
structure CmdInfo where
  src : Src
  opcode : Nat
  cmd : Instr
  owner : Bool := false
  rsvd : List (Nat × Nat) := []
  params : Bytes
  deriving DecidableEq, Repr

/-- Is there an earlier command of the same SQ still outstanding (R394)? `outst` is in fetch order. -/
def earlier (src : Src) : List Outst → Bool
  | [] => false
  | o :: r => if Outst.is src o then false else o.src.issuer == src.issuer || earlier src r

/-- Enter a command among the outstanding ones with the rights it has now (R386), unless its fetch has already done so;
its row then brings the data its fetch could not. -/
def enlist (i : CmdInfo) (s : State) : State :=
  if s.host.outst.any (Outst.is i.src) then
    { s with host := { s.host with outst := s.host.outst.map fun o => if Outst.is i.src o then { o with cmd := i.cmd } else o } }
  else { s with host := { s.host with outst := s.host.outst ++ [⟨i.src, i.cmd, i.opcode, false, srcOwner s i.src, .started⟩] } }

/-- Must the command wait before it starts: a fence (R394), a firmware hold (R402: FN.RESET and MODULE.RESET pass), or
a module that is not awake (R416: IDENTIFY, EVT.WAIT and class 0x0A pass)? -/
def mustHold (i : CmdInfo) (s : State) : Bool :=
  let fence := s.host.outst.any fun o => Outst.is i.src o && o.fence
  (fence && earlier i.src s.host.outst) ||
  ((match s.host.fwAct with
    | some a => a.holdFrom.isSome
    | none => false) && i.opcode != 0x0103 && i.opcode != 0x0104) ||
  (s.pwr.state != .active && i.opcode != 0x0101 && i.opcode != 0x010A && i.opcode / 256 != 0x0A)

/-- The status with which the checks turn a command away, or none (R398: quarantine, owner rights, then its
parameters; R396: a valid ctx field must name a context of the function; R390: the start step, for classes other than
0x01, 0x08, 0x0A and 0x0B, is LOCAL_READY, log entry 9). -/
def turnedAway (i : CmdInfo) (s : State) : Option Nat :=
  let f := srcFn s i.src
  let quar := match i.src.issuer with
    | .fn g _ => (fnOf s g).quarantine && i.opcode != 0x0103
    | .sideband => false
  let cls := i.opcode / 256
  if quar then some sQuarantined
  else if i.owner && !srcOwner s i.src then some sDenied
  else if !(cls == 0x01 || cls == 0x08 || cls == 0x0A || cls == 0x0B) && (decide (s.dvl.step < 6) || s.dvl.step == 15) then some sBusy
  else if !zeroAt i.params i.rsvd then some sBadField
  else match i.src.ctx with
    | some c => if (ctxOf s c).state != .free && (ctxOf s c).fn == f then none else some sJobUnknown
    | none => none

/-- Start a command: hold it, turn it away, or run its body. -/
def start (i : CmdInfo) (body : State → State) (s : State) : State :=
  let s1 := enlist i s
  if mustHold i s1 then await i.src .held s1
  else match turnedAway i s1 with
    | some st => complete i.src st [] s1
    | none => body s1

/-! ### Fabric messages (R338, R341) -/

/-- Send a message; those that recovery can resend are kept under their msg_id. -/
def send (dst : Nat) (m : Msg) (s : State) : State :=
  { s with
    dvl := { s.dvl with
      nextMsgId := (s.dvl.nextMsgId + 1) % 2 ^ 32
      sent := ((⟨s.dvl.nextMsgId, dst, m, 0, none⟩ : Sent) :: s.dvl.sent).take 1024 }
    out := msgOut s.dvl.addr dst s.dvl.nextMsgId m :: s.out }

/-- Send one message to each of a list of modules. -/
def sendAll (dsts : List Nat) (m : Msg) (s : State) : State := dsts.foldl (fun s d => send d m s) s

/-- Handle a message of a resendable type once: a duplicate (src, msg_id) within 10 ms is discarded (R341). -/
def once (h : MsgHdr) (body : State → State) (s : State) : State :=
  if s.dvl.seen.any fun e => e.1 == h.src && e.2.1 == h.msgId && decide (s.now ≤ e.2.2 + 10000000) then s
  else body { s with dvl := { s.dvl with
    seen := (h.src, h.msgId, s.now) :: s.dvl.seen.filter fun e => decide (s.now ≤ e.2.2 + 10000000) } }

/-! ### What the end of every command settles -/

/-- The functions of the module. -/
def allFns : List Nat := List.range 64


/-- Request a wake of a function that is in D3hot or D3cold with PME enabled, at most one at a time, and set cause bits
in its latch (R417). -/
def requestWake (f bitsSet : Nat) (s : State) : State :=
  let x := fnOf s f
  if x.dstate != .d0 && x.pmeOn then
    let s1 := setFn f (fun x => { x with wakeCause := x.wakeCause ||| word bitsSet, wakePending := true }) s
    if x.wakePending then s1
    else if x.dstate == .d3hot then emit (.pme f) s1 else emit (.wakePin (fnPort f) true) s1
  else s

/-- Result words of EVT.WAIT (R399): event code, the record's index, fabric time. -/
def evtWords (e : Nat × Nat × Nat) : List Nat := [e.2.1, e.1 % 2 ^ 32] ++ words64 e.2.2

/-- Deliver one record to one function: to its oldest EVT.WAIT, or held, up to 256 (R399). -/
def deliverTo (r : LogRec) (f : Nat) (s : State) : State :=
  let mine (o : Outst) : Bool := o.wait == .event && (match o.src.issuer with
    | .fn g _ => g.val == f
    | .sideband => f == s.host.ownerPf)
  match s.host.outst.find? mine with
  | some o => complete o.src sOk (evtWords (r.seq, r.code, r.time)) s
  | none => setFn f (fun x =>
      if x.evtHeld.length < 256 then { x with evtHeld := x.evtHeld ++ [(r.seq, r.code, r.time)] } else { x with ovfl := true }) s

/-- Deliver one record to every existing function that sees it, and wake those in D3 (R399, R417). -/
def deliver (r : LogRec) (s : State) : State :=
  allFns.foldl (fun s f =>
    if fnExists s f && visible s f r then requestWake f 0x2000 (deliverTo r f s) else s) s

/-- ALERT# is asserted while a row of R33 holds, and until the sideband has read the alert status (R35): `alertStatus`
lists the rows it has not read yet. Before PWR_GOOD the pin is high impedance (R22). WAKEn# is asserted while a function
of Hn in D3cold has a wake request that stands (R417). -/
def alertLine (s : State) : State :=
  { s with pkg := { s.pkg with
    alert := s.pkg.pwrGood && (!s.pkg.holding.isEmpty || !s.pkg.alertStatus.isEmpty)
    wakePins := (List.range 4).filter fun h => (List.range 16).any fun i =>
      (fnOf s (16 * h + i)).wakePending && (fnOf s (16 * h + i)).dstate == .d3cold } }

/-- The log stays a ring of 4,096 records (R433). -/
def trimLog (s : State) : State := { s with dbg := { s.dbg with log := s.dbg.log.take 4096 } }

/-- What follows every command: the events it raised are delivered in the order raised (R399), and ALERT# follows
(R35). `s` is the state before the command, `t` after. -/
def settle (s t : State) : State :=
  let new := t.dbg.log.reverse.filter fun r => decide (s.dbg.nextSeq ≤ r.seq) && deliverable r
  trimLog (alertLine (new.foldl (fun t r => deliver r t) t))

end Sys2Proof.Machine
end

