-- ==== Sys2Proof/Machine/JigImage.lean ====
section
/-! DEFINITION. Reading a jig image (R197-R201) and a bank (R195, R196): the header, the pipeline, stage and tile-set
tables, the entries and the programs, and which bank and image run at a frame. -/

namespace Sys2Proof.Machine

/-! ### The header (R197) -/

def imgEntries (b : Bytes) : Nat := getLE b 0x06 2
def imgPos (b : Bytes) : Nat := getLE b 0x08 1
def imgPhases (b : Bytes) : Nat := getLE b 0x09 1
def imgFrames (b : Bytes) : Nat := getLE b 0x0A 2
def imgFrameLen (b : Bytes) : Nat := getLE b 0x0C 4
def imgFloor (b : Bytes) : Nat := getLE b 0x10 1
def imgGuardPm (b : Bytes) : Nat := getLE b 0x11 1
def imgGracePct (b : Bytes) : Nat := getLE b 0x12 1
def imgCurFloor (b : Bytes) : Nat := getLE b 0x13 1
def imgKeepThr (b : Bytes) : Nat := getLE b 0x14 2
def imgWindow (b : Bytes) : Nat := getLE b 0x16 1
def imgPartitions (b : Bytes) : Nat := getLE b 0x17 1
def imgLookahead (b : Bytes) : Nat := getLE b 0x18 2
def imgNPipe (b : Bytes) : Nat := getLE b 0x1A 1
def imgNStage (b : Bytes) : Nat := getLE b 0x1B 1
def imgNTset (b : Bytes) : Nat := getLE b 0x1C 2
def imgProgOff (b : Bytes) : Nat := getLE b 0x20 4
def imgProgLen (b : Bytes) : Nat := getLE b 0x24 4
def imgLen (b : Bytes) : Nat := getLE b 0x38 4

/-! ### Tables (R198-R200) -/

/-- Offset of pipeline record i, stage record i, tile set i, entry i. -/
def pipeOff (i : Nat) : Nat := 0x40 + 16 * i
def stageOff (i : Nat) : Nat := 0xC0 + 32 * i
def tsetOff (i : Nat) : Nat := 0x1C0 + 32 * i
def entryOff (b : Bytes) (i : Nat) : Nat := 0x1C0 + 32 * imgNTset b + 32 * i

/-- The 32 bytes of entry i. -/
def imgEntry (b : Bytes) (i : Nat) : Bytes := slice b (entryOff b i) 32

def entStart (e : Bytes) : Nat := getLE e 0x00 4
def entDur (e : Bytes) : Nat := getLE e 0x04 4 % 2 ^ 20
def entProg (e : Bytes) : Nat := getLE e 0x08 4
def entTset (e : Bytes) : Nat := getLE e 0x0C 1
def entRow (e : Bytes) : Nat := getLE e 0x0D 1 % 128
def entPolicy (e : Bytes) : Nat := getLE e 0x0E 1 % 4
def entMb (e : Bytes) : Nat := getLE e 0x0F 1
def entInQ (e : Bytes) : Option Nat := if bit (getLE e 0x12 1) 0 then some (getLE e 0x10 1) else none
def entOutB (e : Bytes) : Option Nat := if bit (getLE e 0x12 1) 1 then some (getLE e 0x11 1) else none
def entPhase (e : Bytes) : Nat := getLE e 0x13 1 % 4
def entFab (e : Bytes) : Nat := getLE e 0x18 2
def entMem (e : Bytes) : Nat := getLE e 0x1A 2

/-- Guard, working time and grace of a slot (R202). -/
def entGuard (b e : Bytes) : Nat := (entDur e * imgGuardPm b + 999) / 1000
def entWork (b e : Bytes) : Nat := entDur e - entGuard b e
def entGrace (b e : Bytes) : Nat := entDur e * imgGracePct b / 100

/-- All entries of an image. -/
def imgEntryList (b : Bytes) : List Bytes := (List.range (imgEntries b)).map (imgEntry b)

/-- The tiles of a tile set, in ascending order of bit number (R199). -/
def tsetTiles (b : Bytes) (i : Nat) : List Nat :=
  let m := getLE b (tsetOff i) 32
  (List.range 256).filter fun t => bit m t

/-- A stage record (R198). -/
structure StageRec where
  stage : Nat
  pipeline : Nat
  vstage : Nat
  staticMib : Nat
  ctxMib : Nat
  resLimit : Nat
  fwdQ : Option Nat
  bwdQ : Option Nat
  deriving DecidableEq, Repr

def stageRec (b : Bytes) (i : Nat) : StageRec :=
  let r := slice b (stageOff i) 32
  let fl := getLE r 0x0F 1
  ⟨getLE r 0 2 % 4096, getLE r 2 1, getLE r 3 1, getLE r 4 4, getLE r 8 4, getLE r 0x0C 1,
    if bit fl 0 then some (getLE r 0x0D 1) else none, if bit fl 1 then some (getLE r 0x0E 1) else none⟩

/-- A pipeline record (R198): its number, m, row-frames and tenant rows. -/
structure PipeRec where
  pipeline : Nat
  m : Nat
  rowFrames : Nat
  rows : List Nat
  deriving DecidableEq, Repr

def pipeRec (b : Bytes) (i : Nat) : PipeRec :=
  let r := slice b (pipeOff i) 16
  let rows := getLE r 8 8
  ⟨getLE r 0 1, getLE r 2 2, getLE r 4 4, (List.range 64).filterMap fun k => if bit rows k then some (k + 1) else none⟩

def imgStages (b : Bytes) : List StageRec := (List.range (imgNStage b)).map (stageRec b)
def imgPipes (b : Bytes) : List PipeRec := (List.range (imgNPipe b)).map (pipeRec b)

/-- The word of a tile in a slot's program directory: the offset in the program area of its first descriptor, or none
(R201). -/
def progWord (b e : Bytes) (tile : Nat) : Option Nat :=
  let ts := tsetTiles b (entTset e)
  match ts.idxOf? tile with
  | none => none
  | some k =>
    let w := getLE b (imgProgOff b + entProg e + 4 * k) 4
    if w = 0xFFFF_FFFF then none else some w

/-! ### Banks (R195, R196, R220) -/

/-- The shadow bank is the bank that does not have the active number (log entry 10). -/
def shadowBank (s : State) : Tab Bytes := if s.jig.activeNo = 0 then s.jig.bank1 else s.jig.bank0
def activeBank (s : State) : Tab Bytes := if s.jig.activeNo = 0 then s.jig.bank0 else s.jig.bank1

def setShadow (b : Tab Bytes) (s : State) : State :=
  if s.jig.activeNo = 0 then { s with jig := { s.jig with bank1 := b } } else { s with jig := { s.jig with bank0 := b } }

/-- Images of a bank in cycle-position order. -/
def bankImages (b : Tab Bytes) : List Bytes := (List.range 4).filterMap fun i => (b.find? fun e => e.1 == i).map (·.2)

/-- The bank digest (R220): the first 128 bits of SHA-256 over its images in cycle order; 0 for an empty bank. -/
def bankDigest (b : Tab Bytes) : Nat :=
  let im := bankImages b
  if im.isEmpty then 0 else digest128 (im.flatMap fun i => i.take (imgLen i))

/-- Frames of one cycle (R196). -/
def cycleFrames (b : Tab Bytes) : Nat := ((bankImages b).map imgFrames).foldl (· + ·) 0

def bankFrameLen (b : Tab Bytes) : Nat := match bankImages b with
  | [] => 0
  | i :: _ => imgFrameLen i

def bankFloor (b : Tab Bytes) : Nat := match bankImages b with
  | [] => 0
  | i :: _ => imgFloor i

/-- The image and the frame within its visit that run k frames into a cycle. -/
def locate : List Bytes → Nat → Option (Bytes × Nat)
  | [], _ => none
  | i :: r, k => if k < imgFrames i then some (i, k) else locate r (k - imgFrames i)

/-- The image that runs in frame f of a bank, and the frame within its visit (R196). -/
def imageAt (b : Tab Bytes) (f : Nat) : Option (Bytes × Nat) :=
  let c := cycleFrames b
  if c = 0 then none else locate (bankImages b) (f % c)

/-- The image that runs now. -/
def runningImage (s : State) : Option Bytes :=
  if s.jig.running then (imageAt (activeBank s) s.jig.frame).map (·.1) else none

/-- Fabric time of the boundary of frame f of the active bank (R196). -/
def frameStart (s : State) (f : Nat) : Nat := s.jig.ts + f * bankFrameLen (activeBank s)

/-- Stages this module hosts, by the active bank, or by the shadow while none is active. -/
def hostedStages (s : State) : List StageRec :=
  let b := if s.jig.running then activeBank s else shadowBank s
  match bankImages b with
  | [] => []
  | i :: _ => imgStages i

/-- Is a stage record a standby record (R374)? A position hosts one stage per virtual stage (R136), so a later record of
the same pipeline and virtual stage is one (log entry 81). -/
def isStandby (l : List StageRec) (r : StageRec) : Bool :=
  (l.takeWhile (· != r)).any fun q => q.pipeline == r.pipeline && q.vstage == r.vstage

/-- The stages this module hosts for a context: those of its pipeline, standby records only where it has taken them
over (R374). -/
def ctxStages (s : State) (c : Nat) : List StageRec :=
  let l := hostedStages s
  l.filter fun r => r.pipeline == (ctxOf s c).pipeline && (!isStandby l r || (ctxOf s c).taken.contains r.stage)

/-- Every entry of every image of a bank is absent (R221: the bank idles). -/
def bankIdle (b : Tab Bytes) : Bool := (bankImages b).all fun i => imgEntries i == 0

/-- The records of an image's program area (R201): descriptors and their extension records. -/
def imgRecords (b : Bytes) : List Bytes :=
  (List.range (imgProgLen b / 64)).map fun i => slice b (imgProgOff b + 64 * i) 64

/-- Does a loaded jig name a queue (R161): in a stage record, an entry or a RECV? -/
def bankUsesQueue (b : Tab Bytes) (q : Nat) : Bool :=
  (bankImages b).any fun i =>
    (imgStages i).any (fun r => r.fwdQ == some q || r.bwdQ == some q) ||
      (imgEntryList i).any (fun e => entInQ e == some q) ||
        (imgRecords i).any fun d => getLE d 0 1 == 0x12 && getLE d 0x10 1 == q

/-- JIG_STATUS (R225). -/
def jigStatus (s : State) : Nat :=
  let st := if s.dvl.hold && s.jig.running then 3 else if !s.jig.running then 0
    else if bankIdle (activeBank s) then 2 else 1
  st + (s.jig.activeNo % 2) * 4 + b2n (!(bankImages (shadowBank s)).isEmpty) * 8 + b2n s.jig.pend.isSome * 16 +
    (s.jig.pos % 4) * 32 + (s.jig.visit % 2 ^ 16) * 256

end Sys2Proof.Machine
end

