-- ==== Sys2Proof/Machine/Objects.lean ====
section
/-! DEFINITION. Objects and memory tiers (chapter 10): handles, rights, reads and writes with poison and durability,
slack and residency, the OBJ.* commands, and the events of the GDDR7 tier and the context store. -/

namespace Sys2Proof.Machine

def kib : Nat := 1024
def mib : Nat := 1048576
def gib : Nat := 1073741824

/-! ### Handles (R288) -/

def hSlot (h : Nat) : Nat := h % 2 ^ 24
def hGen (h : Nat) : Nat := bits h 55 32

def mkHandle (slot gen : Nat) : Nat := slot + gen % 2 ^ 24 * 2 ^ 32

def objAt (s : State) (slot : Nat) : Obj := tget Obj.free s.mem.objs slot

/-- The object a handle names: its slot is in use, its generation agrees, and its rsvd bits are 0 (R288). -/
def findObj (s : State) (h : Nat) : Option Obj :=
  let o := objAt s (hSlot h)
  if o.live && o.gen == hGen h && h == mkHandle (hSlot h) (hGen h) then some o else none

/-- Change the live object of a handle; a handle that names none changes nothing (R288). -/
def setObj (h : Nat) (g : Obj → Obj) (s : State) : State :=
  match findObj s h with
  | some o => { s with mem := { s.mem with objs := tset s.mem.objs (hSlot h) (g o) } }
  | none => s

/-- Change every live object. -/
def mapObjs (g : Obj → Obj) (s : State) : State :=
  { s with mem := { s.mem with objs := s.mem.objs.map fun e => (e.1, if e.2.live then g e.2 else e.2) } }

def liveObjs (s : State) : List (Nat × Obj) := s.mem.objs.filter fun e => e.2.live

/-! ### Rights (R292) -/

/-- What a function holds on an object: 0 nothing, 1 READ, 2 READ_WRITE, 3 it owns it. -/
def fnRights (f : Nat) (o : Obj) : Nat :=
  if o.ownerFn = f then 3
  else match o.grants.find? fun g => g.1 == f with
    | some (_, true) => 2
    | some (_, false) => 1
    | none => 0

/-- The sideband acts as the owner PF (R425), so its rights are those of that function. -/
def srcRights (s : State) (src : Src) (o : Obj) : Nat := fnRights (srcFn s src) o

/-- What a context's ops hold on an object: its own counts as READ_WRITE, and its function's where no other context owns
it (R110, R170); a revoked grant still counts until the frame boundary (R292). -/
def opRights (s : State) (c : Nat) (o : Obj) : Nat :=
  let f := (ctxOf s c).fn
  if o.ownerCtx = some c || (o.ownerCtx.isNone && o.ownerFn == f) then 2
  else match (o.grants ++ o.oldGrants).find? fun g => g.1 == f with
    | some (_, true) => 2
    | some (_, false) => 1
    | none => 0

/-- The object a command names, with the status when it may not act: unknown without any right, denied beyond its
rights. -/
def cmdObj (s : State) (src : Src) (h need : Nat) : Except Nat Obj :=
  match findObj s h with
  | none => .error sObjUnknown
  | some o =>
    let r := srcRights s src o
    if r = 0 then .error sObjUnknown else if r < need then .error sDenied else .ok o

/-! ### Content (R295, R300, R318) -/

/-- The 256 B lines a range touches. -/
def linesOf (off n : Nat) : List Nat :=
  if n = 0 then [] else (List.range ((off + n - 1) / 256 + 1 - off / 256)).map (· + off / 256)

/-- Does a range cover a poisoned line (R295)? -/
def poisonedIn (o : Obj) (off n : Nat) : Bool := (linesOf off n).any fun l => o.poisoned.contains l

/-- The committed copy is the context store's (R300). -/
def inFlash (o : Obj) : Bool := o.state == .flash || o.state == .promoting

/-- A write of n bytes to the context store is hot and staged in SLC mode while the pool has room, if a command makes it, it
is of less than 256 KiB, or its object was written there twice within 24 h (R310). -/
def staged (o : Obj) (command room : Bool) (n now : Nat) : Bool :=
  o.slc || (room && (command || decide (n < 262144) ||
    (o.programmed.length == 2 && o.programmed.all fun t => decide (now ≤ t + 86400000000000))))

/-- Write bytes into an object (R300): to the context store, durably, while that copy is the committed one; else to
GDDR7, setting the dirty flag, durably where the durable flag asks for it (R318). A write that covers a whole poisoned
line clears its mark (R295). `room`: the SLC pool is not full. -/
def objWrite (o : Obj) (off : Nat) (bs : Bytes) (durable room : Bool) (now : Nat) : Obj :=
  { o with
    mem := memWrite o.mem off bs
    durable := if !o.scratch && (inFlash o || durable) then memWrite o.durable off bs else o.durable
    dirty := o.dirty || (!o.scratch && !inFlash o && !durable && bs != [])
    poisoned := o.poisoned.filter fun l => !(decide (off ≤ 256 * l) && decide (256 * l + 256 ≤ off + bs.length))
    lostLines := if !o.scratch && (inFlash o || durable) then
        o.lostLines.filter fun l => !(decide (off ≤ 256 * l) && decide (256 * l + 256 ≤ off + bs.length)) else o.lostLines
    access := o.access + 1
    lastAccess := now
    slc := if !o.scratch && (inFlash o || durable) then staged o true room bs.length now else o.slc
    programmed := if !o.scratch && (inFlash o || durable) then (now :: o.programmed).take 2 else o.programmed }

def objRead (o : Obj) (off n : Nat) : Bytes := memRead o.mem off n

/-- Make the whole object durable and clean (R318: a demotion commit, a FLUSH of all its writes). What a dirty object has
in GDDR7 is programmed; lines lost in the copy of a clean one stay lost (R307). -/
def makeDurable (room : Bool) (now : Nat) (o : Obj) : Obj :=
  if o.scratch then o
  else if !o.dirty then { o with durable := o.mem }
  else { o with
    durable := o.mem, dirty := false, lostLines := [], slc := staged o false room o.size now
    programmed := (now :: o.programmed).take 2 }

/-- The context-store copy becomes the committed one: the lines lost from it are poisoned (R307, R295). -/
def fromFlash (o : Obj) : Obj := { o with state := .flash, poisoned := (o.poisoned ++ o.lostLines).eraseDups, lostLines := [] }

/-- The device that holds a line of an object, and the memory die that drives it, by R294's interleaving counted from the object's start (log entry
12). -/
def lineDevice (line : Nat) : Nat := line * 256 / 4096 % 64
def lineDie (line : Nat) : Nat := lineDevice line / 16

/-- The bytes of line l that a write of n bytes at off covers, as a mask. -/
def lineMask (off n l : Nat) : Nat :=
  let lo := off - 256 * l
  let hi := min (off + n - 256 * l) 256
  2 ^ hi - 2 ^ min lo hi

/-- Is a buffered line this one? -/
def WcbLine.at (m h l : Nat) (e : WcbLine) : Bool := e.die == m && e.handle == h && e.line == l

/-- The write-combining buffer after a write of n bytes (R296): what it writes of a line merges into the buffer, and a line
leaves it once all 256 B have been written, as whole lines of long writes do at once; above 75 % of a die's 8,192 lines the
oldest is written back. -/
def wcbWrite (h off n : Nat) (w : List WcbLine) : List WcbLine :=
  (linesOf off n).foldl (fun (w : List WcbLine) l =>
    let m := lineDie l
    let mask := (((w.find? (WcbLine.at m h l)).map (·.mask)).getD 0) ||| lineMask off n l
    let rest := w.filter fun e => !WcbLine.at m h l e
    if mask = 2 ^ 256 - 1 then rest
    else
      let w' : List WcbLine := rest ++ [⟨m, h, l, mask⟩]
      if 6144 < (w'.filter fun e => e.die == m).length then
        match w'.find? fun e => e.die == m with
        | some old => w'.erase old
        | none => w'
      else w') w

def flashBytes (o : Obj) : Nat := if o.scratch then 0 else (o.size + 16383) / 16384 * 16384

/-- Has the SLC pool room: less than the 2 TiB it holds is staged (R304, R310)? -/
def slcRoom (s : State) : Bool :=
  decide (((liveObjs s).map fun e => if e.2.slc then flashBytes e.2 else 0).foldl (· + ·) 0 < 2048 * gib)

/-- Write bytes into the object a handle names. -/
def writeObj (h off : Nat) (bs : Bytes) (durable : Bool) (s : State) : State :=
  match findObj s h with
  | none => s
  | some o =>
    let s1 := setObj h (fun o => objWrite o off bs durable (slcRoom s) s.now) s
    if inFlash o then s1
    else { s1 with mem := { s1.mem with wcb := wcbWrite h off bs.length s1.mem.wcb } }

/-- The bytes of an object that the module reads itself. -/
def objBytes (s : State) (h off n : Nat) : Bytes :=
  match findObj s h with
  | some o => objRead o off n
  | none => List.replicate n 0

def objSize (s : State) (h : Nat) : Nat := match findObj s h with
  | some o => o.size
  | none => 0

/-! ### Space (R289, R291, R297, R141) -/

def usableGddr : Nat := 240 * gib
def reserveBytes (s : State) : Nat := s.ckp.reserveGiB * gib

/-- Bytes an object takes in GDDR7: whole 64 KiB extents (R289). -/
def gddrBytes (o : Obj) : Nat := (o.size + 65535) / 65536 * 65536

def resident (o : Obj) : Bool := o.state != .flash

/-- Partition size of a bank's images (R140). -/
def partitionBytes (s : State) (p : Nat) : Nat := (usableGddr - reserveBytes s) / max p 1 / (64 * mib) * (64 * mib)

/-- The queues that feed a stage: its input queues, and every other queue that the stage consumes, whatever its phase, but
for an input queue of a stage of another pipeline that has the same ID. -/
def feedQueues (s : State) (r : StageRec) : List Nat :=
  let own := r.fwdQ.toList ++ r.bwdQ.toList
  let foreign := (hostedStages s).flatMap fun x => if x.pipeline = r.pipeline then [] else x.fwdQ.toList ++ x.bwdQ.toList
  (own ++ s.mq.queues.filterMap fun q =>
    if q.2.state != 0 && q.2.stage == r.stage && !foreign.contains q.1 then some q.1 else none).eraseDups

/-- Queue-buffer bytes of the queues that feed a stage, and the stage's footprint (R141). -/
def queueBufBytes (s : State) (q : Nat) : Nat := (queueOf s q).depth * (queueOf s q).slotUnits * 65536

def footprint (s : State) (r : StageRec) : Nat :=
  ((feedQueues s r).map (queueBufBytes s)).foldl (· + ·) 0 + r.staticMib * mib + r.ctxMib * mib * r.resLimit

/-- Slack for a layout: all GDDR7 outside the reserve with no image loaded; else what the stages leave of their
partitions, and the remainder of the rounding (R297). An image with no stage lays out no partition (log entry 53). -/
def slackOf (s : State) (img : Option Bytes) : Nat :=
  match img with
  | none => usableGddr - reserveBytes s
  | some b =>
    if imgNStage b = 0 then usableGddr - reserveBytes s else
    let part := partitionBytes s (imgPartitions b)
    ((imgStages b).map fun r => part - footprint s r).foldl (· + ·) 0 +
      (usableGddr - reserveBytes s - part * imgPartitions b)

/-- The image whose layout holds: the active bank's, or the shadow's while none is active. -/
def layoutImage (s : State) : Option Bytes :=
  match bankImages (activeBank s) with
  | i :: _ => some i
  | [] => (bankImages (shadowBank s)).head?

/-- Does an object lie in slack (R297)? -/
def inSlack (s : State) (o : Obj) : Bool :=
  (layoutImage s).isNone || (match o.role with
    | .version _ _ | .training _ _ | .queueBuf _ => false
    | _ => true)

def slackUsed (s : State) : Nat :=
  ((liveObjs s).map fun e => if resident e.2 && inSlack s e.2 then gddrBytes e.2 else 0).foldl (· + ·) 0

def slackFree (s : State) : Nat := slackOf s (layoutImage s) - slackUsed s

def gddrFree (s : State) : Nat :=
  usableGddr - reserveBytes s - ((liveObjs s).map fun e => if resident e.2 then gddrBytes e.2 else 0).foldl (· + ·) 0

/-- Spare blocks and overprovisioning left, of 16 TiB, in GiB (R304). -/
def spareGiB (s : State) : Nat := 16384 - s.mem.spareLostGiB

/-- Object data free in the context store, less the shortfall of spare capacity below 256 GiB (R304, R311). -/
def flashFree (s : State) : Nat :=
  96 * 1024 * gib - (256 - spareGiB s) * gib - ((liveObjs s).map fun e => flashBytes e.2).foldl (· + ·) 0


/-! ### Stripes of the context store (R304, R306, R307) -/

/-- Object pages are laid out in stripe order, and successive stripes rotate over the eight parity groups: stripe n of the
order lies in group n mod 8, and is number n / 8 of that group. -/
def stripeGroup (n : Nat) : Nat := n % 8
def stripeNo (n : Nat) : Nat := n / 8

/-- The die and page position that a stripe's 16 pages share (log entry 115): 16 stripes of a group on one die of its
channels, at positions one after another, then 16 on the next. -/
def stripeDie (n : Nat) : Nat := stripeNo n / 16 % 4
def stripePos (n : Nat) : Nat := stripeNo n / 64 * 16 + stripeNo n % 16

/-- The channels of a stripe's group whose die at its position had not failed when it was laid out. -/
def stripeChans (skip : List (Nat × Nat)) (n : Nat) : List Nat :=
  ((List.range 16).map fun k => 16 * stripeGroup n + k).filter fun c => !skip.contains (c, stripeDie n)

/-- The channel of a stripe's parity page: N(16g + (s mod 16)), or where that die has failed the next one after it in the
group (log entry 115). -/
def parityChan (skip : List (Nat × Nat)) (n : Nat) : Nat :=
  let cs := stripeChans skip n
  let first := 16 * stripeGroup n + stripeNo n % 16
  ((cs.find? fun c => decide (first ≤ c)).orElse fun _ => cs.head?).getD first

/-- The channels of a stripe's data pages, in order: 15, less one for each failed die at its position. -/
def dataChans (skip : List (Nat × Nat)) (n : Nat) : List Nat := (stripeChans skip n).filter (· != parityChan skip n)

/-- The stripe of data page i counted from stripe n, and the page's place in it. -/
def stripeFrom (skip : List (Nat × Nat)) : Nat → Nat → Nat → Nat × Nat
  | 0, n, i => (n, i)
  | f + 1, n, i =>
    let w := (dataChans skip n).length
    if i < w then (n, i) else stripeFrom skip f (n + 1) (i - w)

/-- The stripe of an object's page, and its place there. -/
def pageStripe (o : Obj) (i : Nat) : Option (Nat × Nat) :=
  o.stripe.map fun n => if o.stripeSkip.isEmpty then (n + i / 15, i % 15) else stripeFrom o.stripeSkip (i + 1) n i

def objPages (o : Obj) : Nat := (o.size + 16383) / 16384

/-- Where a page of an object lies: channel, die, page position. -/
def pageAddr (o : Obj) (i : Nat) : Option (Nat × Nat × Nat) :=
  (pageStripe o i).bind fun p => ((dataChans o.stripeSkip p.1)[p.2]?).map fun c => (c, stripeDie p.1, stripePos p.1)

/-- The stripe after an object's last. -/
def stripeEnd (o : Obj) : Nat := match pageStripe o (objPages o - 1) with
  | some p => p.1 + 1
  | none => 0

/-- A page of an object's durable content. -/
def pageBytes (o : Obj) (i : Nat) : Bytes := memRead o.durable (16384 * i) 16384

def xorBytes (a b : Bytes) : Bytes := List.zipWith (· ^^^ ·) a b
def zeroPage : Bytes := List.replicate 16384 0
def xorPages (l : List Bytes) : Bytes := l.foldl xorBytes zeroPage

/-- The pages of an object in a stripe. -/
def stripePages (o : Obj) (n : Nat) : List Nat :=
  (List.range (objPages o)).filter fun i => (pageStripe o i).map (·.1) == some n

/-- The parity page of a stripe: the XOR of its data pages. -/
def parityPage (o : Obj) (n : Nat) : Bytes := xorPages ((stripePages o n).map (pageBytes o))

/-- A page as it is reconstructed from the rest of its stripe (R307 step 3): its parity page and its other data pages. -/
def rebuiltPage (o : Obj) (i : Nat) : Bytes := match pageStripe o i with
  | none => zeroPage
  | some p => xorPages (parityPage o p.1 :: ((stripePages o p.1).filter (· != i)).map (pageBytes o))

/-- A page as the context store reads it: one on a die that has failed is reconstructed (R307). -/
def flashPage (s : State) (o : Obj) (i : Nat) : Bytes := match pageAddr o i with
  | some (c, d, _) => if s.mem.flashFailed.contains (c, d) then rebuiltPage o i else pageBytes o i
  | none => pageBytes o i

/-- Pages of an object on two failed dies of one group, in stripes that have pages on both: lost. -/
def lostPages (o : Obj) (c1 c2 die : Nat) : List Nat :=
  (List.range (objPages o)).filter fun i => match pageStripe o i, pageAddr o i with
    | some p, some (c, d, _) => d == die && (c == c1 || c == c2) && (stripeChans o.stripeSkip p.1).contains c1 &&
        (stripeChans o.stripeSkip p.1).contains c2
    | _, _ => false

/-! ### Pins and references (R302, R319) -/

/-- Is the object named by an OBJ.* command in progress (R302)? -/
def inProgress (s : State) (h : Nat) : Bool :=
  s.host.outst.any fun o => match o.wait with
    | .pin x | .promote x | .atomic x _ _ _ _ _ => x == h
    | _ => false

/-- Pins of R302, commands in progress apart: OBJ.PIN references, queue buffers and result objects, and descriptors of
loaded banks (sysPins). -/
def pinCount (o : Obj) : Nat :=
  o.pinRefs + o.sysPins + (match o.role with
    | .queueBuf _ | .result _ => 1
    | _ => 0)

def isPinned (s : State) (h : Nat) (o : Obj) : Bool := decide (0 < pinCount o) || inProgress s h

/-- Protected from demotion up to the end of its frame (R299). -/
def isProtected (s : State) (o : Obj) : Bool := match o.protectedTo with
  | some f => decide (s.jig.frame ≤ f)
  | none => false

/-- Is an object one of a version's (R173)? -/
def inVersion (s : State) (h : Nat) : Bool :=
  s.vnr.ctxs.any fun c => c.2.vers.any fun t => t.2.any fun v => v.state != 0 && v.objects.any fun o => o.2 == h

/-- Does a capture, retained or in progress, hold an object as one of its version's (R173, R365)? -/
def heldByCapture (s : State) (h : Nat) : Bool :=
  (s.ckp.retained.filterMap (·.part) ++ s.ckp.captures.filterMap (·.part)).any fun p =>
    p.versions.any fun v => v.objects.any fun o => o.2.1 == h

/-- Does an object outlast its context (R174, R178; log entry 111)? It is pinned, or a capture holds it. -/
def outlasts (s : State) (h : Nat) (o : Obj) : Bool :=
  decide (0 < o.pinRefs) || decide (0 < o.sysPins) || heldByCapture s h

/-- Handles a manifest names (R182): itself apart, hyper, prefix, initial weights and extents. -/
def manifestInit (b : Bytes) : List (Nat × Nat × Nat) :=
  (List.range (getLE b 4 4)).map fun i => (getLE b (64 + 16 * i) 2, getLE b (66 + 16 * i) 1, getLE b (72 + 16 * i) 8)

/-- Extent records: data handle, offset, length, tokpos, rows per micro-batch. -/
def manifestExt (b : Bytes) : List (Nat × Nat × Nat × Nat × Nat) :=
  let base := 64 + 16 * getLE b 4 4
  (List.range (getLE b 8 4)).map fun i =>
    let o := base + 32 * i
    (getLE b o 8, getLE b (o + 8) 8, getLE b (o + 16) 8, getLE b (o + 24) 4, getLE b (o + 28) 4)

def manifestHandles (b : Bytes) : List Nat :=
  [getLE b 0x10 8, getLE b 0x18 8] ++ (manifestInit b).map (·.2.2) ++ (manifestExt b).map (·.1)

def manifestBytes (s : State) (h : Nat) : Bytes := objBytes s h 0 (objSize s h)

/-- Is an object named by the manifest of a job not DONE (R319)? -/
def inManifest (s : State) (h : Nat) : Bool :=
  s.vnr.jobs.any fun j => j.2.status.isNone &&
(manifestHandles j.2.manifest).contains h

/-! ### Moves (R300-R303) -/

/-- Remove an object's lines from the write-combining buffer: written back before a move commits, and at FLUSH. -/
def wcbFlush (h : Nat) (s : State) : State :=
  { s with mem := { s.mem with wcb := s.mem.wcb.filter fun e => e.handle != h } }

/-- A demotion commits (R300): the durable copy is whole, the object is in FLASH, and its waiting command completes. -/
def commitDemotion (h : Nat) (s : State) : State :=
  completeWaits (· == .demote h) sOk []
    (setObj h (fun o => { fromFlash (makeDurable (slcRoom s) s.now o) with planned := false }) (wcbFlush h s))

/-- Begin to demote a RESIDENT object: a clean one at once, a dirty one through DEMOTING (R300). -/
def beginDemotion (h : Nat) (o : Obj) (s : State) : State :=
  if o.dirty then setObj h (fun o => { o with state := .demoting }) s else commitDemotion h s

/-- Cancel a demotion in progress (R303): the object stays RESIDENT, and an OBJ.DEMOTE of it completes with S_OBJ_BUSY
(log entry 13). -/
def cancelDemotion (h : Nat) (s : State) : State :=
  match findObj s h with
  | some o =>
    if o.state == .demoting then completeWaits (· == .demote h) 0x0702 [] (setObj h (fun o => { o with state := .resident }) s)
    else s
  | none => s

/-- Contexts that hold a row, or are listed in a plan or commit not yet run (R301). -/
def plannedCtxs (s : State) : List Nat :=
  s.jig.rows.filterMap (·.2.ctx) ++ (s.jig.plans ++ s.jig.commits).flatMap fun m => m.rows.flatMap (·.2)

/-- May the engine demote this object to make room (R301)? -/
def canEvict (s : State) (h : Nat) (o : Obj) : Bool :=
  o.live && o.state == .resident && !o.scratch && !isPinned s h o && !isProtected s o &&
    (match o.ownerCtx with
      | some c => !(plannedCtxs s).contains c
      | none => true)

/-- The order of victims (R301): clean before dirty, then access count, then last access; affinity scores stand equal
(log entry 14). -/
def victimLe (a b : Nat × Obj) : Bool :=
  if a.2.planned != b.2.planned then b.2.planned
  else if a.2.dirty != b.2.dirty then b.2.dirty
  else if a.2.access != b.2.access then decide (a.2.access < b.2.access)
  else decide (a.2.lastAccess ≤ b.2.lastAccess)

/-- Insert in order; sorting a short list by insertion keeps it evaluable. -/
def insertBy {α : Type} (le : α → α → Bool) (x : α) : List α → List α
  | [] => [x]
  | y :: r => if le x y then x :: y :: r else y :: insertBy le x r

def sortBy {α : Type} (le : α → α → Bool) (l : List α) : List α := l.foldr (insertBy le) []

/-- GDDR7 free where an object lies: in slack, or in the partitions of its stage (R297). -/
def roomFor (s : State) (o : Obj) : Nat := if inSlack s o then slackFree s else gddrFree s

/-- Bytes on their way out of slack, or out of the partitions. -/
def leaving (slack : Bool) (s : State) : Nat := ((liveObjs s).map fun e =>
  if e.2.state == .demoting && inSlack s e.2 == slack then gddrBytes e.2 else 0).foldl (· + ·) 0

/-- Demote victims from slack, or from the partitions, until what is left and what is on its way out is enough, or none is
left (R301). -/
def evictUntil (slack : Bool) (enough : State → Bool) (s : State) : State :=
  (sortBy victimLe (s.mem.objs.filter fun e => findObj s (mkHandle e.1 e.2.gen) == some e.2 &&
      canEvict s (mkHandle e.1 e.2.gen) e.2 && inSlack s e.2 == slack)).foldl
    (fun s e => if enough s then s else beginDemotion (mkHandle e.1 e.2.gen) e.2 s) s

/-- Make room for an object (R301). -/
def makeRoom (o : Obj) (s : State) : State :=
  evictUntil (inSlack s o) (fun t => decide (gddrBytes o ≤ roomFor t o + leaving (inSlack s o) t)) s

/-- Make room for the partitions of a layout: demote from slack until what stays in it fits (R297). -/
def fitSlack (s : State) : State :=
  evictUntil true (fun t => decide (slackUsed t - leaving true t ≤ slackOf t (layoutImage t))) s

/-- Room for an object once every victim has left (R301, R302). -/
def mostRoom (s : State) (o : Obj) : Nat :=
  roomFor s o + ((liveObjs s).map fun e =>
    if (canEvict s (mkHandle e.1 e.2.gen) e.2 || e.2.state == .demoting) && inSlack s e.2 == inSlack s o then gddrBytes e.2
    else 0).foldl (· + ·) 0

/-- Begin to promote a FLASH object where there is room for it, else make room, and the promotion waits (R300, R301); a
DEMOTING one stays RESIDENT (R303). -/
def beginPromotion (h : Nat) (s : State) : State :=
  match findObj s h with
  | some o => match o.state with
    | .flash =>
      let s1 := if gddrBytes o ≤ roomFor s o then s else makeRoom o s
      if gddrBytes o ≤ roomFor s1 o then setObj h (fun o => { o with state := .promoting }) s1 else s1
    | .demoting => cancelDemotion h s
    | _ => s
  | none => s

/-- Is an object's promotion asked for: by a row plan, a pin, a descriptor of a loaded bank, or a command that waits? -/
def wanted (s : State) (h : Nat) (o : Obj) : Bool :=
  o.planned || isPinned s h o || s.host.outst.any fun x => match x.wait with
    | .mqPost k => k == h
    | _ => false

/-- Promotions that waited for room begin, now that an object has left GDDR7 (R301). -/
def retryPromotions (left : Nat) (s : State) : State :=
  (liveObjs s).foldl (fun s e =>
    let h := mkHandle e.1 e.2.gen
    if e.2.state == .flash && h != left && wanted s h e.2 then beginPromotion h s else s) s

/-- Apply an atomic operation of width w bytes (R133): operation 0 add, 1 min, 2 max, 3 swap, 4 compare and swap. -/
def atomicResult (op w old operand compare : Nat) : Nat :=
  match op with
  | 0 => (old + operand) % 2 ^ (8 * w)
  | 1 => if signed (8 * w) operand < signed (8 * w) old then operand else old
  | 2 => if signed (8 * w) old < signed (8 * w) operand then operand else old
  | 3 => operand
  | _ => if old = compare then operand else old

/-- Do an atomic on a resident object and answer the old value. -/
def doAtomic (h off op w operand compare : Nat) (s : State) : Nat × State :=
  let old := leNat (objBytes s h off w)
  let m := 2 ^ (8 * w)
  (old, writeObj h off (toLE w (atomicResult op w old (operand % m) (compare % m))) false s)

/-- Resume the commands that waited for an object to become RESIDENT (R302, R319). OBJ.PIN takes its reference here. -/
def resumeOn (h : Nat) (s : State) : State :=
  let ws := s.host.outst.filter fun o => match o.wait with
    | .pin x | .promote x | .atomic x _ _ _ _ _ => x == h
    | _ => false
  ws.foldl (fun s o => match o.wait with
    | .pin _ => complete o.src sOk [] (setObj h (fun x => { x with pinRefs := x.pinRefs + 1 }) s)
    | .atomic _ off op w v c =>
      let r := doAtomic h off op w v c s
      complete o.src sOk (words64 r.1) r.2
    | _ => complete o.src sOk [] s) s

/-! ### OBJ.* commands (R319, R320) -/

/-- The lowest object-table slot not in use (log entry 15). -/
def freeSlot (s : State) : Nat :=
  let used := (liveObjs s).map (·.1)
  ((List.range (used.length + 1)).map (· + 1)).find? (fun k => !used.contains k) |>.getD 1

/-- The first stripe after those of every object (log entry 115). -/
def freeStripe (s : State) : Nat := ((liveObjs s).map fun e => stripeEnd e.2).foldl max 0

/-- Make an object in a free slot; its generation is one above that of the slot's last object (R288). A PERSISTENT one is
laid out on stripes of the context store (R306). -/
def newObj (o : Obj) (s : State) : Nat × State :=
  let k := freeSlot s
  let g := if thas s.mem.objs k then ((objAt s k).gen + 1) % 2 ^ 24 else 0
  (mkHandle k g, { s with mem := { s.mem with objs := tset s.mem.objs k { o with
    gen := g, live := true, stripe := if o.scratch then none else some (freeStripe s), stripeSkip := s.mem.flashFailed } } })

/-- A PERSISTENT object that the module makes for itself without a stage, with its content: in slack where there is room,
on the default home die (R290, R297, R300). -/
def ownObj (f : Nat) (role : ObjRole) (content : Bytes) (s : State) : Nat × State :=
  let m := memWrite [] 0 content
  let o : Obj := { Obj.free with
    size := max content.length 1, home := freeSlot s % 4, ownerFn := f, role := role, mem := m, durable := m, lastAccess := s.now }
  newObj { o with state := if gddrBytes o ≤ slackFree s then .resident else .flash } s

/-- Free an object's slot. -/
def dropObj (h : Nat) (s : State) : State :=
  setObj h (fun o => { Obj.free with gen := o.gen }) (wcbFlush h s)

/-- The objects of a context that `f` takes go; one that outlasts its context stays, and no context owns it (R170, R178,
R190). -/
def releaseObjs (c : Nat) (f : Obj → Bool) (s : State) : State :=
  ((liveObjs s).filter fun e => e.2.ownerCtx == some c && f e.2).foldl (fun s e =>
    let h := mkHandle e.1 e.2.gen
    if outlasts s h e.2 then setObj h (fun o => { o with ownerCtx := none }) s else dropObj h s) s

def doObjCreate (src : Src) (p : Bytes) (s : State) : State :=
  start ⟨src, 0x0701, .objCreate src p, false, [(0x0C, 36)], p⟩ (fun s =>
    let size := getLE p 0 8
    let kind := getLE p 8 1
    let home := getLE p 9 1
    let c := getLE p 0x0A 2
    let f := srcFn s src
    let o : Obj := { Obj.free with
      size := size, scratch := kind == 1, ownerFn := f, ownerCtx := if c = 0xFFFF then none else some c,
      home := if home = 0xFF then freeSlot s % 4 else home, state := .resident, lastAccess := s.now }
    if size = 0 || 64 * gib < size || 1 < kind || (3 < home && home != 0xFF) then complete src sBadField [] s
    else if c != 0xFFFF && (4096 ≤ c || (ctxOf s c).state == .free || (ctxOf s c).fn != f) then
      complete src sJobUnknown [] s
    else
      let room := decide (gddrBytes o ≤ slackFree s)
      if (kind = 1 && !room) || (kind = 0 && flashFree s < flashBytes o) || 4194303 ≤ (liveObjs s).length then
        complete src sNoResource [] s
      else
        let r := newObj (if room then o else { o with state := .flash }) s
        complete src sOk (words64 r.1) r.2) s

def doObjDestroy (src : Src) (p : Bytes) (s : State) : State :=
  start ⟨src, 0x0702, .objDestroy src p, false, [(8, 40)], p⟩ (fun s =>
    let h := getLE p 0 8
    match cmdObj s src h 3 with
    | .error st => complete src st [] s
    | .ok o =>
      if isPinned s h o || inVersion s h || heldByCapture s h || inManifest s h then complete src 0x0702 [] s
      else complete src sOk [] (dropObj h s)) s

/-- OBJ.WRITE with the bytes read from host memory (none: that read failed, R384). -/
def doObjWrite (src : Src) (p : Bytes) (data : Option Bytes) (s : State) : State :=
  start ⟨src, 0x0703, .objWrite src p data, false, [(0x15, 3), (0x20, 16)], p⟩ (fun s =>
    let h := getLE p 0 8
    let off := getLE p 8 8
    let n := getLE p 0x10 4
    let fl := getLE p 0x14 1
    if 1 < fl then complete src sBadField [] s else
    match cmdObj s src h 2 with
    | .error st => complete src st [] s
    | .ok o =>
      if 16 * mib < n then complete src sBadField [] s
      else if o.size < off + n then complete src 0x0703 [] s
      else if n = 0 then complete src sOk [] s
      else match data with
        | none => complete src sHostDma [] s
        | some d => complete src sOk [] (writeObj h off (slice d 0 n) (fl == 1) s)) s

def doObjRead (src : Src) (p : Bytes) (s : State) : State :=
  start ⟨src, 0x0704, .objRead src p, false, [(0x14, 4), (0x20, 16)], p⟩ (fun s =>
    let h := getLE p 0 8
    let off := getLE p 8 8
    let n := getLE p 0x10 4
    match cmdObj s src h 1 with
    | .error st => complete src st [] s
    | .ok o =>
      if 16 * mib < n then complete src sBadField [] s
      else if o.size < off + n then complete src 0x0703 [] s
      else if n = 0 then complete src sOk [] s
      else if poisonedIn o off n then complete src 0x0704 [] s
      else
        let s1 := setObj h (fun o => { o with access := o.access + 1, lastAccess := s.now }) s
        complete src sOk [] (emit (.hostWrite (fnPort (srcFn s src)) (getLE p 0x18 8) (objRead o off n)) s1)) s

/-- MEM_OBJ words 0-3 of an object (R322). -/
def memObjWords (o : Obj) : List Nat :=
  let st := match o.state with
    | .flash => 1
    | .promoting => 2
    | .resident => 3
    | .demoting => 4
  [st + b2n o.scratch * 8 + o.home % 4 * 16 + b2n o.dirty * 64 + b2n (!o.poisoned.isEmpty) * 128 +
      min (pinCount o) 255 * 256,
   (o.size + 63) / 64 % 2 ^ 32,
   (match o.ownerCtx with
    | some c => c % 4096 + 4096
    | none => 0) + o.ownerFn % 64 * 8192,
   o.access % 2 ^ 32]

def doObjQuery (src : Src) (p : Bytes) (s : State) : State :=
  start ⟨src, 0x0705, .objQuery src p, false, [(8, 40)], p⟩ (fun s =>
    match findObj s (getLE p 0 8) with
    | none => complete src sObjUnknown [] s
    | some o =>
      if 1 ≤ srcRights s src o || srcOwner s src then complete src sOk (memObjWords o) s
      else complete src sObjUnknown [] s) s

def doObjPin (src : Src) (p : Bytes) (s : State) : State :=
  start ⟨src, 0x0706, .objPin src p, false, [(8, 40)], p⟩ (fun s =>
    let h := getLE p 0 8
    match cmdObj s src h 1 with
    | .error st => complete src st [] s
    | .ok o =>
      if 255 ≤ pinCount o then complete src sNoResource [] s
      else if resident o && o.state != .promoting then
        complete src sOk [] (setObj h (fun x => { x with pinRefs := x.pinRefs + 1 }) (cancelDemotion h s))
      else
        if o.state == .flash && mostRoom s o < gddrBytes o then complete src sNoResource [] s
        else await src (.pin h) (beginPromotion h s)) s

def doObjUnpin (src : Src) (p : Bytes) (s : State) : State :=
  start ⟨src, 0x0707, .objUnpin src p, false, [(8, 40)], p⟩ (fun s =>
    let h := getLE p 0 8
    match cmdObj s src h 1 with
    | .error st => complete src st [] s
    | .ok o =>
      if o.pinRefs = 0 then complete src 0x0702 [] s
      else complete src sOk [] (setObj h (fun x => { x with pinRefs := x.pinRefs - 1 }) s)) s

def doObjPromote (src : Src) (p : Bytes) (s : State) : State :=
  start ⟨src, 0x0708, .objPromote src p, false, [(8, 40)], p⟩ (fun s =>
    let h := getLE p 0 8
    match cmdObj s src h 1 with
    | .error st => complete src st [] s
    | .ok o => match o.state with
      | .resident => complete src sOk [] s
      | .demoting => complete src sOk [] (cancelDemotion h s)
      | _ => await src (.promote h) (beginPromotion h s)) s

def doObjDemote (src : Src) (p : Bytes) (s : State) : State :=
  start ⟨src, 0x0709, .objDemote src p, false, [(8, 40)], p⟩ (fun s =>
    let h := getLE p 0 8
    match cmdObj s src h 2 with
    | .error st => complete src st [] s
    | .ok o =>
      if o.scratch then complete src 0x0705 [] s
      else if isPinned s h o || isProtected s o || o.planned then complete src 0x0702 [] s
      else match o.state with
        | .flash => complete src sOk [] s
        | .promoting => complete src sOk [] (setObj h (fun o => { o with state := .flash }) s)
        | .demoting => await src (.demote h) s
        | .resident => beginDemotion h o (await src (.demote h) s)) s

def doObjGrant (src : Src) (p : Bytes) (s : State) : State :=
  start ⟨src, 0x070A, .objGrant src p, false, [(0x0A, 38)], p⟩ (fun s =>
    let h := getLE p 0 8
    let f := getLE p 8 1
    let r := getLE p 9 1
    match cmdObj s src h 3 with
    | .error st => complete src st [] s
    | .ok o =>
      if 63 < f || 1 < r then complete src sBadField [] s
      else
        let rest := o.grants.filter fun g => g.1 != f
        if 8 ≤ rest.length then complete src sNoResource [] s
        else complete src sOk [] (setObj h (fun x => { x with grants := rest ++ [(f, r == 1)] }) s)) s

def doObjRevoke (src : Src) (p : Bytes) (s : State) : State :=
  start ⟨src, 0x070B, .objRevoke src p, false, [(9, 39)], p⟩ (fun s =>
    let h := getLE p 0 8
    let f := getLE p 8 1
    match cmdObj s src h 3 with
    | .error st => complete src st [] s
    | .ok o =>
      if 63 < f then complete src sBadField [] s
      else complete src sOk [] (setObj h (fun x => { x with
          grants := o.grants.filter fun g => g.1 != f
          oldGrants := x.oldGrants ++ o.grants.filter fun g => g.1 == f }) s)) s

def doObjAtomic (src : Src) (p : Bytes) (s : State) : State :=
  start ⟨src, 0x070C, .objAtomic src p, false, [(0x12, 6), (0x28, 8)], p⟩ (fun s =>
    let h := getLE p 0 8
    let off := getLE p 8 8
    let op := getLE p 0x10 1
    let w := getLE p 0x11 1
    let v := getLE p 0x18 8
    let c := getLE p 0x20 8
    match cmdObj s src h 2 with
    | .error st => complete src st [] s
    | .ok o =>
      if 4 < op || (w != 4 && w != 8) || ((op = 1 || op = 2) && w != 4) then complete src sBadField [] s
      else if o.size < off + w || off % w != 0 then complete src 0x0703 [] s
      else if poisonedIn o off w then complete src 0x0704 [] s
      else if inFlash o then await src (.atomic h off op w v c) (beginPromotion h s)
      else
        let s1 := cancelDemotion h s
        let r := doAtomic h off op w v c s1
        complete src sOk (words64 r.1) r.2) s

/-! ### FLUSH (R400) -/

/-- The writes a FLUSH covers become durable at its level (R318, R400). -/
def flushObj (level h : Nat) (s : State) : State :=
  if level = 0 then wcbFlush h s else setObj h (makeDurable (slcRoom s) s.now) (wcbFlush h s)

/-- Every object a function owns or holds under a READ_WRITE grant. -/
def flushable (s : State) (f : Nat) : List Nat :=
  (liveObjs s).filterMap fun e => if 2 ≤ fnRights f e.2 then some (mkHandle e.1 e.2.gen) else none

def doFlush (src : Src) (p : Bytes) (s : State) : State :=
  start ⟨src, 0x0102, .flush src p, false, [(1, 7), (0x10, 32)], p⟩ (fun s =>
    let level := getLE p 0 1
    let h := getLE p 8 8
    if 1 < level then complete src sBadField [] s
    else if h != 0 && (match findObj s h with
        | some o => decide (srcRights s src o < 2)
        | none => true) then complete src sObjUnknown [] s
    else
      let hs := if h = 0 then flushable s (srcFn s src) else [h]
      let s1 := hs.foldl (fun s h => flushObj level h s) s
      if earlier src s1.host.outst then await src (.flush level h) s1 else complete src sOk [] s1) s

/-! ### Events of the memory tiers -/

/-- Lines of an object are lost: marked poisoned, each with its event (R295). The event names the device that held the line
or, where its page is lost in the context store, the channel of the page. -/
def poisonLines (h : Nat) (lines : List Nat) (s : State) : State :=
  let chan (l : Nat) : Option Nat := (findObj s h).bind fun o => if inFlash o then (pageAddr o (l / 64)).map (·.1) else none
  lines.foldl (fun s l =>
    raise { code := 0x0701, source := 4 + (match chan l with
        | some c => c / 32
        | none => lineDie l), detail := [(8, h), (8, 256 * l), (1, (chan l).getD (lineDevice l))] }
      { s with mem := { s.mem with ueCnt := satInc s.mem.ueCnt } })
    (setObj h (fun o => { o with poisoned := o.poisoned ++ lines }) s)

/-- PROMOTION_COMMIT (R300): the copy is whole and the object RESIDENT; lines of pages lost beyond repair come in
poisoned (R303). -/
def doPromotionCommit (h : Nat) (lost : List Nat) (s : State) : State :=
  match findObj s h with
  | none => s
  | some o =>
    if o.state != .promoting then s
    else resumeOn h (setObj h (fun o => { o with state := .resident }) (poisonLines h lost s))

def doDemotionCommit (h : Nat) (s : State) : State :=
  match findObj s h with
  | none => s
  | some o => if o.state == .demoting then retryPromotions h (commitDemotion h s) else s

/-- POISON_REWRITE (R295): a poisoned line of a PERSISTENT object that is not dirty is rewritten from the context store
and its mark cleared. -/
def doPoisonRewrite (h line : Nat) (s : State) : State :=
  match findObj s h with
  | none => s
  | some o =>
    if o.poisoned.contains line && !o.scratch &&
        decide (memRead o.mem (256 * line) 256 = memRead o.durable (256 * line) 256 ∨ o.dirty = false) then
      setObj h (fun o => { o with
        poisoned := o.poisoned.filter (· != line)
        mem := memWrite o.mem (256 * line) (memRead o.durable (256 * line) 256) }) s
    else s

/-- WCB_IDLE_TIMER (R296): a buffered line with no write for 2 µs is written back. -/
def doWcbIdleTimer (m h line : Nat) (s : State) : State :=
  { s with mem := { s.mem with wcb := s.mem.wcb.filter fun e => !WcbLine.at m h line e } }

/-- ACCESS_COUNT_HALVING (R298). -/
def doAccessCountHalving (s : State) : State := mapObjs (fun o => { o with access := o.access / 2 }) s

/-- The pages that an object loses with two dies of one group: its lines are poisoned while the context store holds the
committed copy, and stay marked for when it does again (R307, R295). -/
def losePages (c1 c2 die : Nat) (s : State) : State :=
  (liveObjs s).foldl (fun s e =>
    let lines := (lostPages e.2 c1 c2 die).flatMap fun i => (List.range 64).map (· + 64 * i)
    let h := mkHandle e.1 e.2.gen
    if lines.isEmpty then s
    else if inFlash e.2 then poisonLines h (lines.filter fun l => !e.2.poisoned.contains l) s
    else setObj h (fun o => { o with lostLines := (o.lostLines ++ lines).eraseDups }) s) s

/-- A failed die's data goes into spare blocks: its 256 GiB are gone from the spare capacity (log entry 117), and below 1
TiB EV_OBJ_SPARE_LOW is raised (R311). -/
def spendSpare (s : State) : State :=
  let s1 := { s with mem := { s.mem with spareLostGiB := min (s.mem.spareLostGiB + 256) 16384 } }
  if spareGiB s1 < 1024 && !s.mem.spareRaised then
    raise { code := 0x0705, source := 4, detail := [(4, spareGiB s1)] } { s1 with mem := { s1.mem with spareRaised := true } }
  else s1

/-- FLASH_DIE_FAILED (R307): the die is marked failed, a rebuild into spare blocks starts, and the event is raised. A second
die that fails in the same group before the rebuild ends loses every stripe that has pages on both. -/
def doFlashDieFailed (ch die : Nat) (s : State) : State :=
  if s.mem.flashFailed.contains (ch, die) then s
  else
    let s1 := raise { code := 0x0703, source := 4 + ch / 32, detail := [(1, ch), (1, die)] }
      { s with mem := { s.mem with
        flashFailed := s.mem.flashFailed ++ [(ch, die)], rebuilding := s.mem.rebuilding ++ [(ch, die)] } }
    (s.mem.rebuilding.filter fun r => r.1 / 16 == ch / 16 && r.2 == die).foldl (fun s r => losePages r.1 ch die s)
      (spendSpare s1)

/-- REBUILD_DONE (R307): the die's data is rebuilt; the event names the pages lost. -/
def doRebuildDone (ch die lost : Nat) (s : State) : State :=
  if s.mem.rebuilding.contains (ch, die) then
    raise { code := 0x0704, source := 4 + ch / 32, detail := [(1, ch), (1, die), (4, lost)] }
      { s with mem := { s.mem with rebuilding := s.mem.rebuilding.erase (ch, die) } }
  else s

/-- Where a flash block's bookkeeping stands: by channel, die and block. -/
def blockKey (ch die block : Nat) : Nat := (ch * 4 + die) * 65536 + block

def freshBlock : Block := ⟨0, 0, 0, 0, 0, false⟩

/-- A block refreshed or emptied is erased once more and starts anew (R308). -/
def eraseBlock (now : Nat) (b : Block) : Block :=
  { b with erases := b.erases + 1, progTime := now, reads := 0, corr := 0, retry := 0 }

/-- Mean erase count over the blocks written so far, as life used in percent of 3,000 cycles (R309). A die has 10,922
TLC blocks of 24 MiB in its 256 GiB (R304). -/
def lifeUsed (bs : Tab Block) (blocks : Nat) : Nat := (bs.map (·.2.erases)).foldl (· + ·) 0 * 100 / (3000 * max blocks 1)

def allBlocks : Nat := 512 * 10922

/-- EV_OBJ_WEAR at 80 % and at 95 % (R309). -/
def wearCheck (s : State) : State :=
  let l := lifeUsed s.mem.blocks allBlocks
  let lvl := if 95 ≤ l then 2 else if 80 ≤ l then 1 else 0
  if s.mem.wearRaised < lvl then
    raise { code := 0x0706, source := 4, detail := [(1, l)] } { s with mem := { s.mem with wearRaised := lvl } }
  else s

/-- BLOCK_REFRESH (R308): in ACTIVE, the block's valid data is rewritten and it is erased. -/
def doBlockRefresh (ch die block : Nat) (s : State) : State :=
  if s.pwr.state != .active then s
  else wearCheck { s with mem := { s.mem with
    refreshCnt := satInc s.mem.refreshCnt
    journalSeq := s.mem.journalSeq + 1
    blocks := tupd freshBlock s.mem.blocks (blockKey ch die block) (eraseBlock s.pwr.rtc)
    maxRetry := tset s.mem.maxRetry ch 0 } }

/-- WEAR_LEVEL_MOVE (R309): data of the low block moves when the counts differ by more than 300; the low block is
erased, and the move is journalled. -/
def doWearLevelMove (ch die src dst : Nat) (s : State) : State :=
  let a := tget freshBlock s.mem.blocks (blockKey ch die src)
  let b := tget freshBlock s.mem.blocks (blockKey ch die dst)
  if a.erases + 300 < b.erases then
    wearCheck { s with mem := { s.mem with
      journalSeq := s.mem.journalSeq + 1
      blocks := tset (tset s.mem.blocks (blockKey ch die src) (eraseBlock s.pwr.rtc a)) (blockKey ch die dst)
        { b with progTime := s.pwr.rtc, reads := 0, corr := 0, retry := 0 } } }
  else s

/-- SLC_FOLD (R310): staged data is folded into TLC; its content is unchanged. -/
def doSlcFold (h : Nat) (s : State) : State :=
  let s1 := setObj h (fun o => if o.live then { o with slc := false } else o) s
  { s1 with mem := { s1.mem with journalSeq := s1.mem.journalSeq + 1 } }

/-! ### Two-bank records (R314-R317) -/

/-- The seq of a record's valid copy: the higher of the two banks (R316); 0 when absent. -/
def recSeq (s : State) (type : Nat) : Nat :=
  let r := tget .erased s.mem.records type
  max r.bank0 r.bank1

/-- Write a record: to the bank that does not hold the valid copy, with its seq + 1 (R316). -/
def writeRecord (type : Nat) (payload : Bytes) (s : State) : State :=
  { s with mem := { s.mem with records := tupd .erased s.mem.records type fun r =>
    if r.bank1 ≤ r.bank0 then { r with bank1 := r.bank0 + 1, copy1 := recordBytes type (r.bank0 + 1) payload }
    else { r with bank0 := r.bank1 + 1, copy0 := recordBytes type (r.bank1 + 1) payload } } }

/-- The payload of the flash block map with its object table (R315, R317), which the spec does not lay out. -/
def blockMapBytes (s : State) : Bytes :=
  Config.layout 0x17 ((s.mem.blocks.flatMap fun b => [b.1, b.2.erases, b.2.progTime, b.2.reads, b.2.corr, b.2.retry]) ++
    (liveObjs s).flatMap fun e => [mkHandle e.1 e.2.gen, e.2.size, b2n e.2.scratch, e.2.home, e.2.ownerFn, e.2.stripe.getD 0] ++
      e.2.grants.map fun g => 2 * g.1 + b2n g.2)

/-- BLOCK_MAP_WRITE (R317): every 60 s the flash block map is written in full. -/
def doBlockMapWrite (s : State) : State :=
  let s1 := writeRecord 0x0007 (blockMapBytes s) (advance (s.mem.lastMapWrite + 60000000000) s)
  { s1 with mem := { s1.mem with lastMapWrite := s1.now } }

/-! ### The commands and events as rows of the table -/

def execObjCreate (src : Src) (p : Bytes) (s : State) : Host.Outcome State Fault Refusal :=
  .next (settle s (doObjCreate src p s))

def execObjDestroy (src : Src) (p : Bytes) (s : State) : Host.Outcome State Fault Refusal :=
  .next (settle s (doObjDestroy src p s))

def execObjWrite (src : Src) (p : Bytes) (data : Option Bytes) (s : State) : Host.Outcome State Fault Refusal :=
  .next (settle s (doObjWrite src p data s))

def execObjRead (src : Src) (p : Bytes) (s : State) : Host.Outcome State Fault Refusal :=
  .next (settle s (doObjRead src p s))

def execObjQuery (src : Src) (p : Bytes) (s : State) : Host.Outcome State Fault Refusal :=
  .next (settle s (doObjQuery src p s))

def execObjPin (src : Src) (p : Bytes) (s : State) : Host.Outcome State Fault Refusal :=
  .next (settle s (doObjPin src p s))

def execObjPromote (src : Src) (p : Bytes) (s : State) : Host.Outcome State Fault Refusal :=
  .next (settle s (doObjPromote src p s))

def execObjDemote (src : Src) (p : Bytes) (s : State) : Host.Outcome State Fault Refusal :=
  .next (settle s (doObjDemote src p s))

def execObjGrant (src : Src) (p : Bytes) (s : State) : Host.Outcome State Fault Refusal :=
  .next (settle s (doObjGrant src p s))

def execObjRevoke (src : Src) (p : Bytes) (s : State) : Host.Outcome State Fault Refusal :=
  .next (settle s (doObjRevoke src p s))

def execObjAtomic (src : Src) (p : Bytes) (s : State) : Host.Outcome State Fault Refusal :=
  .next (settle s (doObjAtomic src p s))

def execFlush (src : Src) (p : Bytes) (s : State) : Host.Outcome State Fault Refusal :=
  .next (settle s (doFlush src p s))

def execDemotionCommit (handle : Nat) (s : State) : Host.Outcome State Fault Refusal :=
  .next (settle s (doDemotionCommit handle s))

def execPoisonRewrite (handle line : Nat) (s : State) : Host.Outcome State Fault Refusal :=
  .next (settle s (doPoisonRewrite handle line s))

def execWcbIdleTimer (mem : Fin 4) (handle line : Nat) (s : State) : Host.Outcome State Fault Refusal :=
  .next (settle s (doWcbIdleTimer mem.val handle line s))

def execAccessCountHalving (s : State) : Host.Outcome State Fault Refusal := .next (settle s (doAccessCountHalving s))

def execFlashDieFailed (ch : Fin 128) (die : Fin 4) (s : State) : Host.Outcome State Fault Refusal :=
  .next (settle s (doFlashDieFailed ch.val die.val s))

def execRebuildDone (ch : Fin 128) (die : Fin 4) (lost : Nat) (s : State) : Host.Outcome State Fault Refusal :=
  .next (settle s (doRebuildDone ch.val die.val lost s))

def execBlockRefresh (ch : Fin 128) (die : Fin 4) (block : Nat) (s : State) : Host.Outcome State Fault Refusal :=
  .next (settle s (doBlockRefresh ch.val die.val block s))

def execWearLevelMove (ch : Fin 128) (die : Fin 4) (src dst : Nat) (s : State) : Host.Outcome State Fault Refusal :=
  .next (settle s (doWearLevelMove ch.val die.val src dst s))

def execSlcFold (handle : Nat) (s : State) : Host.Outcome State Fault Refusal := .next (settle s (doSlcFold handle s))

def execBlockMapWrite (s : State) : Host.Outcome State Fault Refusal := .next (settle s (doBlockMapWrite s))

end Sys2Proof.Machine
end

