-- ==== Sys2Proof/Machine/Routes.lean ====
section
/-! DEFINITION. The installation map (R344), the up*/down* routes that follow from it (R339), and the modules and ports
of this module's fabric as the map gives them. -/

namespace Sys2Proof.Machine

/-- A module record (R344). -/
structure MapMod where
  addr : Nat
  prio : Nat
  serial : Nat
  buddy : Nat
  group : Nat
  gws : List Nat
  deriving DecidableEq, Repr

/-- A link record (R344). -/
structure MapLink where
  a : Nat
  pa : Nat
  b : Nat
  pb : Nat
  len : Nat
  deriving DecidableEq, Repr

def mapMods (m : Bytes) : List MapMod :=
  (List.range (getLE m 0x0C 4)).map fun i =>
    let o := 64 + 32 * i
    ⟨getLE m o 4 % 2 ^ 17, getLE m (o + 4) 2, getLE m (o + 8) 8, getLE m (o + 16) 4 % 2 ^ 17, getLE m (o + 20) 4,
      (List.range 4).map fun k => getLE m (o + 24 + 2 * k) 2⟩

def mapLinks (m : Bytes) : List MapLink :=
  let base := 64 + 32 * getLE m 0x0C 4
  (List.range (getLE m 0x10 4)).map fun i =>
    let v := getLE m (base + 8 * i) 8
    ⟨bits v 16 0, bits v 21 17, bits v 38 22, bits v 43 39, bits v 55 44⟩

/-- The bank record of a module in a configuration set. -/
def bankRecord (set : Bytes) (addr : Nat) : Option Nat :=
  ((List.range (getLE set 0x14 4)).find? fun i => getLE set (0x40 + 20 * i) 4 == addr).map fun i =>
    getLE set (0x44 + 20 * i) 16

def noDup (l : List Nat) : Bool := match l with
  | [] => true
  | x :: r => !r.contains x && noDup r

/-- The checks of a map (R344). -/
def mapOk (m : Bytes) : Bool :=
  let mods := mapMods m
  let links := mapLinks m
  let n := getLE m 0x0C 4
  let base := 64 + 32 * n
  getLE m 0 4 == 0x504D5855 && decide (1 ≤ n) && decide (n ≤ 131072) && decide (getLE m 0x10 4 ≤ 1835008) &&
  decide (1 ≤ getLE m 0x14 4) && decide (getLE m 0x14 4 ≤ n) && zeroAt m [(0x18, 40)] &&
  decide (base + 8 * getLE m 0x10 4 ≤ m.length) &&
  noDup (mods.map (·.addr)) && noDup (mods.map (·.serial)) &&
  mods.all (fun x => mods.any fun y => y.addr == x.buddy) &&
  (List.range n).all (fun i =>
    let o := 64 + 32 * i
    decide (getLE m o 4 < 2 ^ 17) && getLE m (o + 6) 2 == 0 && decide (getLE m (o + 16) 4 < 2 ^ 17)) &&
  noDup (links.flatMap fun l => [l.a * 32 + l.pa, l.b * 32 + l.pb]) &&
  (List.range (getLE m 0x10 4)).all (fun i => getLE m (base + 8 * i + 7) 1 == 0) &&
  links.all fun l => decide (l.a < l.b) && decide (l.pa ≤ 27) && decide (l.pb ≤ 27) && decide (1 ≤ l.len) &&
    decide (l.len ≤ 300)

def theMap (s : State) : Bytes := s.dvl.map.getD []

def mapModOf (s : State) (addr : Nat) : Option MapMod := (mapMods (theMap s)).find? fun m => m.addr == addr

/-- This module's own record. -/
def ownMod (s : State) : Option MapMod := mapModOf s s.dvl.addr

/-- Links as (from, port, to, port at the other end), in both directions. -/
def mapEdges (m : Bytes) : List (Nat × Nat × Nat × Nat) :=
  (mapLinks m).flatMap fun l => [(l.a, l.pa, l.b, l.pb), (l.b, l.pb, l.a, l.pa)]

/-- Lower (priority, serial) wins (R339, R348). -/
def keyLt (p1 s1 p2 s2 : Nat) : Bool := decide (p1 < p2) || (p1 == p2 && decide (s1 < s2))

/-- The routing root (R339). -/
def routeRoot (m : Bytes) : Nat :=
  match mapMods m with
  | [] => 0
  | x :: r => (r.foldl (fun b y => if keyLt y.prio y.serial b.prio b.serial then y else b) x).addr

/-- Distances from a set of modules, breadth first. -/
def bfs (edges : List (Nat × Nat × Nat × Nat)) : Nat → Nat → List Nat → List (Nat × Nat) → List (Nat × Nat)
  | 0, _, _, seen => seen
  | fuel + 1, d, front, seen =>
    let next := (edges.filterMap fun e =>
      if front.contains e.1 && !(seen.any fun x => x.1 == e.2.2.1) then some e.2.2.1 else none).eraseDups
    if next.isEmpty then seen else bfs edges fuel (d + 1) next (seen ++ next.map fun a => (a, d + 1))

def rankTable (m : Bytes) : List (Nat × Nat) :=
  let r := routeRoot m
  bfs (mapEdges m) (getLE m 0x0C 4) 0 [r] [(r, 0)]

def rankOf (t : List (Nat × Nat)) (a : Nat) : Nat := ((t.find? fun x => x.1 == a).map (·.2)).getD (2 ^ 20)

/-- A link is up when it leads to a module of lower rank, ties broken by address (R339). -/
def linkUp (t : List (Nat × Nat)) (u v : Nat) : Bool :=
  decide (rankOf t v < rankOf t u) || (rankOf t v == rankOf t u && decide (v < u))

/-- One more hop of the shortest legal routes to a destination: lengths by (module, down bit). -/
def relax (t : List (Nat × Nat)) (edges : List (Nat × Nat × Nat × Nat)) (d : Tab Nat) : Tab Nat :=
  edges.foldl (fun d e =>
    let up := linkUp t e.1 e.2.2.1
    [false, true].foldl (fun d dn =>
      if dn && up then d
      else match d.find? fun x => x.1 == 2 * e.2.2.1 + b2n (dn || !up) with
        | some (_, n) => match d.find? fun x => x.1 == 2 * e.1 + b2n dn with
          | some (_, k) => if n + 1 < k then tset d (2 * e.1 + b2n dn) (n + 1) else d
          | none => d ++ [(2 * e.1 + b2n dn, n + 1)]
        | none => d) d) d

def relaxN (t : List (Nat × Nat)) (edges : List (Nat × Nat × Nat × Nat)) : Nat → Tab Nat → Tab Nat
  | 0, d => d
  | n + 1, d => relaxN t edges n (relax t edges d)

/-- Up to 4 candidate output ports to a destination, for a value of the down bit (R339), without the down links. -/
def candidates (s : State) (dest : Nat) (down : Bool) : List Nat :=
  let m := theMap s
  let t := rankTable m
  let dead (a p : Nat) : Bool := s.dvl.routedDown.contains (a, p)
  let edges := (mapEdges m).filter fun e => !(dead e.1 e.2.1 || dead e.2.2.1 e.2.2.2)
  let d := relaxN t edges 64 [(2 * dest, 0), (2 * dest + 1, 0)]
  let firsts := edges.filterMap fun e =>
    let up := linkUp t e.1 e.2.2.1
    if e.1 != s.dvl.addr || (down && up) then none
    else (d.find? fun x => x.1 == 2 * e.2.2.1 + b2n (down || !up)).map fun x => (x.2 + 1, e.2.1)
  ((sortBy (fun a b : Nat × Nat => decide (a.1 < b.1) || (a.1 == b.1 && decide (a.2 ≤ b.2))) firsts).take 4).map (·.2)

/-- Code of the state UP (R326). -/
abbrev portUp : Nat := 4

def isUp (s : State) (p : Nat) : Bool := (portOf s p).state == portUp

/-- The port a message leaves on: the first candidate that is UP (R339). -/
def routePort (s : State) (dest : Nat) (down : Bool) : Option Nat := (candidates s dest down).find? (isUp s)

/-- Is there a live route to a module? -/
def reachable (s : State) (dest : Nat) : Bool := dest == s.dvl.addr || (routePort s dest false).isSome

/-- Members of this module's replica group, in ascending order of address (R344; log entry 16). -/
def groupMembers (s : State) (g : Nat) : List Nat :=
  sortBy (fun a b : Nat => decide (a ≤ b)) ((mapMods (theMap s)).filterMap fun m => if m.group = g then some m.addr else none)

end Sys2Proof.Machine
end

