-- ==== Sys2Proof/Machine/Queues.lean ====
section
/-! DEFINITION. Mortise queues (chapter 5): micro-batch headers, posting in order, credits, refusals and purges, and the
context fault they lead to (R177-R180), with the version references of R173. -/

namespace Sys2Proof.Machine

/-! ### The micro-batch header (R143) -/

def hdrTenant (h : Bytes) : Nat := getLE h 0x00 4 % 2 ^ 24
def hdrCtx (h : Bytes) : Nat := getLE h 0x04 2 % 4096
def hdrVer (h : Bytes) : Nat := getLE h 0x04 2 / 4096
def hdrStage (h : Bytes) : Nat := getLE h 0x06 2 % 4096
def hdrPhase (h : Bytes) : Nat := bits (getLE h 0x06 2) 13 12
def hdrStep (h : Bytes) : Nat := getLE h 0x08 4
def hdrMb (h : Bytes) : Nat := getLE h 0x0C 2
def hdrFlags (h : Bytes) : Nat := getLE h 0x0E 2
def hdrHandle (h : Bytes) : Nat := getLE h 0x10 8
def hdrOff (h : Bytes) : Nat := getLE h 0x18 4
def hdrLen (h : Bytes) : Nat := getLE h 0x1C 4
def hdrRows (h : Bytes) : Nat := getLE h 0x20 2
def hdrSrcAddr (h : Bytes) : Nat := getLE h 0x24 4 % 2 ^ 17
def hdrSeq (h : Bytes) : Nat := getLE h 0x28 4
def hdrTok (h : Bytes) : Nat := getLE h 0x2C 4 % 2 ^ 23
def hdrCrc (h : Bytes) : Nat := getLE h 0x3C 4

/-- Put the CRC over bytes 0x00-0x3B into a header. -/
def sealHdr (h : Bytes) : Bytes := setLE (slice h 0 64) 0x3C 4 (crc32c (slice h 0 0x3C))

/-- Every rsvd field of a header is 0. -/
def hdrRsvdOk (h : Bytes) : Bool :=
  getLE h 3 1 == 0 && getLE h 6 2 / 2 ^ 14 == 0 && hdrFlags h / 8 == 0 && getLE h 0x22 2 / 4096 == 0 &&
    getLE h 0x24 4 / 2 ^ 17 == 0 && getLE h 0x2C 4 / 2 ^ 23 == 0 && zeroAt h [(0x30, 12)]

/-- Sequence order of wrapping 32-bit numbers: a is at or before b. -/
def seqLe (a b : Nat) : Bool := decide ((b + 2 ^ 32 - a % 2 ^ 32) % 2 ^ 32 < 2 ^ 31)

def seqNext (a : Nat) : Nat := (a + 1) % 2 ^ 32

/-! ### Version references (R171, R173) -/

/-- The 16 entries of a (context, stage). -/
def versAt (x : Ctx) (stage : Nat) : List Version :=
  let l := tget [] x.vers stage
  l ++ List.replicate (16 - l.length) Version.empty

def verOf (s : State) (c stage v : Nat) : Version := (versAt (ctxOf s c) stage).getD v Version.empty

def setVer (c stage v : Nat) (g : Version → Version) (s : State) : State :=
  setCtx c (fun x => { x with vers := tset x.vers stage ((versAt x stage).modify v g) }) s

def verTake (c stage v : Nat) (s : State) : State := setVer c stage v (fun e => { e with refs := e.refs + 1 }) s
def verDrop (c stage v : Nat) (s : State) : State := setVer c stage v (fun e => { e with refs := e.refs - 1 }) s

/-- The number of the current version of a (context, stage), or none. -/
def currentVer (x : Ctx) (stage : Nat) : Option Nat := (versAt x stage).findIdx? fun e => e.current

/-! ### Slots, credits and posting (R147, R148) -/

def slotBytes (k : Queue) : Nat := k.slotUnits * 65536

def slotsIn (k : Queue) (st : SlotSt) : List Nat := (List.range k.slots.length).filter fun i => k.slots[i]? == some st

/-- MQ_OCC (R158): posted entries not yet taken, and free slots not granted. -/
def mqOcc (k : Queue) : Nat := k.entries.length + (slotsIn k .free).length * 65536

def mqCfg (k : Queue) : List Nat :=
  [k.state + k.phase % 4 * 4 + k.stage % 4096 * 16 + k.depth * 65536, k.slotUnits, k.producer, k.posted]

/-- The highest seq posted without a gap, for credit messages. -/
def ackOf (k : Queue) : Option Nat := if k.nextSeq = 0 && k.posted = 0 then none else some ((k.nextSeq + 2 ^ 32 - 1) % 2 ^ 32)

/-- A queue whose binding has closed (R162): CREATED again, and its granted slots with no entry are free. -/
def releaseQueue (q : Nat) (s : State) : State :=
  setQueue q (fun k => { k with
    state := if k.state = 2 then 1 else k.state
    bound := none
    slots := k.slots.map fun t => if t = .granted then .free else t
    creditPend := [] }) s

/-- The src_stage word of an MQ_BIND that closes the binding: the spec names no message for it (log entry 18). -/
def closeFlag : Nat := 2 ^ 15

/-- A binding whose window is empty ends its close (R162): it becomes IDLE, and its destination queue, here or on another
module, is released. -/
def finishUnbind (b : Nat) (s : State) : State :=
  let x := bindOf s b
  let s1 := setBind b (fun _ => Binding.reset) s
  let s2 := if x.destAddr = s.dvl.addr then releaseQueue x.destQueue s1
    else send x.destAddr (.mqBind x.destQueue b (closeFlag + x.srcStage) x.destStage) s1
  completeWaits (· == .unbind b) sOk [] s2

/-- What a credit message does at the sender (R147): slots return, discarded slots are usable again (R156), and headers
up to the acknowledged seq leave the resend window. -/
def creditAt (b : Nat) (slots : List Nat) (acked : Option Nat) (s : State) : State :=
  let s1 := setBind b (fun x => { x with
      credits := x.credits ++ x.reclaim ++ slots
      reclaim := []
      window := match acked with
        | some a => x.window.filter fun e => !seqLe e.1 a
        | none => x.window }) s
  if (bindOf s1 b).state = 3 && (bindOf s1 b).window.isEmpty then finishUnbind b s1 else s1

/-- Send one credit message of a bound queue: up to 8 slots and the seq (R147); a local sender takes it at once. -/
def sendCredit (q : Nat) (s : State) : State :=
  let k := queueOf s q
  match k.bound with
  | none => s
  | some (a, b) =>
    let s1 := setQueue q (fun k => { k with creditPend := k.creditPend.drop 8, ackPend := false }) s
    if a = s.dvl.addr then creditAt b (k.creditPend.take 8) (ackOf k) s1
    else send a (.mqCredit b (k.creditPend.take 8) (ackOf k)) s1

/-- Credit messages go out while 8 slots are pending. -/
def creditsDue : Nat → Nat → State → State
  | 0, _, s => s
  | n + 1, q, s => if 8 ≤ (queueOf s q).creditPend.length then creditsDue n q (sendCredit q s) else s

/-- Free a slot: back to a bound queue's sender as a credit, else free. -/
def freeSlotOf (q slot : Nat) (s : State) : State :=
  let s1 := setQueue q (fun k => { k with
    slots := k.slots.modify slot fun _ => if k.bound.isSome then .granted else .free
    creditPend := if k.bound.isSome then k.creditPend ++ [slot] else k.creditPend }) s
  creditsDue 1 q s1

/-- Post an entry into its slot. The entry holds a reference on the version it names for this stage (R173). -/
def postEntry (q : Nat) (hdr : Bytes) (slot : Nat) (s : State) : State :=
  verTake (hdrCtx hdr) (hdrStage hdr) (hdrVer hdr) (setQueue q (fun k => { k with
    slots := k.slots.modify slot fun _ => .posted
    entries := k.entries ++ [⟨hdr, slot⟩]
    posted := seqNext k.posted
    ackPend := true }) s)

def slotOfHdr (k : Queue) (h : Bytes) : Nat := hdrOff h / max (slotBytes k) 1

/-- Go on while the next seq is done or held early (R148, R145 effect 4). -/
def drainEarly : Nat → Nat → State → State
  | 0, _, s => s
  | n + 1, q, s =>
    let k := queueOf s q
    if k.doneSeqs.contains k.nextSeq then
      drainEarly n q (setQueue q (fun k => { k with doneSeqs := k.doneSeqs.erase k.nextSeq, nextSeq := seqNext k.nextSeq }) s)
    else match k.early.find? fun e => e.1 == k.nextSeq with
      | some (_, h) =>
        drainEarly n q (postEntry q h (slotOfHdr k h) (setQueue q (fun k => { k with
          early := k.early.filter fun e => e.1 != k.nextSeq
          nextSeq := seqNext k.nextSeq }) s))
      | none => s

def drainAll (q : Nat) (s : State) : State :=
  drainEarly ((queueOf s q).early.length + (queueOf s q).doneSeqs.length + 1) q s

/-! ### Purge (R156) -/

/-- Purge one context's entries, or every entry, from one queue: their slots are freed and their version references
dropped; headers held early go too, and their seqs count as done. The number of entries removed comes first. -/
def purgeQueue (q : Nat) (c : Option Nat) (s : State) : Nat × State :=
  let k := queueOf s q
  let hit (h : Bytes) : Bool := match c with
    | some c => hdrCtx h == c
    | none => true
  let gone := k.entries.filter fun e => hit e.hdr
  let early := k.early.filter fun e => hit e.2
  let s1 := setQueue q (fun k => { k with
    entries := k.entries.filter fun e => !hit e.hdr
    early := k.early.filter fun e => !hit e.2
    doneSeqs := k.doneSeqs ++ early.map (·.1) }) s
  let s2 := gone.foldl (fun s e => verDrop (hdrCtx e.hdr) (hdrStage e.hdr) (hdrVer e.hdr) (freeSlotOf q e.slot s)) s1
  let s3 := early.foldl (fun s e => freeSlotOf q (slotOfHdr k e.2) s) s2
  (gone.length, drainAll q s3)

/-- The context's sends not yet handed to the link are discarded; their slots come back with the next credit message
(R156). -/
def discardSends (c : Nat) (s : State) : State :=
  { s with mq := { s.mq with bindings := s.mq.bindings.map fun e => (e.1, { e.2 with
    sending := e.2.sending.filter fun x => x.ctx != c
    reclaim := e.2.reclaim ++ (e.2.sending.filter fun x => x.ctx == c).map (·.slot) }) } }

def purgeAll (c : Nat) (s : State) : State :=
  discardSends c ((s.mq.queues.map (·.1)).foldl (fun s q => (purgeQueue q (some c) s).2) s)

/-! ### Context faults (R177-R180) -/

/-- The lead of a job: bits [31:15] of its ID (R165). -/
def leadOf (job : Nat) : Nat := job / 2 ^ 15

/-- The lead of a job now: the module its ID names, until that is lost (R373). -/
def leadAt (s : State) (job : Nat) : Nat := tget (leadOf job) s.ckp.leads job

/-- The context of a job on this module that is not FREE. -/
def ctxOfJob (s : State) (job : Nat) : Option Nat :=
  (s.vnr.ctxs.find? fun e => e.2.state != .free && e.2.job == job).map (·.1)

def activeCtx (x : Ctx) : Bool := x.state == .admitted || x.state == .running || x.state == .held

/-- Micro-batches in flight of a context that ends drop their version references (R173, R178). -/
def dropInflight (c : Nat) (s : State) : State :=
  let x := ctxOf s c
  setCtx c (fun x => { x with inflight := [] })
    (x.inflight.foldl (fun s e => e.2.foldl (fun s m => verDrop c e.1 m.2.2 s) s) s)

/-! ### The current of the grid between passes (R87, R89) -/

/-- The floor of the running image in percent; default 60 (R92). -/
def currentFloor (s : State) : Nat := match runningImage s with
  | some b => imgCurFloor b
  | none => 60

/-- The smallest L with L × 0.5625 A ≥ floor × current, capped at 16 (R89). -/
def floorLevel (floorPct mA : Nat) : Nat := min 16 ((floorPct * mA * 100 + 5624999) / 5625000)

/-- Dummy rows at the floor level of the preceding pass fill the cycles that a fault, an empty RECV or a faulted context's
op frees (R89, R98, R99, R135, R152): level 0, ramp_out 0. A tile with no pass behind it has no level to hold (log entry
101). -/
def fillGap (t : Nat) (s : State) : State :=
  if (tileOf s t).lastCurrent = 0 then s
  else setTile t (fun x => { x with level := floorLevel (currentFloor s) x.lastCurrent, gated := false }) s

/-- What a context still had in a tile's fill gate and split-K groups is discarded, its version references with it, and
dummy rows take its cycles (R79, R86). -/
def discardGroups (c t : Nat) (s : State) : State :=
  let x := tileOf s t
  let gs := x.groups.filter fun g => g.ctx == c
  let is := x.split.filter fun i => i.env.ctx == c
  if gs.isEmpty && is.isEmpty then s
  else
    let s1 := setTile t (fun x => { x with
      groups := x.groups.filter fun g => g.ctx != c, split := x.split.filter fun i => i.env.ctx != c }) s
    let s2 := gs.foldl (fun s g => verDrop g.ctx g.stage g.version s) s1
    fillGap t (is.foldl (fun s i => verDrop i.env.ctx i.env.stage i.env.ver s) s2)

/-- Step t0 to t0 + 10 µs of R178, without telling anyone: FAULTED with its first cause, fill groups discarded (R86),
entries purged, event raised. A later cause is only counted; on a DONE context it is logged and changes nothing (R180). -/
def faultHere (c cause kind seq tile : Nat) (s : State) : State :=
  let x := ctxOf s c
  let detail := [(1, cause), (1, kind), (2, seq), (1, tile)]
  if activeCtx x then
    let s1 := { setCtx c (fun x => { x with
        state := .faulted, holds := [], cause := cause, faultedAt := s.now }) (dropInflight c s) with
      jig := { s.jig with retest := true } }
    let s2 := { s1 with
      vnr := { s1.vnr with faultCnt := satInc s1.vnr.faultCnt }
      mq := { s1.mq with gone := (c, s.now) :: s1.mq.gone.filter fun g => g.1 != c } }
    let s3 := (s2.tile.tiles.map (·.1)).foldl (fun s t => discardGroups c t s) s2
    raiseCtx 0x0401 (tileSource tile) c detail (purgeAll c s3)
  else if x.state == .faulted then { s with vnr := { s.vnr with faultCnt := satInc s.vnr.faultCnt } }
  else if x.state == .done then
    logEntry { code := 0x0401, source := tileSource tile, fn := some x.fn, ctx := some c, tenant := x.tenant,
               job := x.job, detail := detail } s
  else s

/-- The lead records the first member's cause and faults every other member with PEER (R179). -/
def leadFault (job cause member : Nat) (s : State) : State :=
  match jobOf s job with
  | none => s
  | some j =>
    if j.status.isSome || j.cause != 0 then s
    else
      let s1 := setJob job (fun j => { j with cause := cause, causeMember := member }) s
      let s2 := sendAll (j.members.filter fun m => m != member && m != s.dvl.addr) (.jobCtl (.fault job 0x0C)) s1
      match ctxOfJob s2 job with
      | some c =>
        if activeCtx (ctxOf s2 c) then
          let r := fresh s2
          faultHere c 0x0C (r.1 % 256) (r.1 / 256 % 65536) (r.1 / 2 ^ 24) r.2
        else s2
      | none => s2

/-- A member tells its lead of a fault (R179). -/
def tellLead (job cause : Nat) (s : State) : State :=
  if leadAt s job = s.dvl.addr then leadFault job cause s.dvl.addr s
  else send (leadAt s job) (.jobCtl (.fault job cause)) s

/-- A context fault found on this module (R178, R179). -/
def ctxFault (c cause kind seq tile : Nat) (s : State) : State :=
  let x := ctxOf s c
  let s1 := faultHere c cause kind seq tile s
  if activeCtx x && x.job != 0 then tellLead x.job cause s1 else s1

/-- A fault that no op found: the spec gives no op kind, seq and tile for its record, so they are free (log entry 19). -/
def ctxFaultNoOp (c cause : Nat) (s : State) : State :=
  let r := fresh s
  ctxFault c cause (r.1 % 256) (r.1 / 256 % 65536) (r.1 / 2 ^ 24) r.2

/-! ### Refusals (R145) -/

/-- What a REJECT does at the sender (R145): after a first CRC refusal the header is resent once; anything else faults
the sending context, but for CTX_GONE on a context that has already faulted, which is no further fault (R179). The state
answered, and the header to resend if any. -/
def rejectAt (b seq cause : Nat) (s : State) : Option Bytes × State :=
  let x := bindOf s b
  match x.window.find? fun e => e.1 == seq with
  | none => (none, s)
  | some (_, c, h) =>
    if cause = 1 && !x.crcRefused.contains seq then
      let s1 := setBind b (fun x => { x with crcRefused := x.crcRefused ++ [seq] }) s
      (some h, { s1 with mq := { s1.mq with resendCnt := satInc s.mq.resendCnt } })
    else if cause = 3 && !activeCtx (ctxOf s c) then (none, s)
    else (none, ctxFaultNoOp c 0x0B s)

/-- The first check of R145 that a header fails. -/
def hdrCause (s : State) (q src : Nat) (h : Bytes) : Option Nat :=
  let k := queueOf s q
  let x := ctxOf s (hdrCtx h)
  if crc32c (slice h 0 0x3C) != hdrCrc h then some 1
  else if !hdrRsvdOk h then some 2
  else if !activeCtx x then some 3
  else if x.tenant != hdrTenant h then some 4
  else if hdrStage h != k.stage || hdrPhase h != k.phase then some 5
  else if (match k.bound with
      | some (a, _) => a != src
      | none => true) || hdrHandle h != k.handle || hdrOff h % max (slotBytes k) 1 != 0 ||
      k.slots[slotOfHdr k h]? != some .granted || slotBytes k < hdrLen h then some 6
  else none

/-- Was the context torn down in the last 10 ms (R145 CTX_GONE)? -/
def justGone (s : State) (c : Nat) : Bool := s.mq.gone.any fun g => g.1 == c && decide (s.now ≤ g.2 + 10000000)

/-- Refuse a header (R145): counter, REJECT, event, slot and seq. -/
def refuseHdr (q src b cause : Nat) (h : Bytes) (s : State) : State :=
  let k := queueOf s q
  let ours := k.bound == some (src, b)
  let seq := hdrSeq h
  let first := cause = 1 && ours && !k.crcOnce.contains seq
  let s1 := { s with mq := { s.mq with refuseCnt := satInc s.mq.refuseCnt } }
  let s2 := if cause = 1 then raise { code := 0x0301, source := q / 64, detail := [(1, q), (1, b), (4, seq)] } s1
    else if cause = 3 && justGone s (hdrCtx h) then s1
    else raise { code := 0x0302, source := q / 64, detail := [(1, cause)] } s1
  let s3 := if first then setQueue q (fun k => { k with crcOnce := k.crcOnce ++ [seq] }) s2
    else
      let s3 := if ours && k.slots[slotOfHdr k h]? == some .granted then freeSlotOf q (slotOfHdr k h) s2 else s2
      if ours then drainAll q (setQueue q (fun k => { k with doneSeqs := k.doneSeqs ++ [seq] }) s3) else s3
  if src = s.dvl.addr then (rejectAt b seq cause s3).2 else send src (.mqReject b seq cause) s3

/-- A header arrives at queue q from binding b of module src (R145, R148). -/
def headerAt (q src b : Nat) (h : Bytes) (s : State) : State :=
  let k := queueOf s q
  let ours := k.bound == some (src, b)
  let seq := hdrSeq h
  let sound := crc32c (slice h 0 0x3C) == hdrCrc h
  if ours && sound && !seqLe k.nextSeq seq then sendCredit q (setQueue q (fun k => { k with ackPend := true }) s)
  else match hdrCause s q src h with
    | some cause => refuseHdr q src b cause h s
    | none =>
      if seq = k.nextSeq then
        drainAll q (postEntry q h (slotOfHdr k h) (setQueue q (fun k => { k with nextSeq := seqNext k.nextSeq }) s))
      else if k.early.any fun e => e.1 == seq then s
      else setQueue q (fun k => { k with early := k.early ++ [(seq, h)] }) s

/-- A block write lands in a granted slot of a queue buffer (R155); a write to anything else is dropped. -/
def blockAt (handle off : Nat) (data : Bytes) (s : State) : State :=
  match findObj s handle with
  | some o => match o.role with
    | .queueBuf q =>
      let k := queueOf s q
      if k.handle == handle && k.slots[off / max (slotBytes k) 1]? == some .granted &&
          decide (off % max (slotBytes k) 1 + data.length ≤ slotBytes k) then writeObj handle off data false s else s
    | _ => s
  | none => s

/-- Hand a header to the link of binding b: it takes the binding's next seq and its place in the resend window (R147,
R155). -/
def handToLink (b c : Nat) (h : Bytes) (s : State) : State :=
  let x := bindOf s b
  let h1 := sealHdr (setLE h 0x28 4 x.seq)
  let s1 := setBind b (fun x => { x with window := x.window ++ [(x.seq, c, h1)], seq := seqNext x.seq }) s
  if x.destAddr = s.dvl.addr then headerAt x.destQueue s.dvl.addr b h1 s1
  else send x.destAddr (.mqHeader x.destQueue b h1) s1

/-! ### MQ.* commands (R160-R163) -/

/-- The buffer object of a queue (R146): GDDR7 only, pinned, homed on the queue's die. Its kind is the model's choice
(log entry 17). -/
def queueObj (s : State) (q size : Nat) : Obj :=
  { Obj.free with size := size, scratch := true, home := q / 64, ownerFn := s.host.ownerPf, state := .resident,
                  role := .queueBuf q }

def doMqCreate (src : Src) (p : Bytes) (s : State) : State :=
  start ⟨src, 0x0301, .mqCreate src p, true, [(0x0A, 2), (0x10, 32)], p⟩ (fun s =>
    let want := getLE p 0 2
    let depth := getLE p 2 2
    let sb := getLE p 4 4
    let st := getLE p 8 2
    let prod := getLE p 0x0C 4
    let q := if want = 0xFFFF then ((List.range 256).find? fun q => (queueOf s q).state == 0).getD 256 else want
    if (want != 0xFFFF && 255 < want) || depth = 0 || 1024 < depth || sb < 65536 || 64 * mib < sb || sb % 65536 != 0 ||
        st / 2 ^ 14 != 0 || prod / 2 ^ 17 != 0 then complete src sBadField [] s
    else if q = 256 then complete src sNoResource [] s
    else if (queueOf s q).state != 0 then complete src 0x0305 [] s
    else if gddrFree s < depth * sb then complete src sNoResource [] s
    else
      let r := newObj (queueObj s q (depth * sb)) s
      complete src sOk [q, r.1 % 2 ^ 32, r.1 / 2 ^ 32] (setQueue q (fun _ => { Queue.reset with
        state := 1, phase := bits st 13 12, stage := st % 4096, depth := depth, slotUnits := sb / 65536,
        producer := prod, handle := r.1, slots := List.replicate depth .free }) r.2)) s

def doMqDestroy (src : Src) (p : Bytes) (s : State) : State :=
  start ⟨src, 0x0302, .mqDestroy src p, true, [(2, 46)], p⟩ (fun s =>
    let q := getLE p 0 2
    let k := queueOf s q
    if 255 < q then complete src sBadField [] s
    else if k.state = 0 then complete src sOk [] s
    else if k.state = 2 then complete src 0x0302 [] s
    else if !k.entries.isEmpty then complete src 0x0303 [] s
    else if bankUsesQueue (activeBank s) q || bankUsesQueue (shadowBank s) q then complete src sBusy [] s
    else complete src sOk [] (setQueue q (fun _ => Queue.reset) (dropObj k.handle s))) s

def doMqQuery (src : Src) (p : Bytes) (s : State) : State :=
  start ⟨src, 0x0305, .mqQuery src p, true, [(2, 46)], p⟩ (fun s =>
    let q := getLE p 0 2
    if 255 < q then complete src sBadField [] s
    else complete src sOk [mqOcc (queueOf s q), (mqCfg (queueOf s q)).headD 0] s) s

def doMqPurge (src : Src) (p : Bytes) (s : State) : State :=
  start ⟨src, 0x0306, .mqPurge src p, false, [(2, 8), (0x0C, 36)], p⟩ (fun s =>
    let q := getLE p 0 2
    let c := getLE p 0x0A 2
    if c = 0xFFFF && !srcOwner s src then complete src sDenied [] s
    else if 255 < q || (4095 < c && c != 0xFFFF) then complete src sBadField [] s
    else if c != 0xFFFF && !(srcOwner s src) && ((ctxOf s c).state == .free || (ctxOf s c).fn != srcFn s src) then
      complete src sJobUnknown [] s
    else
      let r := purgeQueue q (if c = 0xFFFF then none else some c) s
      complete src sOk [r.1] r.2) s

/-- The header MQ.POST makes (R163). -/
def postHdr (s : State) (k : Queue) (p : Bytes) (slot : Nat) : Bytes :=
  let c := getLE p 2 2
  let len := getLE p 0x14 4
  sealHdr (toLE 4 (ctxOf s (c % 4096)).tenant ++ toLE 2 c ++ toLE 2 (k.stage + k.phase * 4096) ++ slice p 4 4 ++
    slice p 8 2 ++ toLE 2 (getLE p 0x0A 2 + if len = 0 then 2 else 0) ++ toLE 8 k.handle ++
    toLE 4 (slot * slotBytes k) ++ toLE 4 len ++ slice p 0x0C 2 ++ toLE 2 0x0FFF ++ toLE 4 s.dvl.addr ++
    toLE 4 k.posted ++ slice p 0x10 4 ++ List.replicate 16 0)

/-- Copy the block of an MQ.POST into a free slot, the lowest, and post it; the queue and the context as they are when
its source is resident (R163). -/
def postBlock (src : Src) (p : Bytes) (s : State) : State :=
  let q := getLE p 0 2
  let k := queueOf s q
  let x := ctxOf s (getLE p 2 2 % 4096)
  let len := getLE p 0x14 4
  if k.state = 0 || slotBytes k < len then complete src sBadField [] s
  else if x.state == .free || x.fn != srcFn s src then complete src sDenied [] s
  else if k.state = 2 then complete src 0x0302 [] s
  else match slotsIn k .free with
    | [] => complete src 0x0301 [] s
    | slot :: _ =>
      let s1 := writeObj k.handle (slot * slotBytes k) (objBytes s (getLE p 0x18 8) (getLE p 0x20 8) len) false s
      complete src sOk [] (postEntry q (postHdr s k p slot) slot s1)

def doMqPost (src : Src) (p : Bytes) (s : State) : State :=
  start ⟨src, 0x0307, .mqPost src p, false, [(0x0E, 2), (0x28, 8)], p⟩ (fun s =>
    let q := getLE p 0 2
    let k := queueOf s q
    let x := ctxOf s (getLE p 2 2 % 4096)
    let len := getLE p 0x14 4
    let h := getLE p 0x18 8
    if 255 < q || 1 < getLE p 0x0A 2 || 2 ^ 23 ≤ getLE p 0x10 4 || k.state = 0 || slotBytes k < len then
      complete src sBadField [] s
    else if x.state == .free || x.fn != srcFn s src then complete src sDenied [] s
    else if k.state = 2 then complete src 0x0302 [] s
    else if (slotsIn k .free).isEmpty then complete src 0x0301 [] s
    else if len = 0 then postBlock src p s
    else match cmdObj s src h 1 with
      | .error st => complete src st [] s
      | .ok o =>
        if o.size < getLE p 0x20 8 + len then complete src 0x0703 [] s
        else if poisonedIn o (getLE p 0x20 8) len then complete src 0x0704 [] s
        else if inFlash o then await src (.mqPost h) (beginPromotion h s)
        else postBlock src p (cancelDemotion h s)) s

/-- PROMOTION_COMMIT (R300), with the posts that waited for their source (R163). -/
def promoteAndPost (h : Nat) (lost : List Nat) (s : State) : State :=
  let s1 := doPromotionCommit h lost s
  (s.host.outst.filter fun o => o.wait == .mqPost h).foldl (fun s o => match o.cmd with
    | .mqPost src p => postBlock src p s
    | _ => s) s1

/-- A grant for a binding: every slot the queue has free becomes a credit (R147). -/
def grantSlots (q src b : Nat) (s : State) : Grant × State :=
  let k := queueOf s q
  (⟨slotsIn k .free, slotBytes k, k.handle⟩,
   setQueue q (fun k => { k with
     state := 2, bound := some (src, b), nextSeq := 0, doneSeqs := [], crcOnce := [], early := [], creditPend := []
     slots := k.slots.map fun t => if t = .free then .granted else t }) s)

/-- Does the receiver accept a bind (R147)? -/
def mayBind (s : State) (q src destStage : Nat) : Bool :=
  let k := queueOf s q
  k.state == 1 && k.producer == src && k.stage == destStage

/-- The sender's binding becomes ACTIVE, or IDLE when refused; MQ.BIND completes (R162), and an MQ.UNBIND that waited
for the attempt goes on. -/
def granted (b : Nat) (g : Option Grant) (s : State) : State :=
  if (bindOf s b).state != 1 then s
  else
    let closing := s.host.outst.any fun o => o.wait == .unbind b
    match g with
    | some g =>
      let s1 := setBind b (fun x => { x with
        state := if closing then 3 else 2, credits := g.slots, slotBytes := g.slotBytes, handle := g.handle }) s
      let s2 := completeWaits (· == .bind b) sOk [g.slots.length, g.slotBytes] s1
      if closing then finishUnbind b s2 else s2
    | none =>
      completeWaits (· == .unbind b) sOk [] (completeWaits (· == .bind b) 0x0304 [] (setBind b (fun _ => Binding.reset) s))

def doMqBind (src : Src) (p : Bytes) (s : State) : State :=
  start ⟨src, 0x0303, .mqBind src p, true, [(0x0C, 36)], p⟩ (fun s =>
    let b := getLE p 0 1
    let ports := getLE p 1 1
    let q := getLE p 2 2
    let dest := getLE p 4 4
    let ss := getLE p 8 2
    let ds := getLE p 0x0A 2
    if ports = 0 || 4 < ports || 255 < q || 2 ^ 17 ≤ dest || 4096 ≤ ss || 4096 ≤ ds then complete src sBadField [] s
    else if (bindOf s b).state != 0 then complete src 0x0302 [] s
    else if dest != s.dvl.addr && (candidates s dest false).length < ports then complete src 0x0306 [] s
    else
      let s1 := await src (.bind b) (setBind b (fun _ => { Binding.reset with
        state := 1, ports := ports, destQueue := q, destStage := ds, destAddr := dest, srcStage := ss,
        loc := dest == s.dvl.addr }) s)
      if dest = s.dvl.addr then
        if mayBind s1 q dest ds then
          let r := grantSlots q dest b s1
          granted b (some r.1) r.2
        else granted b none s1
      else send dest (.mqBind q b ss ds) s1) s

/-- Does a loaded jig name binding b (R162): in an entry, or in the queue word of a SEND or GEMM_SEND? -/
def bankUsesBinding (bank : Tab Bytes) (b : Nat) : Bool :=
  (bankImages bank).any fun i =>
    (imgEntryList i).any (fun e => entOutB e == some b) ||
      (imgRecords i).any fun d => (getLE d 0 1 == 0x11 && getLE d 0x10 1 == b) || (getLE d 0 1 == 2 && getLE d 0x24 1 == b)

def doMqUnbind (src : Src) (p : Bytes) (s : State) : State :=
  start ⟨src, 0x0304, .mqUnbind src p, true, [(1, 47)], p⟩ (fun s =>
    let b := getLE p 0 1
    let x := bindOf s b
    if x.state = 0 then complete src sOk [] s
    else if bankUsesBinding (activeBank s) b || bankUsesBinding (shadowBank s) b then complete src sBusy [] s
    else if x.state = 2 then
      let s1 := await src (.unbind b) (setBind b (fun x => { x with state := 3 }) s)
      if x.window.isEmpty then finishUnbind b s1 else s1
    else await src (.unbind b) s) s

/-! ### Queue messages (R145, R147, R148, R341) -/

def doMqBindMsg (h : MsgHdr) (q b srcStage destStage : Nat) (s : State) : State := once h (fun s =>
  if closeFlag ≤ srcStage then
    if (queueOf s q).bound == some (h.src, b) then releaseQueue q s else s
  else if mayBind s q h.src destStage && decide (srcStage < 4096) then
    let r := grantSlots q h.src b s
    send h.src (.mqGrant b (some r.1)) r.2
  else send h.src (.mqGrant b none) s) s

/-- A grant counts when it comes from the binding's destination. -/
def doMqGrant (h : MsgHdr) (b : Nat) (g : Option Grant) (s : State) : State :=
  if (bindOf s b).destAddr = h.src then granted b g s else s

def doMqBlock (h : MsgHdr) (handle off : Nat) (data : Bytes) (s : State) : State :=
  match findObj s handle with
  | some o => match o.role with
    | .queueBuf q => match (queueOf s q).bound with
      | some (a, _) => if a = h.src then blockAt handle off data s else s
      | none => s
    | _ => s
  | none => s

def doMqHeader (h : MsgHdr) (q b : Nat) (hdr : Bytes) (s : State) : State := headerAt q h.src b (slice hdr 0 64) s

def doMqCredit (h : MsgHdr) (b : Nat) (slots : List Nat) (acked : Option Nat) (s : State) : State :=
  if (bindOf s b).destAddr = h.src && (bindOf s b).state != 0 then creditAt b slots acked s else s

def doMqReject (h : MsgHdr) (b seq cause : Nat) (s : State) : State :=
  if (bindOf s b).destAddr = h.src then
    let r := rejectAt b seq cause s
    match r.1 with
    | some hdr => send h.src (.mqHeader (bindOf s b).destQueue b hdr) r.2
    | none => r.2
  else s

/-- MQ_SYNC (R341): the sender adopts the receiver's free slots, its highest seq and the seqs it refused. -/
def doMqSync (h : MsgHdr) (b : Nat) (free : List Nat) (posted : Option Nat) (refused : List Nat) (s : State) : State := once h (fun s =>
  if (bindOf s b).destAddr = h.src && (bindOf s b).state != 0 then
    let faulted := refused.foldl (fun s q => (rejectAt b q 6 s).2) s
    creditAt b [] posted (setBind b (fun x => { x with credits := free, reclaim := [] }) faulted)
  else s) s

/-- CREDIT_FLUSH_TIMER (R147): at most 1 µs after the oldest unreported slot or posting. -/
def doCreditFlushTimer (q : Nat) (s : State) : State :=
  let k := queueOf s q
  if k.bound.isSome && (!k.creditPend.isEmpty || k.ackPend) then sendCredit q s else s

/-- MQ_BIND_TIMEOUT (R162): no answer within 10 ms ends the attempt with S_MQ_REFUSED. -/
def doMqBindTimeout (b : Nat) (s : State) : State := granted b none s

/-! ### Rows of the table -/

def execMqCreate (src : Src) (p : Bytes) (s : State) : Host.Outcome State Fault Refusal :=
  .next (settle s (doMqCreate src p s))

def execMqDestroy (src : Src) (p : Bytes) (s : State) : Host.Outcome State Fault Refusal :=
  .next (settle s (doMqDestroy src p s))

def execMqBind (src : Src) (p : Bytes) (s : State) : Host.Outcome State Fault Refusal :=
  .next (settle s (doMqBind src p s))

def execMqUnbind (src : Src) (p : Bytes) (s : State) : Host.Outcome State Fault Refusal :=
  .next (settle s (doMqUnbind src p s))

def execMqQuery (src : Src) (p : Bytes) (s : State) : Host.Outcome State Fault Refusal :=
  .next (settle s (doMqQuery src p s))

def execMqPurge (src : Src) (p : Bytes) (s : State) : Host.Outcome State Fault Refusal :=
  .next (settle s (doMqPurge src p s))

def execMqPost (src : Src) (p : Bytes) (s : State) : Host.Outcome State Fault Refusal :=
  .next (settle s (doMqPost src p s))

def execPromotionCommit (handle : Nat) (lost : List Nat) (s : State) : Host.Outcome State Fault Refusal :=
  .next (settle s (promoteAndPost handle lost s))

def execMqBindMsg (h : MsgHdr) (queue binding srcStage destStage : Nat) (s : State) : Host.Outcome State Fault Refusal :=
  .next (settle s (doMqBindMsg h queue binding srcStage destStage s))

def execMqGrant (h : MsgHdr) (binding : Nat) (g : Option Grant) (s : State) : Host.Outcome State Fault Refusal :=
  .next (settle s (doMqGrant h binding g s))

def execMqBlock (h : MsgHdr) (handle off : Nat) (data : Bytes) (s : State) : Host.Outcome State Fault Refusal :=
  .next (settle s (doMqBlock h handle off data s))

def execMqHeader (h : MsgHdr) (queue binding : Nat) (hdr : Bytes) (s : State) : Host.Outcome State Fault Refusal :=
  .next (settle s (doMqHeader h queue binding hdr s))

def execMqCredit (h : MsgHdr) (binding : Nat) (slots : List Nat) (acked : Option Nat) (s : State) :
    Host.Outcome State Fault Refusal :=
  .next (settle s (doMqCredit h binding slots acked s))

def execMqReject (h : MsgHdr) (binding seq cause : Nat) (s : State) : Host.Outcome State Fault Refusal :=
  .next (settle s (doMqReject h binding seq cause s))

def execMqSync (h : MsgHdr) (binding : Nat) (free : List Nat) (posted : Option Nat) (refused : List Nat) (s : State) :
    Host.Outcome State Fault Refusal :=
  .next (settle s (doMqSync h binding free posted refused s))

def execCreditFlushTimer (queue : Fin 256) (s : State) : Host.Outcome State Fault Refusal :=
  .next (settle s (doCreditFlushTimer queue.val s))

def execMqBindTimeout (binding : Fin 256) (s : State) : Host.Outcome State Fault Refusal :=
  .next (settle s (doMqBindTimeout binding.val s))

end Sys2Proof.Machine
end

