-- ==== Sys2Proof/Machine/Jobs.lean ====
section
/-! DEFINITION. Contexts and the job service (chapter 6): admission, deadlines, control and completion of jobs, the
veneer store, and the JOB.*, CTX.* and VNR.* commands. -/

namespace Sys2Proof.Machine

/-! ### What a bank says about a pipeline (R184, R198) -/

/-- The bank that speaks for pipelines: the active one, or the shadow while none is active. -/
def planBank (s : State) : Tab Bytes := if s.jig.running then activeBank s else shadowBank s

/-- The stage a slot works for (log entry 36): that of its input queue, else the first that the image lists for the
pipeline of its tenant row, else the first it lists. -/
def entStage (b e : Bytes) : Nat :=
  let rs := imgStages b
  let pipe := ((imgPipes b).find? fun r => r.rows.contains (entRow e)).map (·.pipeline)
  let own := (entInQ e).bind fun q => rs.find? fun r => r.fwdQ == some q || r.bwdQ == some q
  ((own.orElse fun _ => rs.find? fun r => some r.pipeline == pipe).orElse fun _ => rs.head?).elim 0 (·.stage)

/-- The tiles that host a stage, ascending: those of the slots that take from its queues, or where it has none, of the slots
that work for it. The lowest gives the home die of its objects (R290), and each has a slice of its tile images (R172). -/
def stageTiles (s : State) (stage : Nat) : List Nat :=
  let tilesOf (p : Bytes → Bytes → Bool) : List Nat := (bankImages (planBank s)).flatMap fun i =>
    (imgEntryList i).flatMap fun e => if p i e then tsetTiles i (entTset e) else []
  let qs := (hostedStages s).flatMap fun r => if r.stage = stage then r.fwdQ.toList ++ r.bwdQ.toList else []
  let own := tilesOf fun _ e => (entInQ e).any qs.contains
  let all := if own.isEmpty then tilesOf fun i e => entStage i e == stage else own
  sortBy (fun a b : Nat => decide (a ≤ b)) all.eraseDups

def imgPipe (b : Bytes) (pipe : Nat) : Option PipeRec := (imgPipes b).find? fun r => r.pipeline == pipe

/-- Row-frames per step of a pipeline: the sum over the bank's images (R198). -/
def rowFramesPerStep (b : Tab Bytes) (pipe : Nat) : Nat :=
  ((bankImages b).map fun i => ((imgPipe i pipe).map (·.rowFrames)).getD 0).foldl (· + ·) 0

/-- Tenant row-frames of a pipeline per cycle; U is this over the cycle's frames (R198). -/
def rowFramesPerCycle (b : Tab Bytes) (pipe : Nat) : Nat :=
  ((bankImages b).map fun i => ((imgPipe i pipe).map fun r => r.rows.length * imgFrames i).getD 0).foldl (· + ·) 0

def pipeM (b : Tab Bytes) (pipe : Nat) : Option Nat := (bankImages b).findSome? fun i => (imgPipe i pipe).map (·.m)

def stageHome (s : State) (stage : Nat) : Nat := (stageTiles s stage).headD 0 / 64

/-! ### Contexts ending (R178, R188, R190) -/

/-- Version entries lose their current designation, and with it one reference each (R173). -/
def dropCurrent (c : Nat) (s : State) : State :=
  setCtx c (fun x => { x with vers := x.vers.map fun t => (t.1, t.2.map fun v =>
    if v.current then { v with current := false, refs := v.refs - 1 } else v) }) s

/-- A context ends by cancel, deadline or completion (R190): purged, its versions no longer current, DONE. -/
def endCtx (c : Nat) (s : State) : State :=
  let s1 := dropCurrent c (purgeAll c { s with
    mq := { s.mq with gone := (c, s.now) :: s.mq.gone.filter fun g => g.1 != c }, jig := { s.jig with retest := true } })
  setCtx c (fun x => { x with state := .done, holds := [], acts := [], inputs := [] }) (dropInflight c s1)

/-- Free a DONE context (R190): its objects go, its ID is unused. -/
def freeCtx (c : Nat) (s : State) : State := setCtx c (fun _ => Ctx.free) (releaseObjs c (fun _ => true) s)

/-! ### Members: reserve and commit (R183) -/

def activeCtxs (s : State) : List (Nat × Ctx) := s.vnr.ctxs.filter fun e => activeCtx e.2

/-- The lowest context ID not in use or reserved (log entry 22). -/
def freeCtxId (s : State) : Option Nat :=
  let used := (s.vnr.ctxs.filter fun e => e.2.state != .free || e.2.job != 0).map (·.1)
  ((List.range (min (used.length + 1) 4096)).find? fun c => !used.contains c)

/-- Stages of a pipeline this module hosts. -/
def pipeStages (s : State) (pipe : Nat) : List StageRec :=
  (hostedStages s).filter fun r => r.pipeline == pipe && !isStandby (hostedStages s) r

/-- Contexts of a pipeline here that are not DONE, reservations among them. -/
def countCtxs (s : State) (pipe : Nat) : Nat :=
  (s.vnr.ctxs.filter fun e =>
    (activeCtx e.2 || e.2.state == .faulted || (e.2.state == .free && e.2.job != 0)) && e.2.pipeline == pipe).length

/-- Room for one context more on every hosted stage (R183): under its resident-context limit (R142), and in its partition
(R141). -/
def ctxRoom (s : State) (pipe : Nat) : Bool :=
  let n := countCtxs s pipe
  let parts := ((layoutImage s).map imgPartitions).getD 1
  (pipeStages s pipe).all fun r => decide (n < r.resLimit) &&
    decide (footprint s { r with resLimit := n + 1 } ≤ partitionBytes s parts)

/-- Bytes of GDDR7 that a context's objects for a stage take (R297). -/
def stageBytes (s : State) (c stage : Nat) : Nat :=
  ((liveObjs s).map fun e =>
    if resident e.2 && e.2.ownerCtx == some c && (e.2.role == .version c stage || e.2.role == .training c stage) then
      gddrBytes e.2 else 0).foldl (· + ·) 0

/-- Can objects of these sizes be made for a context's stage (R183, R175)? They lie within the bytes per context that the
image declares (R297), and take GDDR7, context store and object slots (log entry 112). -/
def stageFits (s : State) (c : Nat) (r : StageRec) (sizes : List Nat) : Bool :=
  let n := (sizes.map fun z => gddrBytes { Obj.free with size := z }).foldl (· + ·) 0
  decide (stageBytes s c r.stage + n ≤ r.ctxMib * mib) && decide (n ≤ gddrFree s) &&
    decide ((sizes.map fun z => flashBytes { Obj.free with size := z }).foldl (· + ·) 0 ≤ flashFree s) &&
    decide ((liveObjs s).length + sizes.length ≤ 4194303)

/-- Reserve a context for a job being admitted: its ID, or none. -/
def memberReserve (job tenant fn deadline seed steps pipe flags mb tag : Nat) (s : State) : Option Nat × State :=
  match freeCtxId s with
  | none => (none, s)
  | some c =>
    if !ctxRoom s pipe then (none, s)
    else (some c, setCtx c (fun _ => { Ctx.free with
      job := job, tenant := tenant, fn := fn, deadline := deadline, seed := seed, steps := steps, pipeline := pipe
      flags := flags, mbPerStep := mb, jobTag := tag, rowFrames := rowFramesPerStep (planBank s) pipe }) s)

/-- OPT_ADAMW descriptors of a bank state the shard size S (R262); the largest is the stage's (log entry 21). -/
def shardElems (s : State) : Nat :=
  let kinds (i : Bytes) : List Nat :=
    (List.range (imgProgLen i / 64)).filterMap fun k =>
      let d := slice i (imgProgOff i + 64 * k) 64
      if getLE d 0 1 = 0x0C then some (getLE d 0x1C 4) else none
  ((bankImages (activeBank s) ++ bankImages (shadowBank s)).flatMap kinds).foldl max 0

/-- A new object of a context, with its content (durable from creation, R300). -/
def ctxObject (c : Nat) (role : ObjRole) (home size : Nat) (content : Bytes) (s : State) : Nat × State :=
  let m := memWrite [] 0 content
  newObj { Obj.free with
    size := max size 1, home := home, ownerFn := (ctxOf s c).fn, ownerCtx := some c, state := .resident, role := role,
    mem := m, durable := m, lastAccess := s.now } s

/-- The master array of R259: the exact FP32 values of a working copy in BF16, or in MXFP8 with its trailing scales. -/
def masterOf (work : Bytes) (n : Nat) : Bytes :=
  if n = 0 then []
  else if work.length < 2 * n then
    (List.range n).flatMap fun i =>
      toLE 4 (load32 0x07 (elemCode 0x07 work i) (getLE work ((n + 63) / 64 * 64 + i / 32) 1))
  else (List.range n).flatMap fun i => toLE 4 (load32 0x02 (elemCode 0x02 work i) 0)

/-- Rank and member count of the collective that gathers a working copy in the UPDATE phase (R257): a BARRIER with NONE in
the images of the bank; (0, 1) where there is none. -/
def updateRank (s : State) : Nat × Nat :=
  ((bankImages (planBank s)).findSome? fun i => (List.range (imgProgLen i / 64)).findSome? fun k =>
    let d := slice i (imgProgOff i + 64 * k) 128
    if getLE d 0 1 = 0x16 && getLE d 0x69 1 = 3 && bit (imgPhases i) 3 then
      some (getLE d 0x58 4 % 2 ^ 18, max (getLE d 0x54 4 % 2 ^ 18) 1) else none).getD (0, 1)

/-- This member's shard of n elements of a state record for a whole stage (R259): its elements and t0. -/
def shardOf (s : State) (b : Bytes) (n : Nat) : Bytes :=
  let all := getLE b 4 4
  let r := updateRank s
  let off := r.1 * all / r.2
  slice b 0 4 ++ toLE 4 n ++ slice b 8 56 ++
    ((List.range 3).flatMap fun k => slice b (64 + 4 * (all * k + off)) (4 * n))

/-- Sizes of the training objects of a stage with a shard of n elements: state, error, gradient (R258, R259). -/
def trainingSizes (n : Nat) : List Nat := [64 + 12 * n, 2 * n, fmtBytes 0x08 n + 64 + n / 32]

/-- Objects a member makes for one stage at commit: version v0 (R183), then state, error and gradient (R258, R259). -/
def commitStage (c v0 : Nat) (init : List (Nat × Nat × Bytes)) (r : StageRec) (s : State) : State :=
  let home := stageHome s r.stage
  let mine := init.filter fun i => i.1 == r.stage
  let made := (mine.filter fun i => decide (i.2.1 < 64)).foldl (fun (acc : List (Nat × Nat) × State) i =>
    let x := ctxObject c (.version c r.stage) home i.2.2.length i.2.2 acc.2
    (acc.1 ++ [(i.2.1, x.1)], x.2)) ([], s)
  let s1 := setVer c r.stage v0 (fun _ => { Version.empty with state := 2, current := true, objects := made.1, refs := 1 })
    made.2
  let n := shardElems s1
  let work := ((mine.find? fun i => i.2.1 == 0).map (·.2.2)).getD []
  let rec80 := (mine.find? fun i => i.2.1 == 0x80).map (·.2.2)
  let state := match rec80 with
    | some b => shardOf s1 b n
    | none => toLE 4 0x54535855 ++ toLE 4 n ++ List.replicate 56 0 ++ masterOf work n ++ List.replicate (8 * n) 0
  let a := ctxObject c (.training c r.stage) home (64 + 12 * n) state s1
  let e := ctxObject c (.training c r.stage) home (2 * n) [] a.2
  let g := ctxObject c (.training c r.stage) home (fmtBytes 0x08 n + 64 + n / 32) [] e.2
  setCtx c (fun x => { x with
    stateObj := tset x.stateObj r.stage a.1, errObj := tset x.errObj r.stage e.1, gradObj := tset x.gradObj r.stage g.1 }) g.2

/-- Give a reservation back (R183). -/
def memberRelease (job : Nat) (s : State) : State :=
  { s with vnr := { s.vnr with ctxs := s.vnr.ctxs.filter fun e => !(e.2.job == job && e.2.state == .free) } }

/-- The reservation of a job, under the context ID that the lead assigns (R167; log entry 22); none where there is no
reservation, or another context has that ID. -/
def assignCtx (job c : Nat) (s : State) : Option State :=
  match s.vnr.ctxs.find? fun e => e.2.job == job && e.2.state == .free with
  | none => none
  | some (held, x) =>
    if held = c then some s
    else if (s.vnr.ctxs.any fun e => e.1 == c && (e.2.state != .free || e.2.job != 0)) || 4096 ≤ c then none
    else some (setCtx c (fun _ => x) (memberRelease job s))

/-- Can the objects of the first version and the training state of every hosted stage be made? -/
def commitFits (s : State) (c pipe : Nat) (init : List (Nat × Nat × Bytes)) : Bool :=
  (pipeStages s pipe).all fun r => stageFits s c r
    (((init.filter fun i => i.1 == r.stage && decide (i.2.1 < 64)).map fun i => i.2.2.length) ++ trainingSizes (shardElems s))

/-- Commit a reservation (R183 step 5): ADMITTED, with its peer map, its first version and its training state. A member
that cannot make the objects releases what it reserved. -/
def memberCommit (job c v0 : Nat) (peers : List (Nat × Nat × Nat)) (init : List (Nat × Nat × Bytes)) (hyper : Bytes)
    (s : State) : Bool × State :=
  match assignCtx job c s with
  | none => (false, memberRelease job s)
  | some s0 =>
    if !commitFits s0 c (ctxOf s0 c).pipeline init then (false, memberRelease job s0)
    else
      let s1 := setCtx c (fun x => { x with state := .admitted, peers := peers, admittedAt := s.now }) s0
      let s2 := (pipeStages s1 (ctxOf s1 c).pipeline).foldl (fun s r => commitStage c v0 init r s) s1
      let h := ctxObject c .plain (freeSlot s2 % 4) hyper.length hyper s2
      (true, { setCtx c (fun x => { x with hyper := h.1 }) h.2 with jig := { s.jig with retest := true } })

/-! ### The deadline test (R184) -/

/-- Row-frames remaining of a context's job. -/
def remaining (x : Ctx) : Nat := (x.steps - x.step) * x.rowFrames

/-- Replica groups of the map; a module with no map is its own group. -/
def mapGroups (s : State) : List (Nat × List Nat) :=
  match s.dvl.map with
  | none => [(0, [s.dvl.addr])]
  | some m =>
    let gs := sortBy (fun a b : Nat => decide (a ≤ b)) ((mapMods m).map (·.group)).eraseDups
    gs.map fun g => (g, groupMembers s g)

/-- Does a context here take rows of a replica group: the group of a job this module leads, its own for any other? -/
def ofGroup (s : State) (g : Nat × List Nat) (x : Ctx) : Bool := match jobOf s x.job with
  | some j => j.group == g.1
  | none => g.2.contains s.dvl.addr

/-- Jobs led here on a pipeline's rows of a group. -/
def ledJobs (s : State) (pipe g : Nat) : List Job :=
  s.vnr.jobs.filterMap fun e =>
    if e.2.pipeline = pipe && e.2.group = g && e.2.status.isNone && e.2.admission == .admitted then some e.2 else none

/-- The order of R184: deadlines, ties by job ID. -/
def dueLe (a b : Nat × Nat × Nat) : Bool := decide (a.1 < b.1) || (a.1 == b.1 && decide (a.2.1 ≤ b.2.1))

/-- Jobs on a pipeline's rows of a replica group as (deadline, job, row-frames remaining), in the order of R184: those
this module knows of (log entry 108). -/
def pipeLoad (s : State) (pipe g : Nat) : List (Nat × Nat × Nat) :=
  let grp := ((mapGroups s).find? fun x => x.1 == g).getD (g, [])
  sortBy dueLe (if grp.2.contains s.dvl.addr then
      (activeCtxs s).filterMap fun e =>
        if e.2.pipeline = pipe && ofGroup s grp e.2 then some (e.2.deadline, e.2.job, remaining e.2) else none
    else (ledJobs s pipe g).map fun j =>
      (j.deadline, j.id, (j.steps - j.stepsDone) * rowFramesPerStep (planBank s) pipe))

/-- Does a cumulative load fit before a deadline: sum ≤ 0.95 × U × (deadline − now) / T_f? -/
def loadFits (s : State) (b : Tab Bytes) (pipe sum deadline : Nat) : Bool :=
  decide (sum * 100 * cycleFrames b * bankFrameLen b ≤ 95 * rowFramesPerCycle b pipe * (deadline - s.now))

/-- The first job, in order, that fails the test. -/
def firstMiss (s : State) (b : Tab Bytes) (pipe : Nat) : Nat → List (Nat × Nat × Nat) → Option Nat
  | _, [] => none
  | sum, (d, j, r) :: rest =>
    if loadFits s b pipe (sum + r) d then firstMiss s b pipe (sum + r) rest else some j

/-- The earliest time a load fits. -/
def earliestFor (s : State) (b : Tab Bytes) (pipe sum : Nat) : Nat :=
  let den := 95 * rowFramesPerCycle b pipe
  s.now + (sum * 100 * cycleFrames b * bankFrameLen b + den - 1) / den

/-- The earliest deadline at which job `id` of d row-frames would be admitted (R184): after each prefix of the load that
passes the test, the earliest time its own sum fits, if with that time it keeps its place and every later job still fits.
A tie of deadlines goes by job ID. -/
def earliestDeadline (s : State) (b : Tab Bytes) (pipe id d : Nat) (load : List (Nat × Nat × Nat)) : Option Nat :=
  (List.range (load.length + 1)).findSome? fun k =>
    let pre := load.take k
    let post := load.drop k
    let sum := (pre.map (·.2.2)).foldl (· + ·) 0 + d
    let after := match pre.getLast? with
      | some x => if x.2.1 < id then x.1 else x.1 + 1
      | none => 0
    let t := max (earliestFor s b pipe sum) after
    let keeps := match post with
      | x :: _ => dueLe (t, id, d) x
      | [] => true
    if keeps && (firstMiss s b pipe 0 pre).isNone && (firstMiss s b pipe sum post).isNone then some t else none

/-! ### The lead -/

/-- Did an earlier job of a tenant leave retained objects on a member (R185), as the lead sees it: a result object here, or
a retained capture that names the member? -/
def leftObjects (s : State) (tenant m : Nat) : Bool :=
  (m == s.dvl.addr && s.vnr.jobs.any fun j => j.2.tenant == tenant && j.2.result != 0) ||
  s.ckp.retained.any fun r => (r.part.map (·.snap.tenant)) == some tenant &&
    (m == s.dvl.addr || r.members.any fun x => x.1 == m)

/-- Affinity of a member for a tenant's job (R185): its prefix cache resident 4, in the context store 2, retained objects
of an earlier job of the tenant 1. The prefix cache is an object of the lead, so no other member holds it (log entry
23). -/
def affinity (s : State) (tenant prefixH m : Nat) : Nat :=
  let p := match if m = s.dvl.addr then findObj s prefixH else none with
    | some o => if resident o then 4 else 2
    | none => 0
  p + b2n (leftObjects s tenant m)

/-- Contexts admitted on a member, as the lead sees them: all of its own, elsewhere those of the jobs it leads. -/
def admittedOn (s : State) (m : Nat) : Nat :=
  if m = s.dvl.addr then (activeCtxs s).length
  else (s.vnr.jobs.filter fun j => j.2.status.isNone && j.2.admission == .admitted && j.2.members.contains m).length

/-- Groups in the order of R185: by score, then by fewer admitted contexts, then by number. -/
def rankedGroups (s : State) (tenant prefixH : Nat) : List Nat :=
  let score (g : Nat × List Nat) : Nat := (g.2.map (affinity s tenant prefixH)).foldl (· + ·) 0
  let load (g : Nat × List Nat) : Nat := (g.2.map (admittedOn s)).foldl (· + ·) 0
  (sortBy (fun a b : Nat × List Nat =>
    if score a != score b then decide (score b < score a)
    else if load a != load b then decide (load a < load b)
    else decide (a.1 ≤ b.1)) (mapGroups s)).map (·.1)

/-- Members of a group, with the lead. -/
def membersOf (s : State) (g : Nat) : List Nat :=
  let l := ((mapGroups s).find? fun x => x.1 == g).map (·.2) |>.getD []
  if l.contains s.dvl.addr then l else s.dvl.addr :: l

/-- Words of JOB.WAIT on a DONE job (R189). -/
def jobWords (j : Job) (status : Nat) : List Nat :=
  if status = 0 then words64 j.result ++ words64 j.fingerprint ++ [j.stepsDone]
  else words64 j.lastCkp ++ [(if status = 0x0403 then j.cause else 0), 0, j.stepsDone]

/-- End a job at its lead (R188-R190): its status, the event, and every JOB.WAIT. -/
def finishJob (job status : Nat) (s : State) : State :=
  match jobOf s job with
  | none => s
  | some j =>
    if j.status.isSome then s
    else
      let c := (ctxOfJob s job)
      let ws := jobWords j status
      let s1 := setJob job (fun j => { j with status := some status }) s
      let s2 := raise { code := 0x0402, fn := some j.fn, ctx := c, tenant := j.tenant, job := job,
                        detail := [(8, j.jobTag), (2, status)] } { s1 with jig := { s1.jig with retest := true } }
      let s3 := completeWaits (· == .job job) status ws s2
      completeWaits (· == .cancel job) sOk [] s3

/-- A member's context is DONE: the lead counts it, and ends the job when every member has (R178, R190). -/
def memberDone (job member : Nat) (s : State) : State :=
  match jobOf s job with
  | none => s
  | some j =>
    let s1 := setJob job (fun j => { j with doneMembers := (member :: j.doneMembers).eraseDups }) s
    if j.members.all fun m => m == member || j.doneMembers.contains m then
      if j.cause != 0 then finishJob job 0x0403 s1
      else if j.deadlineCkp then finishJob job 0x0405 s1
      else if j.cancelling then finishJob job 0x0404 s1
      else s1
    else s1

/-- Tell the lead that this member's context is DONE. -/
def tellDone (job : Nat) (s : State) : State :=
  if job = 0 then s
  else if leadAt s job = s.dvl.addr then memberDone job s.dvl.addr s
  else send (leadAt s job) (.jobRsp (.done job)) s

/-- Queue an action for the next frame boundary on this module's context of a job; with no active bank it acts at once
(R190, R219; log entry 24). -/
def ctxActNow (c : Nat) (a : CtxAct) (s : State) : State :=
  let x := ctxOf s c
  match a with
  | .cancel => if activeCtx x then tellDone x.job (endCtx c s) else s
  | .hold r =>
    if activeCtx x then setCtx c (fun x => { x with
      holds := if x.holds.contains r then x.holds else x.holds ++ [r]
      heldFrom := if x.state = .held then x.heldFrom else x.state
      state := .held }) s else s
  | .resume r =>
    if x.state == .held then setCtx c (fun x =>
      let hs := x.holds.filter (· != r)
      { x with holds := hs, state := if hs.isEmpty then x.heldFrom else .held }) s else s

def ctxAct (job : Nat) (a : CtxAct) (s : State) : State :=
  match ctxOfJob s job with
  | none => s
  | some c =>
    if s.jig.running then setCtx c (fun x => { x with acts := x.acts ++ [a] }) s
    else ctxActNow c a { s with jig := { s.jig with retest := true } }

def holdCode : HoldReason → Nat
  | .command => 0
  | .divergence => 1
  | .shrink => 2
  | .veneerFull => 3
  | .moduleHold => 4
  | .timeout => 5
  | .restore => 6
  | .veneerOther => 7

def holdOf : Nat → HoldReason
  | 0 => .command
  | 1 => .divergence
  | 2 => .shrink
  | 3 => .veneerFull
  | 4 => .moduleHold
  | 5 => .timeout
  | 6 => .restore
  | _ => .veneerOther

/-- The lead notes a hold it orders on every member, or its end. -/
def noteHold (job : Nat) (r : HoldReason) (on : Bool) (s : State) : State :=
  setJob job (fun j => { j with holds := (if on then [r] else []) ++ j.holds.filter (· != r) }) s

/-- Hold or resume a job on every member (R190). -/
def holdJob (job : Nat) (r : HoldReason) (s : State) : State :=
  match jobOf s job with
  | none => s
  | some j => ctxAct job (.hold r) (sendAll (j.members.filter (· != s.dvl.addr)) (.jobCtl (.hold job (holdCode r)))
      (noteHold job r true s))

def resumeJob (job : Nat) (r : HoldReason) (s : State) : State :=
  match jobOf s job with
  | none => s
  | some j => ctxAct job (.resume r) (sendAll (j.members.filter (· != s.dvl.addr)) (.jobCtl (.resume job (holdCode r)))
      (noteHold job r false s))

/-- A member's veneer store is full for a job, or is so no longer (R176): the lead holds the job on every other member
while that is so, and ends that hold on a member when no other is full. -/
def leadFull (job member : Nat) (full : Bool) (s : State) : State :=
  match jobOf s job with
  | none => s
  | some j =>
    let now := (if full then [member] else []) ++ j.fullAt.filter (· != member)
    let others (l : List Nat) (x : Nat) : Bool := l.any (· != x)
    j.members.foldl (fun s x =>
      if others j.fullAt x = others now x then s
      else if x = s.dvl.addr then
        ctxAct job (if others now x then .hold .veneerOther else .resume .veneerOther) s
      else send x (.jobCtl (if others now x then .hold job (holdCode .veneerOther) else .resume job (holdCode .veneerOther))) s)
      (setJob job (fun j => { j with fullAt := now }) s)

/-- Tell the lead of a full store, or of its end. -/
def tellFull (job : Nat) (full : Bool) (s : State) : State :=
  if leadAt s job = s.dvl.addr then leadFull job s.dvl.addr full s
  else send (leadAt s job) (.jobCtl (if full then .hold job (holdCode .veneerFull) else .resume job (holdCode .veneerFull))) s

/-- Tell the leads of the jobs here that this module leaves the fleet (R373). -/
def announceLeaving (s : State) : State :=
  (activeCtxs s).foldl (fun s e =>
    if leadAt s e.2.job = s.dvl.addr then s else send (leadAt s e.2.job) (.jobCtl (.leaving e.2.job)) s) s

/-! ### Admission (R181-R185) -/

/-- Does a manifest give an object 0 for each of these stages (R182)? -/
def initCovers (manifest : Bytes) (stages : List Nat) : Bool :=
  stages.all fun st => (manifestInit manifest).any fun k => k.1 == st && k.2.1 == 0

/-- The limits of the manifest (R182), for a job on a pipeline: of the pipeline's stages, those hosted here. -/
def manifestOk (s : State) (f pipe h : Nat) : Bool :=
  let b := manifestBytes s h
  let owned (x : Nat) : Bool := match findObj s x with
    | some o => o.ownerFn == f
    | none => false
  let inits := manifestInit b
  owned h && decide (64 ≤ b.length) && getLE b 0 4 == 0x4E4D5855 && decide (1 ≤ getLE b 4 4) &&
  decide (getLE b 4 4 ≤ 262144) && decide (1 ≤ getLE b 8 4) && decide (getLE b 8 4 ≤ 16777215) &&
  decide (getLE b 0x0C 1 < 16) && zeroAt b [(0x0D, 3), (0x20, 32)] &&
  decide (64 + 16 * getLE b 4 4 + 32 * getLE b 8 4 ≤ b.length) &&
  (List.range (getLE b 4 4)).all (fun i => zeroAt b [(67 + 16 * i, 5)]) &&
  inits.all (fun i => owned i.2.2 && (decide (i.2.1 < 64) || i.2.1 == 0x80)) &&
  inits.all (fun i => inits.any fun k => k.1 == i.1 && k.2.1 == 0) &&
  inits.all (fun i => decide ((inits.filter fun k => k.1 == i.1 && k.2.1 == 0x80).length ≤ 1)) &&
  initCovers b ((pipeStages s pipe).map (·.stage)) &&
  owned (getLE b 0x10 8) && (getLE b 0x18 8 == 0 || owned (getLE b 0x18 8)) &&
  (manifestExt b).all fun e => owned e.1 && decide (e.2.1 + e.2.2.1 ≤ objSize s e.1)

/-- FP32 fields of a hyperparameter record: lr, beta1, beta2, eps, wd (R263). -/
def hyperField (b : Bytes) (rec_ k : Nat) : Nat := getLE b (64 + 32 * rec_ + 4 * k) 4

def finite32 (x : Nat) : Bool := decide (x % 2 ^ 31 < 0x7F800000)
/-- x < 0 (a negative zero is not). -/
def neg32 (x : Nat) : Bool := decide (2 ^ 31 < x)

/-- The limits of the hyperparameter object (R263). -/
def hyperOk (b : Bytes) : Bool :=
  let n := getLE b 4 4
  getLE b 0 4 == 0x50485855 && decide (1 ≤ n) && decide (n ≤ 256) && decide (getLE b 8 4 ≤ 16777215) &&
  zeroAt b [(0x0C, 52)] && decide (64 + 32 * n + 4 * getLE b 8 4 ≤ b.length) &&
  (List.range n).all fun r =>
    (List.range 5).all (fun k => finite32 (hyperField b r k)) && zeroAt b [(64 + 32 * r + 0x14, 12)] &&
    !neg32 (hyperField b r 0) && !neg32 (hyperField b r 3) &&
    !neg32 (hyperField b r 1) && lt32 (hyperField b r 1) 0x3F800000 &&
    !neg32 (hyperField b r 2) && lt32 (hyperField b r 2) 0x3F800000

/-- The largest hyp_sel of an OPT_ADAMW descriptor in the images of either bank (R263). -/
def maxHypSel (s : State) (pipe : Nat) : Nat :=
  ((bankImages (activeBank s) ++ bankImages (shadowBank s)).filter fun i => (imgPipe i pipe).isSome).foldl (fun m i =>
    ((List.range (imgProgLen i / 64)).map fun k =>
      let d := slice i (imgProgOff i + 64 * k) 64
      if getLE d 0 1 = 0x0C then getLE d 0x37 1 else 0).foldl max m) 0

/-- What the lead sends a member at commit: the content of the objects that the init records name, and the
hyperparameter object's. -/
def initOf (s : State) (manifest : Bytes) : List (Nat × Nat × Bytes) :=
  (manifestInit manifest).map fun i => (i.1, i.2.1, objBytes s i.2.2 0 (objSize s i.2.2))

def hyperOf (s : State) (manifest : Bytes) : Bytes :=
  let h := getLE manifest 0x10 8
  objBytes s h 0 (objSize s h)

/-- The job is admitted: JOB.SUBMIT or CKP.RESTORE completes with its ID and the lead's context. -/
def admitted (job : Nat) (s : State) : State :=
  let c := (ctxOfJob s job).getD 0
  completeWaits (fun w => w == .submit job || w == .restore job) sOk [job, c]
    { setJob job (fun j => { j with admission := .admitted, admittedAt := s.now }) s with
      jig := { s.jig with retest := true } }

/-- Forget a job that was not admitted. -/
def dropJob (job status : Nat) (words : List Nat) (s : State) : State :=
  completeWaits (fun w => w == .submit job || w == .restore job) status words
    { s with vnr := { s.vnr with jobs := s.vnr.jobs.filter fun e => e.1 != job } }

/-- Step 4 of R183 once every member has reserved: the deadline test for d row-frames, and what follows it. -/
def testThen (job d : Nat) (commit : Job → State → State) (s : State) : State :=
  match jobOf s job with
  | none => s
  | some j =>
    let b := planBank s
    let load := pipeLoad s j.pipeline j.group
    let miss := firstMiss s b j.pipeline 0 (sortBy dueLe ((j.deadline, job, d) :: load))
    if miss.isSome && !bit j.flags 2 then
      let s1 := memberRelease job (sendAll (j.members.filter (· != s.dvl.addr)) (.jobCtl (.release job)) s)
      match if rowFramesPerCycle b j.pipeline = 0 then none else earliestDeadline s b j.pipeline job d load with
      | some t => dropJob job 0x0401 (words64 t ++ [miss.getD 0]) s1
      | none =>
        let r := fresh s1
        let r2 := fresh r.2
        dropJob job 0x0401 [r.1, r2.1, miss.getD 0] r2.2
    else commit j s

/-- The peer map that a commit carries: (stage, address, context ID there). -/
def peersOf (j : Job) : List (Nat × Nat × Nat) := j.memberCtx.flatMap fun m => m.2.2.map fun st => (st, m.1, m.2.1)

/-- The context ID that the lead assigns on a member: the one that the member reserved (R167; log entry 22). -/
def ctxAt (j : Job) (m : Nat) : Nat := ((j.memberCtx.find? fun x => x.1 == m).map (·.2.1)).getD 0

/-- The members of a job that is not admitted give everything back. -/
def releaseAll (job : Nat) (others : List Nat) (s : State) : State :=
  memberRelease job (sendAll others (.jobCtl (.release job)) s)

/-- Step 5 of R183: the commit. The lead is a member of every group it may try, so where it cannot commit no group is
left. -/
def commitJob (job : Nat) (j : Job) (s : State) : State :=
  let mb := j.manifest
  let v0 := getLE mb 0x0C 1 % 16
  let init := initOf s j.manifest
  let hyp := hyperOf s j.manifest
  let others := j.members.filter (· != s.dvl.addr)
  let c := ctxAt j s.dvl.addr
  let r := memberCommit job c v0 (peersOf j) init hyp s
  if !r.1 then dropJob job sNoResource [] (releaseAll job others r.2)
  else
    let s2 := setJob job (fun j => { j with admission := .committing others }) (others.foldl (fun s m =>
      send m (.jobCtl (.commit job (ctxAt j m) v0 (peersOf j) init hyp)) s) r.2)
    let s3 := setCtx c (fun x => { x with manifest := j.manifest, prefixObj := getLE mb 0x18 8 }) s2
    if others.isEmpty then admitted job s3 else s3

/-- Every member has reserved: the stages of the pipeline are known, and the manifest has an object 0 for each (R182); then
steps 4 and 5 of R183. -/
def testAndCommit (job : Nat) (s : State) : State :=
  match jobOf s job with
  | none => s
  | some j =>
    if !initCovers j.manifest (j.memberCtx.flatMap (·.2.2)) then
      dropJob job sBadField [] (releaseAll job (j.members.filter (· != s.dvl.addr)) s)
    else testThen job (j.steps * rowFramesPerStep (planBank s) j.pipeline) (commitJob job) s

/-- Step 3 of R183 on one group: reserve here, and ask the other members. -/
def tryGroup (job : Nat) (s : State) : State :=
  match jobOf s job with
  | none => s
  | some j => match j.groupsLeft with
    | [] => dropJob job sNoResource [] s
    | g :: rest =>
      let ms := membersOf s g
      let r := memberReserve job j.tenant j.fn j.deadline j.seed j.steps j.pipeline j.flags j.mbPerStep j.jobTag s
      match r.1 with
      | none => dropJob job sNoResource [] s
      | some c =>
        let others := ms.filter (· != s.dvl.addr)
        let s1 := setJob job (fun j => { j with
          group := g, groupsLeft := rest, members := ms, admission := .reserving others
          memberCtx := [(s.dvl.addr, c, (pipeStages s j.pipeline).map (·.stage))] }) r.2
        let s2 := sendAll others (.jobCtl (.reserve job j.tenant j.fn j.deadline j.seed j.steps j.pipeline j.flags
          j.mbPerStep j.jobTag)) s1
        if others.isEmpty then testAndCommit job s2 else s2

/-- A member reserved: when all have, the deadline test and the commit follow (`next`). -/
def memberReserved (next : Nat → State → State) (job member c : Nat) (stages : List Nat) (s : State) : State :=
  match jobOf s job with
  | none => s
  | some j => match j.admission with
    | .reserving l =>
      let l' := l.filter (· != member)
      let s1 := setJob job (fun j => { j with
        admission := .reserving l', memberCtx := j.memberCtx ++ [(member, c, stages)] }) s
      if l'.isEmpty && l.contains member then next job s1 else s1
    | _ => s

/-- A member could not reserve or commit: everything reserved is released, and the next group is tried (R183). -/
def memberRefused (job member : Nat) (s : State) : State :=
  match jobOf s job with
  | none => s
  | some j =>
    if j.admission == .admitted then s
    else
      let s1 := sendAll (j.members.filter fun m => m != s.dvl.addr && m != member) (.jobCtl (.release job)) s
      let s2 := match ctxOfJob s1 job with
        | some c => freeCtx c (endCtx c s1)
        | none => memberRelease job s1
      tryGroup job s2

def memberCommitted (job member : Nat) (s : State) : State :=
  match jobOf s job with
  | none => s
  | some j => match j.admission with
    | .committing l =>
      let l' := l.filter (· != member)
      let s1 := setJob job (fun j => { j with admission := .committing l' }) s
      if l'.isEmpty && l.contains member then admitted job s1 else s1
    | _ => s

/-- The next job ID of this lead (R165). -/
def newJobId (s : State) : Nat := s.dvl.addr * 2 ^ 15 + (s.vnr.jobSerial + 1) % 2 ^ 15

/-- A job at its lead, before admission. -/
def blankJob (id fn : Nat) : Job where
  id := id
  fn := fn
  tenant := 0
  jobTag := 0
  pipeline := 0
  flags := 0
  deadline := 0
  admittedAt := 0
  seed := 0
  steps := 0
  mbPerStep := 0
  manifest := []
  group := 0
  members := []
  memberCtx := []
  admission := .reserving []
  groupsLeft := []
  status := none
  stepsDone := 0
  cause := 0
  causeMember := 0
  holds := []
  fullAt := []
  result := 0
  fingerprint := 0
  gathered := []
  lastCkp := 0
  cancelling := false
  deadlineCkp := false
  doneMembers := []
  finish := none
  risk := false
  calmTests := 0
  diverged := []
  collecting := none
  laterDiv := []
  asked := []
  collected := []
  repairing := []
  copied := 0
  finalLists := []
  timeouts := []
  ledgerGot := []
  restoring := none

def addJob (j : Job) (s : State) : State :=
  { s with vnr := { s.vnr with jobs := s.vnr.jobs ++ [(j.id, j)], jobSerial := s.vnr.jobSerial + 1 } }

/-- Contexts a function has on this module (R191 CTX.SHARE). -/
def fnContexts (s : State) (f : Nat) : Nat :=
  (s.vnr.ctxs.filter fun e => (e.2.state != .free || e.2.job != 0) && e.2.fn == f).length

def doJobSubmit (src : Src) (p : Bytes) (s : State) : State :=
  start ⟨src, 0x0401, .jobSubmit src p, false, [(3, 1), (5, 1), (0x26, 2)], p⟩ (fun s =>
    let f := srcFn s src
    let tenant := getLE p 0 3
    let pipe := getLE p 4 1
    let flags := getLE p 6 2
    let man := getLE p 0x10 8
    let tag := getLE p 0x28 8
    let same := s.vnr.jobs.find? fun j => j.2.fn == f && j.2.tenant == tenant && j.2.jobTag == tag
    if 15 < flags then complete src sBadField [] s else
    match same with
    | some (id, _) => complete src sOk [id, (ctxOfJob s id).getD 0] s
    | none =>
      if getLE p 0x20 4 = 0 || pipeM (planBank s) pipe != some (getLE p 0x24 2) || !manifestOk s f pipe man ||
          !hyperOk (hyperOf s (manifestBytes s man)) || getLE (hyperOf s (manifestBytes s man)) 4 4 ≤ maxHypSel s pipe ||
          (bit flags 0 && decide ((mapGroups s).length < 3)) then complete src sBadField [] s
      else if (fnOf s f).maxCtx ≤ fnContexts s f then complete src sNoResource [] s
      else
        let id := newJobId s
        let j := { blankJob id f with
          tenant := tenant, jobTag := tag, pipeline := pipe, flags := flags, deadline := getLE p 8 8
          seed := getLE p 0x18 8, steps := getLE p 0x20 4, mbPerStep := getLE p 0x24 2, manifest := manifestBytes s man
          groupsLeft := rankedGroups s tenant (getLE (manifestBytes s man) 0x18 8) }
        tryGroup id (await src (.submit id) (addJob j s))) s

/-! ### Job and context commands (R187-R191) -/

/-- The job a command names, if its function owns it or holds owner rights (R169). -/
def cmdJob (s : State) (src : Src) (job : Nat) : Option Job :=
  match jobOf s job with
  | some j => if j.admission == .admitted && (j.fn == srcFn s src || srcOwner s src) then some j else none
  | none => none

/-- The context a command names, if visible to it (R169). -/
def cmdCtx (s : State) (src : Src) (c : Nat) : Option Ctx :=
  let x := ctxOf s c
  if c < 4096 && x.state != .free && (x.fn == srcFn s src || srcOwner s src) then some x else none

def doJobWait (src : Src) (p : Bytes) (s : State) : State :=
  start ⟨src, 0x0402, .jobWait src p, false, [(4, 44)], p⟩ (fun s =>
    let job := getLE p 0 4
    match cmdJob s src job with
    | none => complete src sJobUnknown [] s
    | some j => match j.status with
      | some st => complete src st (jobWords j st) s
      | none => await src (.job job) s) s

def ctxCode : CtxState → Nat
  | .free => 0
  | .admitted => 1
  | .running => 2
  | .held => 3
  | .faulted => 4
  | .done => 5

def doJobStatus (src : Src) (p : Bytes) (s : State) : State :=
  start ⟨src, 0x0403, .jobStatus src p, false, [(4, 44)], p⟩ (fun s =>
    let job := getLE p 0 4
    match cmdJob s src job with
    | none => complete src sJobUnknown [] s
    | some j =>
      let st := if j.status.isSome then 5 else match ctxOfJob s job with
        | some c => ctxCode (ctxOf s c).state
        | none => 5
      let left := (j.steps - j.stepsDone) * rowFramesPerStep (planBank s) j.pipeline
      complete src sOk ([st + j.cause % 256 * 256, j.stepsDone] ++ words64 (j.finish.getD (2 ^ 64 - 1)) ++
        [min left 0xFFFFFFFF]) s) s

def doJobCancel (src : Src) (p : Bytes) (s : State) : State :=
  start ⟨src, 0x0404, .jobCancel src p, false, [(4, 44)], p⟩ (fun s =>
    let job := getLE p 0 4
    match cmdJob s src job with
    | none => complete src sJobUnknown [] s
    | some j =>
      if j.status.isSome then complete src sCtxState [] s
      else
        let s1 := await src (.cancel job) (setJob job (fun j => { j with cancelling := true }) s)
        ctxAct job .cancel (sendAll (j.members.filter (· != s.dvl.addr)) (.jobCtl (.cancel job)) s1)) s

def doJobRelease (src : Src) (p : Bytes) (s : State) : State :=
  start ⟨src, 0x0405, .jobRelease src p, false, [(4, 44)], p⟩ (fun s =>
    let job := getLE p 0 4
    match cmdJob s src job with
    | none => complete src sJobUnknown [] s
    | some j =>
      if j.status.isNone then complete src sCtxState [] s
      else
        let s1 := sendAll (j.members.filter (· != s.dvl.addr)) (.jobCtl (.free job)) s
        let s2 := match ctxOfJob s1 job with
          | some c => freeCtx c s1
          | none => s1
        let s3 := if j.result != 0 then dropObj j.result s2 else s2
        complete src sOk [] { s3 with vnr := { s3.vnr with jobs := s3.vnr.jobs.filter fun e => e.1 != job } }) s

/-- CTX_STATE words 0-1 (R193). -/
def ctxStateWords (x : Ctx) : List Nat :=
  let v := (x.vers.findSome? fun t => t.2.findIdx? fun e => e.current).getD 0
  [ctxCode x.state + x.fn % 64 * 16 + v % 16 * 65536, x.tenant % 2 ^ 24 + x.cause % 256 * 2 ^ 24]

def doCtxQuery (src : Src) (p : Bytes) (s : State) : State :=
  start ⟨src, 0x0411, .ctxQuery src p, false, [(2, 46)], p⟩ (fun s =>
    match cmdCtx s src (getLE p 0 2) with
    | none => complete src sJobUnknown [] s
    | some x => complete src sOk (ctxStateWords x) s) s

def doCtxHold (src : Src) (p : Bytes) (s : State) : State :=
  start ⟨src, 0x0412, .ctxHold src p, false, [(4, 44)], p⟩ (fun s =>
    let job := getLE p 0 4
    match cmdJob s src job with
    | none => complete src sJobUnknown [] s
    | some j =>
      if j.status.isSome then complete src sCtxState [] s
      else
        let s1 := holdJob job .command s
        if s.jig.running then await src (.holdJob job false) s1 else complete src sOk [] s1) s

def doCtxResume (src : Src) (p : Bytes) (s : State) : State :=
  start ⟨src, 0x0413, .ctxResume src p, false, [(4, 44)], p⟩ (fun s =>
    let job := getLE p 0 4
    match cmdJob s src job with
    | none => complete src sJobUnknown [] s
    | some j =>
      if j.status.isSome then complete src sCtxState [] s
      else
        let s1 := resumeJob job .command (if j.repairing.isEmpty then resumeJob job .divergence s else s)
        if s.jig.running then await src (.holdJob job true) s1 else complete src sOk [] s1) s

def doCtxShare (src : Src) (p : Bytes) (s : State) : State :=
  start ⟨src, 0x0414, .ctxShare src p, true, [(1, 1), (6, 42)], p⟩ (fun s =>
    let f := getLE p 0 1
    let n := getLE p 2 2
    let pm := getLE p 4 2
    if 63 < f || 4096 < n || 1000 < pm then complete src sBadField [] s
    else complete src sOk [] (setFn f (fun x => { x with maxCtx := n, permille := pm }) s)) s

/-- VNR_VER words 0-3 (R193). -/
def vnrWords (v : Version) : List Nat :=
  [v.state + b2n v.current * 4 + v.pins % 16 * 16, v.refs % 2 ^ 32] ++
    words64 (((v.objects.find? fun o => o.1 == 0).map (·.2)).getD 0)

/-- The checks that VNR.QUERY, VNR.PIN and VNR.UNPIN share (R191). -/
def cmdVer (s : State) (src : Src) (p : Bytes) : Except Nat Version :=
  let c := getLE p 0 2
  let st := getLE p 2 2
  match cmdCtx s src c with
  | none => .error sJobUnknown
  | some x =>
    if 15 < getLE p 4 1 || !(ctxStages s c).any (fun r => r.stage == st) then .error sBadField
    else .ok ((versAt x st).getD (getLE p 4 1) Version.empty)

def doVnrQuery (src : Src) (p : Bytes) (s : State) : State :=
  start ⟨src, 0x0421, .vnrQuery src p, false, [(5, 43)], p⟩ (fun s =>
    match cmdVer s src p with
    | .error st => complete src st [] s
    | .ok v => complete src sOk (vnrWords v) s) s

def doVnrPin (src : Src) (p : Bytes) (s : State) : State :=
  start ⟨src, 0x0422, .vnrPin src p, false, [(5, 43)], p⟩ (fun s =>
    match cmdVer s src p with
    | .error st => complete src st [] s
    | .ok v =>
      if v.state != 2 then complete src sCtxState [] s
      else if 15 ≤ v.pins then complete src sNoResource [] s
      else complete src sOk [] (setVer (getLE p 0 2) (getLE p 2 2) (getLE p 4 1)
        (fun v => { v with pins := v.pins + 1, refs := v.refs + 1 }) s)) s

def doVnrUnpin (src : Src) (p : Bytes) (s : State) : State :=
  start ⟨src, 0x0423, .vnrUnpin src p, false, [(5, 43)], p⟩ (fun s =>
    match cmdVer s src p with
    | .error st => complete src st [] s
    | .ok v =>
      if v.pins = 0 then complete src sCtxState [] s
      else complete src sOk [] (setVer (getLE p 0 2) (getLE p 2 2) (getLE p 4 1)
        (fun v => { v with pins := v.pins - 1, refs := v.refs - 1 }) s)) s

/-! ### Events of contexts and jobs -/

/-- Is an object one of a version's? -/
def isVersionObj (o : Obj) : Bool := match o.role with
  | .version _ _ => true
  | _ => false

/-- The entries still LOADING are emptied, and their objects go (R178): no micro-batch names one. -/
def dropLoading (c : Nat) (s : State) : State :=
  let hs := (ctxOf s c).vers.flatMap fun t => (t.2.filter fun v => v.state == 1).flatMap fun v => v.objects.map (·.2)
  setCtx c (fun x => { x with vers := x.vers.map fun t => (t.1, t.2.map fun v => if v.state = 1 then Version.empty else v) })
    (hs.foldl (fun s h => match findObj s h with
      | some o => if outlasts s h o then s else dropObj h s
      | none => s) s)

/-- CTX_TEARDOWN_DONE (R178): versions lose their current designation, the context's other objects are released, it
enters DONE, and the lead hears of it. Objects that a retained checkpoint holds stay. -/
def doCtxTeardownDone (c : Nat) (s : State) : State :=
  let x := ctxOf s c
  if x.state != .faulted then s
  else
    let s0 := advance (x.faultedAt) s
    let s1 := dropLoading c (dropCurrent c s0)
    let s2 := releaseObjs c (fun o => !isVersionObj o) s1
    tellDone x.job (setCtx c (fun x => { x with state := .done }) s2)

/-- VERSION_RETIRE (R174): a READY entry with no reference becomes EMPTY; its objects are destroyed, but for one that
still holds OBJ.PIN references. -/
def doVersionRetire (c stage v : Nat) (s : State) : State :=
  let e := verOf s c stage v
  if e.state = 2 && e.refs = 0 then
    let s1 := e.objects.foldl (fun s o => match findObj s o.2 with
      | some x => if x.pinRefs = 0 then dropObj o.2 s else s
      | none => s) s
    setVer c stage v (fun _ => Version.empty) s1
  else s

/-- An OBJ.UNPIN that drops the last reference of a retired version's object destroys it (R174). So it does with a training
object whose context has been released. -/
def unpinRetired (h : Nat) (s : State) : State :=
  match findObj s h with
  | some o =>
    if outlasts s h o then s
    else match o.role with
      | .version _ _ => if inVersion s h then s else dropObj h s
      | .training _ _ => if o.ownerCtx.isNone then dropObj h s else s
      | _ => s
  | none => s

/-- OBJ.UNPIN with that consequence, once it has taken a reference away. -/
def unpinAndRetire (src : Src) (p : Bytes) (s : State) : State :=
  let h := getLE p 0 8
  let t := doObjUnpin src p s
  if (findObj t h).map (·.pinRefs) = (findObj s h).map (·.pinRefs) then t else unpinRetired h t

/-- The next extent rows for a micro-batch (R186): handle, offset and length of its rows, tokpos and rows. The bytes of
one row are the record's length over its rows (log entry 25). -/
def nextRows (x : Ctx) : Option (Nat × Nat × Nat × Nat × Nat) :=
  match (manifestExt x.manifest)[x.extent]? with
  | some (h, off, len, tok, rows) => some (h, off + x.extentOff, min len (len - x.extentOff), tok, rows)
  | none => none

/-- Post a micro-batch into the input queue of stage 0 of a context here, where it has a free slot that holds it (R186). -/
def postInput (c : Nat) (m : InputMb) (s : State) : Option State :=
  match ((ctxStages s c).find? fun r => r.stage == 0).bind (·.fwdQ) with
  | none => none
  | some q =>
    let k := queueOf s q
    let x := ctxOf s c
    match slotsIn k .free with
    | [] => none
    | slot :: _ =>
      if slotBytes k < m.data.length then none
      else
        let v := (currentVer x 0).getD 0
        let hdr := sealHdr (toLE 4 x.tenant ++ toLE 2 (c + v * 4096) ++ toLE 2 (k.stage + k.phase * 4096) ++
          toLE 4 m.step ++ toLE 2 m.mb ++ toLE 2 (b2n m.last) ++ toLE 8 k.handle ++ toLE 4 (slot * slotBytes k) ++
          toLE 4 m.data.length ++ toLE 2 m.rows ++ toLE 2 0x0FFF ++ toLE 4 s.dvl.addr ++ toLE 4 k.posted ++ toLE 4 m.tok ++
          List.replicate 16 0)
        some (postEntry q hdr slot (writeObj k.handle (slot * slotBytes k) m.data false s))

/-- The next micro-batch of the context's step, where its extent is resident. Micro-batch i takes extent record number
step × mb_per_step + i, in order. -/
def nextInput (s : State) (c : Nat) : Option InputMb :=
  let x := ctxOf s c
  match nextRows x with
  | none => none
  | some (h, off, len, tok, rows) => match findObj s h with
    | none => none
    | some o =>
      if inFlash o || x.mbPerStep ≤ x.nextMb || x.steps ≤ x.step then none
      else some ⟨x.step, x.nextMb, tok, rows, x.nextMb + 1 == x.mbPerStep, objBytes s h off len⟩

/-- The replica group of a module, by its place in the map's groups. -/
def groupIx (s : State) (a : Nat) : Nat := ((mapGroups s).findIdx? fun g => g.2.contains a).getD (mapGroups s).length

/-- The members of a job that host its stage 0, in ascending group order. -/
def inputMembers (s : State) (job : Nat) : List Nat := match jobOf s job with
  | some j => (sortBy (fun a b : Nat × Nat => decide (a.1 ≤ b.1)) ((j.memberCtx.filter fun m => m.2.2.contains 0).map fun m =>
      (groupIx s m.1, m.1))).map (·.2)
  | none => []

/-- The member that takes a micro-batch of a job: the extents are dealt to the job's groups in ascending group order, one
micro-batch at a time (R375). -/
def inputMember (s : State) (job mb : Nat) : Option Nat :=
  let l := inputMembers s job
  l[mb % max l.length 1]?

/-- JOB_INPUT_POST (R186): the job service posts the micro-batches of the context's step into the input queue of stage
0, while the queue has free slots and the extent is resident; where another member hosts stage 0, it sends them there (log
entry 113). -/
def postOne (c : Nat) (s : State) : State :=
  let taken (s : State) : State := setCtx c (fun x => { x with nextMb := x.nextMb + 1, extent := x.extent + 1, extentOff := 0 }) s
  match nextInput s c with
  | none => s
  | some m =>
    let job := (ctxOf s c).job
    let to_ := (inputMember s job m.mb).getD s.dvl.addr
    if to_ != s.dvl.addr then taken (send to_ (.jobCtl (.input job m)) s)
    else match postInput c m s with
      | some s1 => taken s1
      | none => s

def postMany : Nat → Nat → State → State
  | 0, _, s => s
  | n + 1, c, s => postMany n c (postOne c s)

/-- Rows that wait here for stage 0 are posted in order, those of the context's step, while its queue has free slots. -/
def postWaiting : Nat → Nat → State → State
  | 0, _, s => s
  | n + 1, c, s =>
    let x := ctxOf s c
    match x.inputs with
    | [] => s
    | m :: rest =>
      if m.step < x.step then postWaiting n c (setCtx c (fun x => { x with inputs := rest }) s)
      else if x.step < m.step then s
      else match postInput c m s with
        | some s1 => postWaiting n c (setCtx c (fun x => { x with inputs := rest }) s1)
        | none => s

/-- The member that hosts stage 0 takes rows from the lead. -/
def takeInput (job : Nat) (m : InputMb) (s : State) : State :=
  match ctxOfJob s job with
  | none => s
  | some c =>
    if activeCtx (ctxOf s c) then
      let s1 := setCtx c (fun x => { x with inputs := x.inputs ++ [m] }) s
      postWaiting (ctxOf s1 c).inputs.length c s1
    else s

def doJobInputPost (job : Nat) (s : State) : State :=
  match ctxOfJob s job with
  | none => s
  | some c =>
    if activeCtx (ctxOf s c) then
      postWaiting (ctxOf s c).inputs.length c (postMany ((ctxOf s c).mbPerStep - (ctxOf s c).nextMb) c s)
    else s

/-- A list's shards in ascending shard order. -/
def fpShards (f : FpList) : List FpShard := sortBy (fun a b : FpShard => decide (a.no ≤ b.no)) f.shards

/-! ### Rows of the table -/

def execJobSubmit (src : Src) (p : Bytes) (s : State) : Host.Outcome State Fault Refusal :=
  .next (settle s (doJobSubmit src p s))

def execJobWait (src : Src) (p : Bytes) (s : State) : Host.Outcome State Fault Refusal :=
  .next (settle s (doJobWait src p s))

def execJobStatus (src : Src) (p : Bytes) (s : State) : Host.Outcome State Fault Refusal :=
  .next (settle s (doJobStatus src p s))

def execJobCancel (src : Src) (p : Bytes) (s : State) : Host.Outcome State Fault Refusal :=
  .next (settle s (doJobCancel src p s))

def execJobRelease (src : Src) (p : Bytes) (s : State) : Host.Outcome State Fault Refusal :=
  .next (settle s (doJobRelease src p s))

def execCtxQuery (src : Src) (p : Bytes) (s : State) : Host.Outcome State Fault Refusal :=
  .next (settle s (doCtxQuery src p s))

def execCtxHold (src : Src) (p : Bytes) (s : State) : Host.Outcome State Fault Refusal :=
  .next (settle s (doCtxHold src p s))

def execCtxResume (src : Src) (p : Bytes) (s : State) : Host.Outcome State Fault Refusal :=
  .next (settle s (doCtxResume src p s))

def execCtxShare (src : Src) (p : Bytes) (s : State) : Host.Outcome State Fault Refusal :=
  .next (settle s (doCtxShare src p s))

def execVnrQuery (src : Src) (p : Bytes) (s : State) : Host.Outcome State Fault Refusal :=
  .next (settle s (doVnrQuery src p s))

def execVnrPin (src : Src) (p : Bytes) (s : State) : Host.Outcome State Fault Refusal :=
  .next (settle s (doVnrPin src p s))

def execVnrUnpin (src : Src) (p : Bytes) (s : State) : Host.Outcome State Fault Refusal :=
  .next (settle s (doVnrUnpin src p s))

def execObjUnpin (src : Src) (p : Bytes) (s : State) : Host.Outcome State Fault Refusal :=
  .next (settle s (unpinAndRetire src p s))

def execCtxTeardownDone (ctx : Nat) (s : State) : Host.Outcome State Fault Refusal :=
  .next (settle s (doCtxTeardownDone ctx s))

def execVersionRetire (ctx stage v : Nat) (s : State) : Host.Outcome State Fault Refusal :=
  .next (settle s (doVersionRetire ctx stage v s))

def execJobInputPost (job : Nat) (s : State) : Host.Outcome State Fault Refusal :=
  .next (settle s (doJobInputPost job s))

end Sys2Proof.Machine
end

