-- ==== Sys2Proof/Machine/Host.lean ====
section
/-! DEFINITION. Host ports and rings (chapter 13): doorbells, completions and interrupts, the packet checks of R398,
function resets (R401, R445), and the class 0x01 commands that concern one function. -/

namespace Sys2Proof.Machine

/-! ### Interrupts (R382, R395) -/

/-- Is a vector masked: bit 0 of its vector control word, the fourth word of its MSI-X table entry. -/
def masked (x : FnSt) (v : Nat) : Bool := bit (tget 1 x.msixTable (16 * v + 12)) 0

/-- Vectors of a function's MSI-X table (R382). -/
def vectors (f : Nat) : Nat := if f % 16 = 0 then 2048 else 64

/-- Send an MSI-X message; a masked vector keeps its pending bit instead; with MSI-X disabled nothing happens. -/
def interrupt (f v : Nat) (s : State) : State :=
  let x := fnOf s f
  if !x.msixOn then s
  else if masked x v then setFn f (fun x => { x with pba := if x.pba.contains v then x.pba else v :: x.pba }) s
  else emit (.msix f v) s

def coalCount (x : FnSt) : Nat := bits x.irqCoal.toNat 7 0

/-- Report the completions whose interrupts wait, each on the vector of its pair (R395). -/
def reportPending (f : Nat) (s : State) : State :=
  (fnOf s f).coalVectors.foldl (fun s v => interrupt f v s) (setFn f (fun x => { x with coalPend := 0, coalVectors := [] }) s)

/-- The interrupt that follows a completion (R395): none for no_irq; at once for an error status, without coalescing, or
when the count is reached; else left to the coalescing delay. -/
def completionIrq (f : Nat) (pr : Pair) (c : Completion) (s : State) : State :=
  let x := fnOf s f
  if c.noIrq then s
  else if c.status != 0 || !pr.coalesce || coalCount x = 0 then interrupt f pr.vector s
  else
    let s1 := setFn f (fun x => { x with
      coalPend := x.coalPend + 1, coalVectors := (x.coalVectors ++ [pr.vector]).eraseDups }) s
    if coalCount x ≤ x.coalPend + 1 then reportPending f s1 else s1

/-! ### Completion entries (R395, R397) -/

/-- A completion entry of 32 B. -/
def cqEntry (tag status sqHead flags pair : Nat) (words : List Nat) : Bytes :=
  toLE 2 tag ++ toLE 2 status ++ toLE 2 sqHead ++ toLE 1 flags ++ toLE 1 pair ++
    (List.range 6).flatMap fun i => toLE 4 (words.getD i 0)

/-- Entries of a CQ written and not returned. -/
def cqUsed (q : Pair) : Nat := (q.cqTail + q.cqSize - q.cqHead) % max q.cqSize 1

/-- The tail and phase after one more entry: the phase inverts at the wrap (R395). -/
def cqStep (q : Pair) : Pair :=
  if q.cqTail + 1 = q.cqSize then { q with cqTail := 0, phase := !q.phase } else { q with cqTail := q.cqTail + 1 }

/-- A function's completions are written while it is not FATAL and its link is up (R401). -/
def canWrite (s : State) (f : Nat) : Bool := !(fnOf s f).fatal && (linkOf s (fnPort f)).up

/-- Entries that a completion takes: one, and a continuation if it has more than 6 result words (R397). -/
def cqNeed (c : Completion) : Nat := if 6 < c.words.length then 2 else 1

/-- Write the oldest held completion of a pair, with its continuation entry, once the CQ has room for both; the command is
then no longer outstanding, and its interrupt follows (R393, R395, R397). One entry of a CQ stays unused, as in an SQ (log
entry 118). -/
def writeCompletion (f p : Nat) (s : State) : State :=
  match pairOf s f p with
  | none => s
  | some q => match q.held with
    | [] => s
    | c :: rest =>
      if !canWrite s f || q.cqSize ≤ cqUsed q + cqNeed c then s
      else
        let cont := decide (6 < c.words.length)
        let e := cqEntry c.tag c.status (q.sqHead % 4096) (b2n q.phase + b2n cont * 2) p c.words
        let q1 := cqStep q
        let e2 := cqEntry c.tag c.status (q.sqHead % 4096) (b2n q1.phase) p (c.words.drop 6)
        let s1 := emit (.hostWrite (fnPort f) (q.cqBase + 32 * q.cqTail) e) s
        let s2 := if cont then emit (.hostWrite (fnPort f) (q.cqBase + 32 * q1.cqTail) e2) s1 else s1
        let q2 := if cont then cqStep q1 else q1
        let s3 := setPair f p (fun _ => { q2 with held := rest }) s2
        let mine (o : Outst) : Bool := o.wait == .done && o.src.tag == c.tag && (match o.src.issuer with
          | .fn g r => g.val == f && r.val == p
          | .sideband => false)
        let s4 := { s3 with host := { s3.host with outst := match s3.host.outst.find? mine with
          | some o => s3.host.outst.erase o
          | none => s3.host.outst } }
        completionIrq f q c s4

def writeMany : Nat → Nat → Nat → State → State
  | 0, _, _, s => s
  | n + 1, f, p, s => writeMany n f p (writeCompletion f p s)

def writeHeld (f p : Nat) (s : State) : State :=
  writeMany (((pairOf s f p).map fun q => q.held.length).getD 0) f p s

/-! ### Doorbells (R393, R395, R403) -/

def doSqTail (f p : Nat) (v : Word) (s : State) : State :=
  let t := v.toNat % 4096
  match pairOf s f p with
  | none => violation f violSqTail p v.toNat s
  | some q =>
    if q.sqSize ≤ t then violation f violSqTail p v.toNat s else setPair f p (fun q => { q with sqTail := t }) s

def doCqHead (f p : Nat) (v : Word) (s : State) : State :=
  let h := v.toNat % 4096
  match pairOf s f p with
  | none => violation f violCqHead p v.toNat s
  | some q =>
    if q.cqSize ≤ h || cqUsed q < (h + q.cqSize - q.cqHead) % max q.cqSize 1 then violation f violCqHead p v.toNat s
    else setPair f p (fun q => { q with cqHead := h }) s

/-- Sizes and bases of pair 0 as its registers give them (R390). -/
def sq0Size (x : FnSt) : Nat := bits x.ring0Cfg.toNat 12 0
def cq0Size (x : FnSt) : Nat := bits x.ring0Cfg.toNat 28 16

def ringSize (n : Nat) : Bool := decide (16 ≤ n) && decide (n ≤ 4096)

def newPair (sqBase sqSize cqBase cqSize vector : Nat) (coalesce : Bool) : Pair :=
  ⟨sqBase, sqSize, 0, 0, cqBase, cqSize, 0, 0, true, vector, coalesce, false, []⟩

/-- A write to FN_CTRL (R390): ENABLE 1 sets pair 0 up, unless it stands already with the same rings (log entry 27); with
a size of pair 0 out of range it is ignored, logged, and counts as a violation. -/
def doFnCtrl (f : Nat) (v : Word) (s : State) : State :=
  let x := fnOf s f
  if !bit v.toNat 0 then setFn f (fun x => { x with enable := false }) s
  else if !ringSize (sq0Size x) || !ringSize (cq0Size x) then badAccess f 4 4 v.toNat s
  else
    let q := newPair x.sq0Base (sq0Size x) x.cq0Base (cq0Size x) 0 true
    let same := match pairOf s f 0 with
      | some p => p.sqBase == q.sqBase && p.sqSize == q.sqSize && p.cqBase == q.cqBase && p.cqSize == q.cqSize
      | none => false
    setFn f (fun x => { x with enable := true, pairs := if same then x.pairs else tset x.pairs 0 q }) s

/-! ### Packet checks (R396, R398) -/

/-- The opcodes of R406, and whether each takes parameters (R398 check 3). -/
def opcodes : List (Nat × Bool) :=
  [(0x0101, true), (0x0102, true), (0x0103, true), (0x0104, false), (0x0105, true), (0x0106, true), (0x0107, true),
   (0x0108, true), (0x0109, true), (0x010A, false), (0x0201, true), (0x0202, true), (0x0203, false), (0x0204, false),
   (0x0301, true), (0x0302, true), (0x0303, true), (0x0304, true), (0x0305, true), (0x0306, true), (0x0307, true)] ++
  [(0x0401, true), (0x0402, true), (0x0403, true), (0x0404, true), (0x0405, true), (0x0411, true), (0x0412, true),
   (0x0413, true), (0x0414, true), (0x0421, true), (0x0422, true), (0x0423, true), (0x0501, true), (0x0502, true),
   (0x0503, true), (0x0601, true), (0x0602, true), (0x0603, true), (0x0604, true), (0x0605, true)] ++
  [(0x0701, true), (0x0702, true), (0x0703, true), (0x0704, true), (0x0705, true), (0x0706, true), (0x0707, true),
   (0x0708, true), (0x0709, true), (0x070A, true), (0x070B, true), (0x070C, true), (0x0801, true), (0x0802, true),
   (0x0803, true), (0x0804, true), (0x0805, true), (0x0811, true), (0x0812, false), (0x0813, false)] ++
  [(0x0901, true), (0x0902, true), (0x0903, true), (0x0904, true), (0x0905, true), (0x0906, true), (0x0A01, true),
   (0x0A02, true), (0x0A03, false), (0x0A04, false), (0x0B01, true), (0x0B02, true), (0x0B03, true), (0x0B04, true)]

/-- The checks of R398, in order, without the uniqueness of the tag. -/
def packetOk (e : Bytes) : Bool :=
  match opcodes.find? fun o => o.1 == getLE e 0 2 with
  | none => false
  | some (_, params) =>
    let plen := getLE e 8 1
    decide (plen ≤ 48) && (params == (plen != 0)) && decide (getLE e 2 1 < 4) && zeroAt e [(3, 1), (9, 7)] &&
      bits (getLE e 6 2) 14 12 == 0

/-- The header of a command as its execution needs it (R396). -/
def packetSrc (i : Issuer) (e : Bytes) : Src :=
  ⟨i, getLE e 4 2, bit (getLE e 2 1) 1, if bit (getLE e 6 2) 15 then some (getLE e 6 2 % 4096) else none⟩

/-- Parameters: bytes at and beyond plen are read as 0 (R396). -/
def packetParams (e : Bytes) : Bytes := slice (slice e 16 (getLE e 8 1)) 0 48

/-- The command an entry spells. The commands that need data from outside come with none yet. -/
def cmdOf (opcode : Nat) (src : Src) (p : Bytes) : Option Instr :=
  match opcode with
  | 0x0101 => some (.identify src p)
  | 0x0102 => some (.flush src p)
  | 0x0103 => some (.fnReset src p)
  | 0x0104 => some (.moduleReset src p)
  | 0x0105 => some (.ringCreate src p)
  | 0x0106 => some (.ringDelete src p)
  | 0x0107 => some (.fwCommit src p)
  | 0x0108 => some (.fwActivate src p)
  | 0x0109 => some (.ownerSet src p)
  | 0x010A => some (.evtWait src p)
  | 0x0201 => some (.jigLoad src p)
  | 0x0202 => some (.jigSwitch src p)
  | 0x0203 => some (.jigDiscard src p)
  | 0x0204 => some (.jigQuery src p)
  | 0x0301 => some (.mqCreate src p)
  | 0x0302 => some (.mqDestroy src p)
  | 0x0303 => some (.mqBind src p)
  | 0x0304 => some (.mqUnbind src p)
  | 0x0305 => some (.mqQuery src p)
  | 0x0306 => some (.mqPurge src p)
  | 0x0307 => some (.mqPost src p)
  | 0x0401 => some (.jobSubmit src p)
  | 0x0402 => some (.jobWait src p)
  | 0x0403 => some (.jobStatus src p)
  | 0x0404 => some (.jobCancel src p)
  | 0x0405 => some (.jobRelease src p)
  | 0x0411 => some (.ctxQuery src p)
  | 0x0412 => some (.ctxHold src p)
  | 0x0413 => some (.ctxResume src p)
  | 0x0414 => some (.ctxShare src p)
  | 0x0421 => some (.vnrQuery src p)
  | 0x0422 => some (.vnrPin src p)
  | 0x0423 => some (.vnrUnpin src p)
  | 0x0501 => some (.gluQuery src p)
  | 0x0502 => some (.gluLedgerRead src p)
  | 0x0503 => some (.gluLedgerLoad src p)
  | 0x0601 => some (.krfRead src p)
  | 0x0602 => some (.krfClear src p)
  | 0x0603 => some (.krfHistSet src p)
  | 0x0604 => some (.krfLossSet src p)
  | 0x0605 => some (.krfFpRead src p)
  | 0x0701 => some (.objCreate src p)
  | 0x0702 => some (.objDestroy src p)
  | 0x0703 => some (.objWrite src p none)
  | 0x0704 => some (.objRead src p)
  | 0x0705 => some (.objQuery src p)
  | 0x0706 => some (.objPin src p)
  | 0x0707 => some (.objUnpin src p)
  | 0x0708 => some (.objPromote src p)
  | 0x0709 => some (.objDemote src p)
  | 0x070A => some (.objGrant src p)
  | 0x070B => some (.objRevoke src p)
  | 0x070C => some (.objAtomic src p)
  | 0x0801 => some (.dvlQuery src p)
  | 0x0802 => some (.dvlConfig src p)
  | 0x0803 => some (.dvlPort src p)
  | 0x0804 => some (.dvlExtRead src p)
  | 0x0805 => some (.dvlExtWrite src p)
  | 0x0811 => some (.cfgStage src p)
  | 0x0812 => some (.cfgCancel src p)
  | 0x0813 => some (.cfgQuery src p)
  | 0x0901 => some (.ckpPolicy src p)
  | 0x0902 => some (.ckpTake src p)
  | 0x0903 => some (.ckpRestore src p)
  | 0x0904 => some (.ckpRelease src p)
  | 0x0905 => some (.ckpQuery src p)
  | 0x0906 => some (.ckpReserve src p)
  | 0x0A01 => some (.pwrState src p)
  | 0x0A02 => some (.pwrAlarm src p)
  | 0x0A03 => some (.pwrQuery src p)
  | 0x0A04 => some (.pwrReplan src p ⟨[], [], 0, 0, 0, 0, [], 0, []⟩)
  | 0x0B01 => some (.dbgLogRead src p)
  | 0x0B02 => some (.dbgSummaryRead src p)
  | 0x0B03 => some (.dbgView src p)
  | 0x0B04 => some (.dbgTest src p ⟨[], false, false⟩)
  | _ => none

/-- Commands whose effect needs data that only arrives later: host memory, a measurement, a test's result. Fetched, they
stay started until their own row brings it (log entry 11). -/
def needsData (opcode : Nat) : Bool := opcode == 0x0703 || opcode == 0x0A04 || opcode == 0x0B04

/-! ### Resets of functions (R401, R445) -/

/-- Abort the outstanding commands of a function but one tag of one issuer, logging each (R432); `written` says whether
they complete with S_ABORTED_RESET. A finished command whose completion was still waiting had its effect. -/
def abortCmds (f : Nat) (keep : Option Src) (written : Bool) (s : State) : State :=
  let mine (o : Outst) : Bool := (match o.src.issuer with
    | .fn g _ => g.val == f
    | .sideband => false) && (match keep with
      | some k => !(o.src.issuer == k.issuer && o.src.tag == k.tag)
      | none => true)
  let hit := s.host.outst.filter fun o => mine o && (!written || o.wait != .done)
  let s1 := hit.foldl (fun s o => logAborted o (b2n (o.wait == .done)) s) s
  let s2 := { s1 with host := { s1.host with fwAct := s1.host.fwAct.map fun a =>
    { a with src := a.src.filter fun k => !hit.any fun o => o.src == k } } }
  if written then hit.foldl (fun s o => complete o.src sAborted [] s) s2
  else { s2 with host := { s2.host with outst := s2.host.outst.filter fun o => !mine o } }

/-- Selections and latches of a function return to their reset values (R401). -/
def clearSelections (x : FnSt) : FnSt :=
  { x with
    vnrSel := FnSt.reset.vnrSel, krfSel := FnSt.reset.krfSel, memSel := 0, ckpSel := 0, readLatch := []
    writeLatch := [], headLatch := [] }

/-- The FN block at its reset values; the wake latch is the always-on domain's (R415), the share the owner's (R387). -/
def resetBlock (x : FnSt) : FnSt :=
  { FnSt.reset with
    wakeCause := x.wakeCause, dstate := x.dstate, pmeOn := x.pmeOn, wakePending := x.wakePending
    maxCtx := x.maxCtx, permille := x.permille }

/-- FLR of one function (R401, R445). -/
def flrOne (f : Nat) (s : State) : State := setFn f resetBlock (abortCmds f none false s)

/-- FLR: of a VF that VF, of a PF the PF and its VFs. -/
def doFlr (f : Nat) (s : State) : State :=
  if f % 16 = 0 then (List.range 16).foldl (fun s i => flrOne (f + i) s) s else flrOne f s

/-- FN.RESET of a function (R401): its commands aborted, and written unless it is FATAL or its link is down, pairs 1-63
deleted, QUARANTINE and FATAL cleared, selections and latches reset; held events stay (R445). -/
def fnResetOf (f : Nat) (by_ : Src) (s : State) : State :=
  let written := canWrite s f
  let s0 := abortCmds f (some by_) written s
  let s1 := setFn f (fun x => { x with
    fatal := false, pairs := if written then x.pairs else x.pairs.map fun e => (e.1, { e.2 with held := [] }) }) s0
  let s2 := complete by_ sOk [] s1
  let s3 := ((fnOf s2 f).pairs.map (·.1)).foldl (fun s p => writeHeld f p s) s2
  let s4 := setFn f (fun x => { clearSelections x with
    quarantine := false, fatal := false, violTimes := [], pairs := x.pairs.filter fun e => e.1 == 0 }) s3
  { s4 with host := { s4.host with outst := s4.host.outst.filter fun o => match o.src.issuer with
    | .fn g p => !(g.val == f && p.val != 0)
    | .sideband => true } }

def doFnReset (src : Src) (p : Bytes) (s : State) : State :=
  start ⟨src, 0x0103, .fnReset src p, false, [(1, 47)], p⟩ (fun s =>
    let f := getLE p 0 1
    let may := srcOwner s src || (match src.issuer with
      | .fn g _ => g.val == f || (g.val % 16 == 0 && f / 16 == g.val / 16)
      | .sideband => true)
    if 63 < f then complete src sBadField [] s
    else if !may then complete src sDenied [] s
    else fnResetOf f src s) s

/-- PERST#, hot reset or link loss on Hn: as an FLR of all its functions (R401, R388). Before PWR_GOOD PERST# acts on
nothing (R22): its level alone is what the pin shows. -/
def doPerst (h : Nat) (kind : LinkReset) (s : State) : State :=
  let s1 := if s.pkg.pwrGood then (List.range 16).foldl (fun s i => flrOne (16 * h + i) s) s else s
  { s1 with host := { s1.host with links := tupd HostLink.reset s1.host.links h fun l =>
    { l with perst := l.perst || kind == .perst, up := false, width := 0, rate := 0, flit := false } } }

/-- The widest width of 8, 4, 2, 1 that an offer allows (R382). -/
def commonWidth (n : Nat) : Nat := if 8 ≤ n then 8 else if 4 ≤ n then 4 else if 2 ≤ n then 2 else 1

/-- The rate of a link in Gb/s per pin, as a record gives it (R434); 2.5 is written as 2 (log entry 119). -/
def gbps (r : Nat) : Nat := [0, 2, 5, 8, 16, 32, 64].getD r 0

/-- PCIE_LINK_UP (R382): the widest common width and the highest common rate; without FLIT mode at most 32 GT/s, with
EV_HOST_LINK. A port in reset does not train (R24). -/
def doLinkUp (h : Nat) (o : LinkOffer) (s : State) : State :=
  let l := linkOf s h
  if l.perst then s
  else
    let w := commonWidth o.width
    let r := min (max o.rate 1) (if o.flit then 6 else 5)
    let l1 : HostLink := { l with up := true, width := w, rate := r, flit := o.flit }
    let s1 := { s with host := { s.host with links := tset s.host.links h l1 } }
    if o.flit then s1
    else raise { code := 0x0103, detail := [(1, h), (1, 1), (1, w), (1, gbps r), (1, 0)] } s1

/-! ### Class 0x01 commands of one function (R399) -/

/-- ID_ORDER in ASCII: "UX1-4K256-96L" (R391). -/
def idOrder : List Nat := [0x2D315855, 0x35324B34, 0x36392D36, 0x0000004C]

def idModule : Nat := 0x00435531

def idFn (s : State) (f : Nat) : Nat :=
  f + b2n (f % 16 == 0) * 64 + b2n (isOwner s f) * 128 + f / 16 * 256

/-- Installation ID of the map: 0 before the map is read (R391). -/
def installId (s : State) : Nat := if s.host.ready then getLE (theMap s) 4 4 else 0

/-- A word of the ID block (R391). -/
def idReg (s : State) (f off : Nat) : Nat :=
  let l := linkOf s (fnPort f)
  match off with
  | 0x00 => idModule
  | 0x04 => s.host.fwVersion
  | 0x08 => s.dvl.serial % 2 ^ 32
  | 0x0C => s.dvl.serial / 2 ^ 32 % 2 ^ 32
  | 0x10 => installId s
  | 0x14 => s.dvl.addr
  | 0x18 => idFn s f
  | 0x1C => 0x40 + 0x1000 * 256
  | 0x20 => 0x4000 + 0x40 * 65536
  | 0x24 => s.dvl.epoch
  | 0x28 => bits s.dvl.digest 31 0
  | 0x2C => bits s.dvl.digest 63 32
  | 0x30 => bits s.dvl.digest 95 64
  | 0x34 => bits s.dvl.digest 127 96
  | 0x40 => idOrder.getD 0 0
  | 0x44 => idOrder.getD 1 0
  | 0x48 => idOrder.getD 2 0
  | 0x4C => idOrder.getD 3 0
  | 0x50 => l.width % 16 + l.rate % 8 * 16 + b2n l.flit * 128
  | _ => 0

/-- IDENTIFY (R399). R399 does not say, as other classes do, that parameters its table does not show are rsvd: that the
module treats them so and answers S_BAD_FIELD to a non-zero one is the model's reading (DEDUCED, log entry 95). -/
def doIdentify (src : Src) (p : Bytes) (s : State) : State :=
  start ⟨src, 0x0101, .identify src p, false, [(8, 40)], p⟩ (fun s =>
    let f := srcFn s src
    let a := getLE p 0 8
    let blk := (List.range 64).flatMap fun i => toLE 4 (idReg s f (4 * i))
    let s1 := if a = 0 then s else emit (.hostWrite (fnPort f) a blk) s
    complete src sOk [idReg s f 0, idReg s f 4, idReg s f 8, idReg s f 0x0C, idReg s f 0x18, idReg s f 0x10] s1) s

def doRingCreate (src : Src) (p : Bytes) (s : State) : State :=
  start ⟨src, 0x0105, .ringCreate src p, false, [(1, 1), (0x19, 23)], p⟩ (fun s =>
    match src.issuer with
    | .sideband => complete src sBadField [] s
    | .fn f _ =>
      let r := getLE p 0 1
      let sq := getLE p 2 2
      let cq := getLE p 4 2
      let v := getLE p 6 2
      let sb := getLE p 8 8
      let cb := getLE p 0x10 8
      let fl := getLE p 0x18 1
      if r = 0 || 63 < r || !ringSize sq || !ringSize cq || vectors f ≤ v || sb % 4096 != 0 || cb % 4096 != 0 || 1 < fl then
        complete src sBadField [] s
      else if (pairOf s f r).isSome then complete src sRing [] s
      else complete src sOk [] (setFn f (fun x => { x with
        pairs := tset x.pairs r (newPair sb sq cb cq v (bit fl 0)) }) s)) s

/-- Commands of a pair still outstanding, but one. -/
def pairBusy (s : State) (f p : Nat) (but : Src) : Bool :=
  s.host.outst.any fun o => (match o.src.issuer with
    | .fn g r => g.val == f && r.val == p
    | .sideband => false) && !(o.src.issuer == but.issuer && o.src.tag == but.tag)

/-- A closing pair with nothing else outstanding is deleted, and its RING.DELETE completes (R399). A RING.DELETE that
stands on the pair itself completes first, and the pair goes once that completion is written (`dropClosed`). -/
def finishRingDelete (f p : Nat) (s : State) : State :=
  match s.host.outst.find? fun o => o.wait == .ringDelete p && (match o.src.issuer with
      | .fn g _ => g.val == f
      | .sideband => false) with
  | none => s
  | some o =>
    let own := match o.src.issuer with
      | .fn _ r => r.val == p
      | .sideband => false
    if pairBusy s f p o.src then s
    else if own then complete o.src sOk [] s
    else complete o.src sOk [] (setFn f (fun x => { x with pairs := tdel x.pairs p }) s)

/-- A closing pair is gone once every completion of its commands is written. -/
def dropClosed (f p : Nat) (s : State) : State :=
  match pairOf s f p with
  | some q =>
    if q.closing && q.held.isEmpty && !(s.host.outst.any fun o => match o.src.issuer with
        | .fn g r => g.val == f && r.val == p
        | .sideband => false) then setFn f (fun x => { x with pairs := tdel x.pairs p }) s
    else s
  | none => s

def doRingDelete (src : Src) (p : Bytes) (s : State) : State :=
  start ⟨src, 0x0106, .ringDelete src p, false, [(1, 47)], p⟩ (fun s =>
    match src.issuer with
    | .sideband => complete src sBadField [] s
    | .fn f _ =>
      let r := getLE p 0 1
      if r = 0 || 63 < r then complete src sBadField [] s
      else if (pairOf s f r).isNone then complete src sRing [] s
      else finishRingDelete f r (await src (.ringDelete r) (setPair f r (fun q => { q with closing := true }) s))) s

def doOwnerSet (src : Src) (p : Bytes) (s : State) : State :=
  start ⟨src, 0x0109, .ownerSet src p, true, [(1, 47)], p⟩ (fun s =>
    let f := getLE p 0 1
    if f = 0 || f = 16 || f = 32 || f = 48 then
      complete src sOk [] { s with host := { s.host with ownerPf := f } }
    else complete src sBadField [] s) s

/-- EVT.WAIT (R399): the oldest held event at once, else outstanding, at most 16 per function. -/
def doEvtWait (src : Src) (p : Bytes) (s : State) : State :=
  start ⟨src, 0x010A, .evtWait src p, false, [(0, 48)], p⟩ (fun s =>
    let f := srcFn s src
    match (fnOf s f).evtHeld with
    | e :: rest => complete src sOk (evtWords e) (setFn f (fun x => { x with evtHeld := rest }) s)
    | [] =>
      let n := (s.host.outst.filter fun o => o.wait == .event && o.src.issuer != .sideband && srcFn s o.src == f).length
      if 16 ≤ n then complete src sNoResource [] s else await src .event s) s

/-! ### Events of rings and links -/

/-- FETCH_ERROR (R384): FATAL, fetching stops, EV_FN_FATAL is raised and AER reports it. The failing address is that of
the entry at the head. -/
def doFetchError (f p : Nat) (s : State) : State :=
  let addr := ((pairOf s f p).map fun q => q.sqBase + 64 * q.sqHead).getD 0
  let s1 := setFn f (fun x => { x with fatal := true }) s
  emit (.aer f) (raise { code := 0x0102, fn := some f, detail := [(1, p), (8, addr)] } s1)

/-- IRQ_COAL_TIMER (R395): the delay of FN_IRQ_COAL has passed; pending completions are reported. -/
def doIrqCoal (f : Nat) (s : State) : State :=
  let x := fnOf s f
  if x.coalPend = 0 then s else reportPending f s

/-! ### Rows of the table -/

def execSqTailDoorbell (f : Fin 64) (pair : Fin 64) (v : Word) (s : State) : Host.Outcome State Fault Refusal :=
  .next (settle s (doSqTail f.val pair.val v s))

def execCqHeadDoorbell (f : Fin 64) (pair : Fin 64) (v : Word) (s : State) : Host.Outcome State Fault Refusal :=
  .next (settle s (doCqHead f.val pair.val v s))

def execFnCtrlEnableWrite (f : Fin 64) (v : Word) (s : State) : Host.Outcome State Fault Refusal :=
  .next (settle s (doFnCtrl f.val v s))

def execFetchError (f : Fin 64) (pair : Fin 64) (s : State) : Host.Outcome State Fault Refusal :=
  .next (settle s (doFetchError f.val pair.val s))

def execIrqCoalTimer (f : Fin 64) (s : State) : Host.Outcome State Fault Refusal := .next (settle s (doIrqCoal f.val s))

def execFlr (f : Fin 64) (s : State) : Host.Outcome State Fault Refusal := .next (settle s (doFlr f.val s))

def execPerstAssert (h : Fin 4) (kind : LinkReset) (s : State) : Host.Outcome State Fault Refusal :=
  .next (settle s (doPerst h.val kind s))

def execPcieLinkUp (h : Fin 4) (offer : LinkOffer) (s : State) : Host.Outcome State Fault Refusal :=
  .next (settle s (doLinkUp h.val offer s))

def execIdentify (src : Src) (p : Bytes) (s : State) : Host.Outcome State Fault Refusal :=
  .next (settle s (doIdentify src p s))

def execFnReset (src : Src) (p : Bytes) (s : State) : Host.Outcome State Fault Refusal :=
  .next (settle s (doFnReset src p s))

def execRingCreate (src : Src) (p : Bytes) (s : State) : Host.Outcome State Fault Refusal :=
  .next (settle s (doRingCreate src p s))

def execRingDelete (src : Src) (p : Bytes) (s : State) : Host.Outcome State Fault Refusal :=
  .next (settle s (doRingDelete src p s))

def execOwnerSet (src : Src) (p : Bytes) (s : State) : Host.Outcome State Fault Refusal :=
  .next (settle s (doOwnerSet src p s))

def execEvtWait (src : Src) (p : Bytes) (s : State) : Host.Outcome State Fault Refusal :=
  .next (settle s (doEvtWait src p s))

end Sys2Proof.Machine
end

