-- ==== Sys2Proof/Machine/Regs.lean ====
section
/-! DEFINITION. The BAR0 register map (R9-R14, R389): what every register reads as and to whom, the latches of 64-bit
registers (R10) and of MQ_HEAD (R159), clearing reads and W1C writes (R11, R12), and refused accesses (R403). -/

namespace Sys2Proof.Machine

/-! ### Values of the blocks -/

/-- Word i of a multi-word register. -/
def wordAt (l : List Nat) (i : Nat) : Nat := l.getD i 0

def hi32 (v : Nat) : Nat := v / 2 ^ 32 % 2 ^ 32
def lo32 (v : Nat) : Nat := v % 2 ^ 32

/-- Commands fetched by a function and not yet completed (R393). -/
def inflightOf (s : State) (f : Nat) : Nat :=
  (s.host.outst.filter fun o => match o.src.issuer with
    | .fn g _ => g.val == f
    | .sideband => false).length

def fwHold (s : State) : Bool := match s.host.fwAct with
  | some a => a.holdFrom.isSome
  | none => false

/-- FN block (R390), the MSI-X table and its pending bits included. -/
def fnReg (s : State) (f off : Nat) : Nat :=
  let x := fnOf s f
  if 0x4000 ≤ off && decide (off < 0x4000 + 16 * vectors f) then tget (b2n (off % 16 == 12)) x.msixTable (off - 0x4000)
  else if 0xC000 ≤ off && decide (off < 0xC000 + vectors f / 8) then
    (x.pba.map fun v => if v / 32 * 4 = off - 0xC000 then 2 ^ (v % 32) else 0).foldl (· + ·) 0
  else match off with
  | 0x00 => b2n s.host.ready + b2n x.quarantine * 2 + b2n x.fatal * 4 + b2n (fwHold s) * 8 + b2n (isOwner s f) * 16
  | 0x04 => b2n x.enable
  | 0x08 => x.violCnt
  | 0x0C => inflightOf s f
  | 0x10 => lo32 x.sq0Base
  | 0x14 => hi32 x.sq0Base
  | 0x18 => lo32 x.cq0Base
  | 0x1C => hi32 x.cq0Base
  | 0x20 => x.ring0Cfg.toNat
  | 0x24 => x.irqCoal.toNat
  | 0x28 => x.evtHeld.length + b2n x.ovfl * 2 ^ 31
  | _ => 0

/-- JIG_BANK[b] words 0-3 (R225). -/
def jigBankWords (b : Tab Bytes) : List Nat :=
  let im := bankImages b
  if im.isEmpty then [0, 0, 0, 0]
  else
    let d := bankDigest b
    [(b.map fun e => 2 ^ e.1).foldl (· + ·) 0 + (im.map imgPhases).foldl (· ||| ·) 0 % 16 * 16 + bankFloor b % 128 * 256,
     bankFrameLen b % 2 ^ 27, lo32 d, hi32 d]

def rowAt (s : State) (r : Nat) : RowHold := tget ⟨none, false, 0⟩ s.jig.rows r

def jigReg (s : State) (off : Nat) : Nat :=
  let next := if s.jig.running then frameStart s (s.jig.frame + 1) else 0
  let swT := match s.jig.pend with
    | some p => p.t
    | none => 0
  if 0x40 ≤ off && decide (off < 0x60) then
    wordAt (jigBankWords (if off < 0x50 then s.jig.bank0 else s.jig.bank1)) (off % 16 / 4)
  else if 0x104 ≤ off && decide (off ≤ 0x200) then
    let r := rowAt s ((off - 0x100) / 4)
    r.ctx.getD 0 + b2n r.ctx.isSome * 2 ^ 12 + b2n r.arrival * 2 ^ 13 + r.pipe % 256 * 2 ^ 16
  else match off with
  | 0x00 => 0x0040_1000
  | 0x04 => s.jig.events.toNat
  | 0x08 => jigStatus s
  | 0x0C => s.jig.lateCnt
  | 0x10 => lo32 s.jig.frame
  | 0x14 => hi32 s.jig.frame
  | 0x18 => lo32 next
  | 0x1C => hi32 next
  | 0x20 => s.jig.idleRows
  | 0x28 => lo32 swT
  | 0x2C => hi32 swT
  | _ => 0

/-- MQ_TX[b] (R158). -/
def mqTx (b : Binding) : List Nat :=
  [b.state % 4 + (b.ports - 1) % 4 * 4 + b.destQueue % 256 * 16 + b.destStage % 4096 * 4096, b.destAddr,
   b.credits.length + b.window.length * 2048, b.seq]

def mqReg (s : State) (off : Nat) : Nat :=
  if 0x400 ≤ off && decide (off < 0x800) then mqOcc (queueOf s ((off - 0x400) / 4))
  else if 0x1000 ≤ off && decide (off < 0x2000) then wordAt (mqCfg (queueOf s ((off - 0x1000) / 16))) (off % 16 / 4)
  else if 0x2000 ≤ off && decide (off < 0x3000) then wordAt (mqTx (bindOf s ((off - 0x2000) / 16))) (off % 16 / 4)
  else match off with
  | 0x00 => 0x0400_0100
  | 0x04 => s.mq.events.toNat
  | 0x08 => s.mq.refuseCnt
  | 0x0C => s.mq.emptyCnt
  | 0x10 => s.mq.stallCnt
  | 0x14 => s.mq.resendCnt
  | _ => 0

def vnrReg (s : State) (f off : Nat) : Nat :=
  let sel := (fnOf s f).vnrSel.toNat
  if 0x100 ≤ off && decide (off < 0x200) then
    wordAt (vnrWords (verOf s (sel % 4096) (bits sel 23 12) ((off - 0x100) / 16))) (off % 16 / 4)
  else if 0x8000 ≤ off && decide (off < 0x10000) then wordAt (ctxStateWords (ctxOf s ((off - 0x8000) / 8))) (off % 8 / 4)
  else match off with
  | 0x00 => 0x0010_1000
  | 0x04 => s.vnr.events.toNat
  | 0x08 => (s.vnr.ctxs.filter fun e => e.2.state != .free).length
  | 0x0C => s.vnr.faultCnt
  | 0x10 => sel
  | 0x14 => s.vnr.indexCnt
  | _ => 0

/-- The instance a glue-up queue serves (R239). -/
def queueInst (s : State) (q : Nat) : Option Inst := s.glu.insts.find? fun i => i.queue == some q

/-- GLU_Q[q] words 0-1 (R254); ARRIVED counts the ranks whose contributions are complete (log entry 32). -/
def gluQ (s : State) (q : Nat) : List Nat :=
  match s.glu.queues.find? fun e => e.1 == q with
  | none => [0, 0]
  | some (_, g) =>
    let n := ((queueInst s q).map fun i => i.order.length).getD 0
    [(if g.closed then 2 else 1) + n % 2 ^ 18 * 4 + g.ctx % 4096 * 2 ^ 20, g.key.coll]

def gluReg (s : State) (off : Nat) : Nat :=
  if 0x100 ≤ off && decide (off < 0x900) then wordAt (gluQ s ((off - 0x100) / 8)) (off % 8 / 4)
  else match off with
  | 0x00 => 0xFE40
  | 0x04 => s.glu.events.toNat
  | 0x08 => s.glu.mismatchCnt
  | 0x0C => s.glu.lateCnt
  | 0x10 => s.glu.deferCnt
  | 0x14 => s.glu.dropCnt
  | _ => 0

/-- Latest formed fingerprint of a stage: (F, step), or (0, 0) (R280, R286). -/
def latestFp (x : Ctx) (stage : Nat) : Nat × Nat :=
  (x.fps.filter fun l => l.stage == stage && l.f != 0).foldl
    (fun a l => if a.1 = 0 || a.2 ≤ l.step then (l.f, l.step) else a) (0, 0)

/-- Index of a kerf counter (R271): 5 events per (class, format). -/
def kerfIx (cls fmt ev : Nat) : Nat := (cls * 11 + (fmt - 1)) * 5 + ev

def krfReg (s : State) (f off : Nat) : Nat :=
  let sel := (fnOf s f).krfSel.toNat
  let x := ctxOf s (sel % 4096)
  let fmt := bits sel 19 16
  let cnt (v : Nat) : Nat := if 1 ≤ fmt && fmt ≤ 11 then tget 0 x.kerf (kerfIx (bits sel 15 12) fmt v) else 0
  let fp := latestFp x (bits sel 31 20)
  if 0x10 ≤ off && decide (off < 0x38) then wordAt (words64 (cnt ((off - 0x10) / 8))) (off % 8 / 4)
  else match off with
  | 0x00 => 0x0040_1010
  | 0x04 => s.vnr.krfEvents.toNat
  | 0x08 => s.vnr.divergeCnt
  | 0x0C => sel
  | 0x40 => x.loss.mean
  | 0x44 => x.loss.var
  | 0x48 => x.loss.last
  | 0x4C => x.loss.lastStep
  | 0x50 => lo32 fp.1
  | 0x54 => hi32 fp.1
  | 0x58 => fp.2
  | _ => 0

/-- Blocks of one flash channel, for its life used. -/
def chanBlocks (s : State) (ch : Nat) : Tab Block := s.mem.blocks.filter fun e => e.1 / 65536 / 4 == ch

/-- Spare flash capacity left, percent of 16 TiB (R322); 0 before the metadata scan has counted it. -/
def spareLeft (s : State) : Nat := if s.mem.gddrReady then (16384 - s.mem.spareLostGiB) * 100 / 16384 else 0

def memReg (s : State) (f off : Nat) : Nat :=
  let sel := (fnOf s f).memSel
  if 0x100 ≤ off && decide (off < 0x200) then
    let d := (off - 0x100) / 4
    if s.mem.gddrReady then tget 40 s.mem.gddrRate d + min (tget 0 s.mem.gddrSyms d) 255 * 256 else 0
  else if 0x200 ≤ off && decide (off < 0x400) then
    let c := (off - 0x200) / 4
    ((s.mem.flashFailed.filter fun e => e.1 == c).map fun e => 2 ^ e.2).foldl (· + ·) 0 % 16 +
      tget 0 s.mem.maxRetry c % 256 * 256 + min (lifeUsed (chanBlocks s c) (allBlocks / 128)) 255 * 65536
  else if 0x40 ≤ off && decide (off < 0x50) then
    match findObj s sel with
    | some o => wordAt (memObjWords o) (off % 16 / 4)
    | none => 0
  else match off with
  | 0x00 => 0x8040
  | 0x04 => s.mem.events.toNat
  | 0x08 => s.mem.ceCnt
  | 0x0C => s.mem.ueCnt
  | 0x10 => s.mem.lateCnt
  | 0x14 => s.mem.refreshCnt
  | 0x18 => if s.mem.gddrReady then gddrFree s / mib else 0
  | 0x1C => if s.mem.gddrReady then flashFree s / gib else 0
  | 0x20 => min (lifeUsed s.mem.blocks allBlocks) 255 + spareLeft s * 256
  | 0x24 => s.mem.flashFailed.length + b2n (!s.mem.rebuilding.isEmpty) * 1024
  | 0x28 => lo32 sel
  | 0x2C => hi32 sel
  | _ => 0

/-- Violations of a port within the last second (R334), newest first. -/
def recentViols (s : State) (x : PortSt) : List (Nat × Nat) := x.viols.filter fun v => decide (s.now < v.1 + 1000000000)

/-- DVL_PORT[p] words 0-3 (R362). -/
def dvlPortWords (s : State) (p : Nat) : List Nat :=
  let x := portOf s p
  let viol := (recentViols s x).length
  [x.state % 8 + x.width % 4 * 8 + x.partner % 2 ^ 17 * 32 + x.partnerPort % 32 * 2 ^ 22,
   min x.lastReplay 65535 + min viol 65535 * 65536, x.fecCorr % 2 ^ 32,
   min x.fecUncorr 65535 + min x.margin 255 * 65536 + min x.downs 255 * 2 ^ 24]

def dvlReg (s : State) (off : Nat) : Nat :=
  let st := s.dvl.staged
  if 0x100 ≤ off && decide (off < 0x300) then wordAt (dvlPortWords s ((off - 0x100) / 16)) (off % 16 / 4)
  else match off with
  | 0x00 => 0x1C20
  | 0x04 => s.dvl.events.toNat
  | 0x08 => s.dvl.step % 16 + b2n s.dvl.hold * 16 + b2n s.dvl.locked * 32 + b2n s.dvl.closed * 64 + s.dvl.outCause % 256 * 256
  | 0x0C => s.dvl.rootAddr % 2 ^ 17 + min s.dvl.rootDist 64 * 2 ^ 17
  | 0x10 => lo32 s.now
  | 0x14 => hi32 s.now
  | 0x18 => s.dvl.epoch
  | 0x1C => s.dvl.nEv + s.dvl.nWin * 65536
  | 0x20 => bits s.dvl.digest 31 0
  | 0x24 => bits s.dvl.digest 63 32
  | 0x28 => bits s.dvl.digest 95 64
  | 0x2C => bits s.dvl.digest 127 96
  | 0x30 => (st.map (·.epoch)).getD 0
  | 0x38 => lo32 ((st.map (·.t)).getD 0)
  | 0x3C => hi32 ((st.map (·.t)).getD 0)
  | 0x40 => s.dvl.lostCnt
  | 0x44 => s.dvl.msgCrcCnt
  | 0x48 => s.dvl.addr
  | _ => 0

/-- The function a job belongs to, as this module knows it. -/
def jobFn (s : State) (job : Nat) : Option Nat :=
  match ctxOfJob s job with
  | some c => some (ctxOf s c).fn
  | none => match jobOf s job with
    | some j => some j.fn
    | none => (s.ckp.retained.find? fun r => r.job == job).map (·.fn)

/-- CKP_JOB words 0-3 (R380): a shrink comes before a capture in progress, and that before the retained one. -/
def ckpJobWords (s : State) (job : Nat) : List Nat :=
  let cap := s.ckp.captures.find? fun c => c.job == job
  let ret := s.ckp.retained.find? fun r => r.job == job
  let shrinking := (s.ckp.shrinks.any fun x => x.job == job) || (s.ckp.rollbacks.any fun x => x.job == job) ||
    (match ctxOfJob s job with
      | some c => (ctxOf s c).holds.contains .shrink
      | none => false)
  let st := if shrinking then 4 else match cap with
    | some c => if c.part.isSome then 2 else 1
    | none => if ret.isSome then 3 else 0
  [st, (ret.map (·.step)).getD 0, min ((cap.map (·.windowLeft)).getD 0) 65535, (ret.map (·.cseq)).getD 0]

/-- Bytes held for buddies. -/
def reserveUsed (s : State) : Nat := (s.ckp.buddy.map (·.total)).foldl (· + ·) 0

def ckpReg (s : State) (f off : Nat) : Nat :=
  let sel := (fnOf s f).ckpSel.toNat
  if 0x40 ≤ off && decide (off < 0x50) then wordAt (ckpJobWords s sel) (off % 16 / 4)
  else match off with
  | 0x00 => 0x80
  | 0x04 => s.ckp.events.toNat
  | 0x08 => s.ckp.reserveGiB
  | 0x0C => reserveUsed s / mib
  | 0x10 => s.ckp.failCnt
  | 0x14 => s.ckp.shrinkCnt
  | 0x18 => lo32 s.ckp.localSeq
  | 0x1C => hi32 s.ckp.localSeq
  | 0x20 => sel
  | _ => 0

def dieOf (s : State) (d : Nat) : DieSt := tget ⟨0, false, false, 0, 0, 0, 0, 0, 0, 0, 0, false⟩ s.pwr.dies d

def setDie (d : Nat) (g : DieSt → DieSt) (s : State) : State :=
  { s with pwr := { s.pwr with dies := tset s.pwr.dies d (g (dieOf s d)) } }

/-- Dies in NAP (R413), as bits. -/
def nappingBits (s : State) : Nat := ((List.range 4).map fun d => if (dieOf s d).nap then 2 ^ d else 0).foldl (· + ·) 0

/-- STATE of PWR_STATUS: NAP when all four compute dies are in NAP (R410). -/
def pwrCode (s : State) : Nat := match s.pwr.state with
  | .sleep => 2
  | .deep => 3
  | .off => 3
  | .active => b2n (nappingBits s == 15)

/-- Latched protective causes (R34): leak, junction trip, emergency off. -/
def latchBits (s : State) : Nat :=
  b2n (s.pkg.latches.contains .leak) + b2n (s.pkg.latches.contains .junctionTrip) * 2 +
    b2n (s.pkg.latches.contains .emergencyOff) * 4

def pwrStatus (s : State) : Nat :=
  pwrCode s + b2n s.pwr.waking * 8 + nappingBits s * 16 + latchBits s * 256 + min s.pwr.draw 65535 * 65536

/-- Power of all dies at the floor clock (R428 FLOOR_W). -/
def floorPower (s : State) : Nat := ((List.range 9).map fun d => (dieOf s d).floorW).foldl (· + ·) 0

def pwrReg (s : State) (f off : Nat) : Nat :=
  if 0x100 ≤ off && decide (off < 0x120) then
    let d := dieOf s ((off - 0x100) / 8)
    let below := s.jig.running && decide (d.clock < bankFloor (activeBank s))
    if off % 8 = 0 then
      d.clock % 128 + b2n d.nap * 128 + b2n d.hot * 256 + b2n below * 512 + min d.budget 65535 * 65536
    else d.tj % 4096 + d.vk % 1024 * 65536
  else match off with
  | 0x00 => 0x0E10
  | 0x04 => s.pwr.events.toNat
  | 0x08 => pwrStatus s
  | 0x0C => s.pwr.wakeEn.toNat
  | 0x10 => (fnOf s f).wakeCause.toNat
  | 0x14 => s.pwr.limit % 65536 + min (floorPower s) 65535 * 65536
  | 0x18 => s.pwr.volts % 65536 + s.pwr.amps % 65536 * 65536
  | 0x1C => min s.pwr.inlet 255 + min s.pwr.flow 255 * 256 + b2n s.pkg.leakWet * 2 ^ 16 +
      b2n (decide (0 < s.pwr.volts) && decide (s.pwr.volts < 4000)) * 2 ^ 17
  | 0x20 => lo32 s.pwr.rtc
  | 0x24 => hi32 s.pwr.rtc
  | 0x28 => lo32 s.pwr.alarm
  | 0x2C => hi32 s.pwr.alarm
  | 0x30 => lo32 s.pwr.shimSeq
  | 0x34 => hi32 s.pwr.shimSeq
  | 0x38 => s.pwr.throttleCnt
  | _ => 0

/-- Spares in use and bundles that use one: a bundle has two spares (R16, R442). -/
def sparesUsed (s : State) : Nat := ((s.dbg.lanes.map fun e => min e.2.length 2)).foldl (· + ·) 0
def bundlesSpared (s : State) : Nat := (s.dbg.lanes.filter fun e => !e.2.isEmpty).length

def dbgReg (s : State) (off : Nat) : Nat :=
  match off with
  | 0x00 => 0x1000
  | 0x04 => s.dbg.events.toNat
  | 0x08 => (s.dbg.nextSeq - 1) % 2 ^ 32
  | 0x0C => sparesUsed s + bundlesSpared s * 256
  | _ => 0

/-! ### The map (R389) -/

/-- The word of a register at this instant, to a function that may read it. MQ_HEAD is apart (R159). -/
def regWord (s : State) (f off : Nat) : Nat :=
  let o := off % 65536
  match off / 65536 with
  | 0x0 => fnReg s f o
  | 0x1 => idReg s f o
  | 0x2 => jigReg s o
  | 0x3 => mqReg s o
  | 0x4 => vnrReg s f o
  | 0x5 => gluReg s o
  | 0x6 => krfReg s f o
  | 0x7 => memReg s f o
  | 0x8 => dvlReg s o
  | 0x9 => ckpReg s f o
  | 0xA => pwrReg s f o
  | 0xB => dbgReg s o
  | _ => 0

def ownsCtx (s : State) (f c : Nat) : Bool := (ctxOf s c).state != .free && (ctxOf s c).fn == f

/-- May a function that is not the owner PF read this register (R158, R194, R226, R255, R287, R323, R363, R381, R429,
R442; FN and ID are its own)? -/
def regVisible (s : State) (f off : Nat) : Bool :=
  let o := off % 65536
  match off / 65536 with
  | 0x0 => true
  | 0x1 => true
  | 0x2 => o == 0 || o == 8 || (0x10 ≤ o && decide (o < 0x20)) || (0x104 ≤ o && decide (o ≤ 0x200) &&
      (match (rowAt s ((o - 0x100) / 4)).ctx with
        | some c => ownsCtx s f c
        | none => false))
  | 0x3 => o == 0
  | 0x4 => o == 0 || o == 0x10 || (0x100 ≤ o && decide (o < 0x200) && ownsCtx s f ((fnOf s f).vnrSel.toNat % 4096)) ||
      (0x8000 ≤ o && ownsCtx s f ((o - 0x8000) / 8))
  | 0x5 => o == 0 || (0x100 ≤ o && (match s.glu.queues.find? fun e => e.1 == (o - 0x100) / 8 with
      | some (_, g) => ownsCtx s f g.ctx
      | none => false))
  | 0x6 => o == 0 || o == 0x0C || (0x10 ≤ o && ownsCtx s f ((fnOf s f).krfSel.toNat % 4096))
  | 0x7 => o == 0 || o == 0x28 || o == 0x2C || (0x40 ≤ o && decide (o < 0x50) && (match findObj s (fnOf s f).memSel with
      | some x => decide (1 ≤ fnRights f x)
      | none => false))
  | 0x8 => o == 0 || o == 8 || o == 0x10 || o == 0x14 || o == 0x18 || (0x20 ≤ o && decide (o < 0x30)) || o == 0x48
  | 0x9 => o == 0 || o == 0x20 || (0x40 ≤ o && jobFn s (fnOf s f).ckpSel.toNat == some f)
  | 0xA => o == 0 || o == 8 || o == 0x10 || o == 0x20 || o == 0x24
  | 0xB => o == 0
  | _ => false

/-- What a function reads at an offset, before the latches. -/
def regValue (s : State) (f off : Nat) : Nat := if isOwner s f || regVisible s f off then regWord s f off else 0

/-- Offsets of the low words of 64-bit registers. -/
def is64 (off : Nat) : Bool :=
  [0x10, 0x18, 0x10008, 0x20010, 0x20018, 0x20028, 0x60050, 0x70028, 0x80010, 0x80038, 0x90018, 0xA0020, 0xA0028,
   0xA0030].contains off ||
  (0x40100 ≤ off && decide (off < 0x40200) && off % 16 == 8) ||
  (0x60010 ≤ off && decide (off < 0x60038) && off % 8 == 0)

/-- Is there a register at this aligned offset (R389)? -/
def named (f off : Nat) : Bool :=
  let o := off % 65536
  match off / 65536 with
  | 0x0 => decide (o < 0x2C) || (0x1000 ≤ o && decide (o < 0x1200)) || (0x4000 ≤ o && decide (o < 0x4000 + 16 * vectors f)) ||
      (0xC000 ≤ o && decide (o < 0xC000 + vectors f / 8))
  | 0x1 => decide (o < 0x38) || (0x40 ≤ o && decide (o < 0x54))
  | 0x2 => decide (o < 0x24) || o == 0x28 || o == 0x2C || (0x40 ≤ o && decide (o < 0x60)) || (0x104 ≤ o && decide (o ≤ 0x200))
  | 0x3 => decide (o < 0x18) || (0x400 ≤ o && decide (o < 0x800)) || (0x1000 ≤ o && decide (o < 0x3000)) ||
      (0x4000 ≤ o && decide (o < 0x8000))
  | 0x4 => decide (o < 0x18) || (0x100 ≤ o && decide (o < 0x200)) || decide (0x8000 ≤ o)
  | 0x5 => decide (o < 0x18) || (0x100 ≤ o && decide (o < 0x900))
  | 0x6 => decide (o < 0x38) || (0x40 ≤ o && decide (o < 0x5C))
  | 0x7 => decide (o < 0x30) || (0x40 ≤ o && decide (o < 0x50)) || (0x100 ≤ o && decide (o < 0x400))
  | 0x8 => decide (o < 0x34) || (0x38 ≤ o && decide (o < 0x4C)) || (0x100 ≤ o && decide (o < 0x300))
  | 0x9 => decide (o < 0x24) || (0x40 ≤ o && decide (o < 0x50))
  | 0xA => decide (o < 0x3C) || (0x100 ≤ o && decide (o < 0x120))
  | 0xB => decide (o < 0x10)
  | _ => false

/-- Registers held per function in a module-wide block (R14, R193, R286, R322, R380, R428). -/
def perFn (off : Nat) : Bool :=
  off == 0x40010 || off == 0x6000C || off == 0x70028 || off == 0x7002C || (0x70040 ≤ off && decide (off < 0x70050)) ||
    off == 0x90020 || (0x90040 ≤ off && decide (off < 0x90050)) || off == 0xA0010

/-! ### Clearing reads (R11, R12) -/

/-- A counter after an RC read: what the read cleared, and what arrived during it (R12), saturating. -/
def afterRead (cleared : Bool) (arriving old : Nat) : Nat := min ((if cleared then 0 else old) + arriving) 0xFFFF_FFFF

/-- Do the clearing of an RC read at this offset; `cl` says whether the reader may clear. -/
def rcClear (f off : Nat) (cl : Bool) (n : Nat) (s : State) : State :=
  let g := afterRead cl n
  match off with
  | 0x00008 => setFn f (fun x => { x with violCnt := g x.violCnt }) s
  | 0x2000C => { s with jig := { s.jig with lateCnt := g s.jig.lateCnt } }
  | 0x20020 => { s with jig := { s.jig with idleRows := g s.jig.idleRows } }
  | 0x30008 => { s with mq := { s.mq with refuseCnt := g s.mq.refuseCnt } }
  | 0x3000C => { s with mq := { s.mq with emptyCnt := g s.mq.emptyCnt } }
  | 0x30010 => { s with mq := { s.mq with stallCnt := g s.mq.stallCnt } }
  | 0x30014 => { s with mq := { s.mq with resendCnt := g s.mq.resendCnt } }
  | 0x4000C => { s with vnr := { s.vnr with faultCnt := g s.vnr.faultCnt } }
  | 0x40014 => { s with vnr := { s.vnr with indexCnt := g s.vnr.indexCnt } }
  | 0x50008 => { s with glu := { s.glu with mismatchCnt := g s.glu.mismatchCnt } }
  | 0x5000C => { s with glu := { s.glu with lateCnt := g s.glu.lateCnt } }
  | 0x50010 => { s with glu := { s.glu with deferCnt := g s.glu.deferCnt } }
  | 0x50014 => { s with glu := { s.glu with dropCnt := g s.glu.dropCnt } }
  | 0x60008 => { s with vnr := { s.vnr with divergeCnt := g s.vnr.divergeCnt } }
  | 0x70008 => { s with mem := { s.mem with ceCnt := g s.mem.ceCnt } }
  | 0x7000C => { s with mem := { s.mem with ueCnt := g s.mem.ueCnt } }
  | 0x70010 => { s with mem := { s.mem with lateCnt := g s.mem.lateCnt } }
  | 0x70014 => { s with mem := { s.mem with refreshCnt := g s.mem.refreshCnt } }
  | 0x80040 => { s with dvl := { s.dvl with lostCnt := g s.dvl.lostCnt } }
  | 0x80044 => { s with dvl := { s.dvl with msgCrcCnt := g s.dvl.msgCrcCnt } }
  | 0x90010 => { s with ckp := { s.ckp with failCnt := g s.ckp.failCnt } }
  | 0x90014 => { s with ckp := { s.ckp with shrinkCnt := g s.ckp.shrinkCnt } }
  | 0xA0010 => setFn f (fun x => { x with wakeCause := (if cl then 0 else x.wakeCause) ||| word (n % 2 ^ 14) }) s
  | 0xA0038 => { s with pwr := { s.pwr with throttleCnt := g s.pwr.throttleCnt } }
  | _ =>
    if 0x80100 ≤ off && decide (off < 0x80300) && off % 16 == 8 then
      setPort ((off - 0x80100) / 16) (fun x => { x with fecCorr := g x.fecCorr }) s
    else if 0x80100 ≤ off && decide (off < 0x80300) && off % 16 == 12 then
      setPort ((off - 0x80100) / 16) (fun x => { x with
        fecUncorr := min (afterRead cl (n % 65536) x.fecUncorr) 65535
        downs := min (afterRead cl (bits n 31 24) x.downs) 255 }) s
    else s

/-! ### Reads -/

/-- The head entry of a queue as a function sees it (R159): the empty pattern when the queue is empty, or when the entry
is of a context that is not the function's. -/
def headEntry (s : State) (f q : Nat) : Bytes :=
  match (queueOf s q).entries with
  | e :: _ => if isOwner s f || ownsCtx s f (hdrCtx e.hdr) then slice e.hdr 0 64 else List.replicate 64 0xFF
  | [] => List.replicate 64 0xFF

/-- Read word w of MQ_HEAD[q]: word 0 latches the entry, the others return the latched copy if there is one (R159). -/
def readHead (f q w : Nat) (s : State) : State :=
  let cur := headEntry s f q
  if w = 0 then
    emit (.read f (0x34000 + 64 * q) (getLE cur 0 4)) (setFn f (fun x => { x with headLatch := tset x.headLatch q cur }) s)
  else
    let e := ((fnOf s f).headLatch.find? fun e => e.1 == q).map (·.2)
    emit (.read f (0x34000 + 64 * q + 4 * w) (getLE (e.getD cur) (4 * w) 4)) s

/-- Low-word read of a 64-bit register: returns the low word and latches the high word (R10). -/
def readLow (f off : Nat) (s : State) : State :=
  emit (.read f off (regValue s f off)) (setFn f (fun x => { x with readLatch := tset x.readLatch off (regValue s f (off + 4)) }) s)

/-- High-word read: the latched word, or the current one without a low-word read before (R10). -/
def readHigh (f off : Nat) (s : State) : State :=
  let l := ((fnOf s f).readLatch.find? fun e => e.1 == off - 4).map (·.2)
  emit (.read f off (l.getD (regValue s f off))) s

/-- A 32-bit aligned read of any offset of BAR0; `n` is what arrives during it at an RC register (R9-R12, R389). -/
def regRead (f off n : Nat) (s : State) : State :=
  if off % 4 != 0 then emit (.read f off 0) (badAccess f off 4 0 s)
  else if 0x34000 ≤ off && decide (off < 0x38000) then readHead f ((off - 0x34000) / 64) (off % 64 / 4) s
  else if is64 off then readLow f off s
  else if is64 (off - 4) && decide (4 ≤ off) then readHigh f off s
  else
    let v := regValue s f off
    emit (.read f off v) (rcClear f off (isOwner s f || regVisible s f off) n s)

def doReg64LowRead (f off : Nat) (s : State) : State := regRead f off 0 s
def doMqHeadWord0Read (f q : Nat) (s : State) : State := readHead f q 0 s
def doRcRead (f off n : Nat) (s : State) : State := regRead f off n s

/-! ### Writes -/

/-- The bits that exist in an EVENTS register. -/
def eventsMask (off : Nat) : Option Nat := match off with
  | 0x20004 => some 0xF
  | 0x30004 => some 0x1F
  | 0x40004 => some 0xF
  | 0x50004 => some 0xF
  | 0x60004 => some 0xF
  | 0x70004 => some 0x7F
  | 0x80004 => some 0xFFF
  | 0x90004 => some 0xF
  | 0xA0004 => some 0x3F
  | 0xB0004 => some 0x7
  | _ => none

/-- Change an EVENTS register. -/
def updEvents (off : Nat) (g : Word → Word) (s : State) : State := match off with
  | 0x20004 => { s with jig := { s.jig with events := g s.jig.events } }
  | 0x30004 => { s with mq := { s.mq with events := g s.mq.events } }
  | 0x40004 => { s with vnr := { s.vnr with events := g s.vnr.events } }
  | 0x50004 => { s with glu := { s.glu with events := g s.glu.events } }
  | 0x60004 => { s with vnr := { s.vnr with krfEvents := g s.vnr.krfEvents } }
  | 0x70004 => { s with mem := { s.mem with events := g s.mem.events } }
  | 0x80004 => { s with dvl := { s.dvl with events := g s.dvl.events } }
  | 0x90004 => { s with ckp := { s.ckp with events := g s.ckp.events } }
  | 0xA0004 => { s with pwr := { s.pwr with events := g s.pwr.events } }
  | 0xB0004 => { s with dbg := { s.dbg with events := g s.dbg.events } }
  | _ => s

/-- W1C: 1 clears a bit, but not one that the module sets in the same cycle (R11, R12). -/
def w1c (old v setNow : Word) : Word := (old &&& ~~~v) ||| setNow

/-- A write to the MSI-X table (R390, R382): clearing a vector's mask bit sends its pending interrupt. -/
def msixWrite (f o : Nat) (v : Word) (s : State) : State :=
  let k := o - 0x4000
  let s1 := setFn f (fun x => { x with
    msixTable := tset x.msixTable k (if k % 16 = 12 then v.toNat % 2 else if k % 16 = 0 then v.toNat / 4 * 4 else v.toNat) }) s
  let vec := k / 16
  if k % 16 = 12 && !bit v.toNat 0 && (fnOf s f).pba.contains vec then
    interrupt f vec (setFn f (fun x => { x with pba := x.pba.filter (· != vec) }) s1)
  else s1

/-- Set a writable 64-bit register to a new value; the low 12 bits of the ring bases are rsvd (R390). -/
def set64 (f off v : Nat) (s : State) : State := match off with
  | 0x00010 => setFn f (fun x => { x with sq0Base := v / 4096 * 4096 }) s
  | 0x00018 => setFn f (fun x => { x with cq0Base := v / 4096 * 4096 }) s
  | 0x70028 => setFn f (fun x => { x with memSel := v }) s
  | _ => s

def writable64 (off : Nat) : Bool := off == 0x10 || off == 0x18 || off == 0x70028

/-- Is a write to this 64-bit register's ring refused while ENABLE is 1 (R390)? -/
def ringLocked (s : State) (f off : Nat) : Bool := (off == 0x10 || off == 0x18 || off == 0x20) && (fnOf s f).enable

/-- A write of the low word of a writable 64-bit register fills the write latch (R10). -/
def writeLow (f off : Nat) (v : Word) (s : State) : State :=
  if ringLocked s f off then logAccess f off 4 v.toNat s
  else setFn f (fun x => { x with writeLatch := tset x.writeLatch off v.toNat }) s

/-- A write of the high word takes the latched low word, or the current one, and empties the latch (R10). -/
def writeHigh (f off : Nat) (v : Word) (s : State) : State :=
  let lo := off - 4
  if ringLocked s f lo then logAccess f off 4 v.toNat s
  else
    let l := ((fnOf s f).writeLatch.find? fun e => e.1 == lo).map (·.2)
    let s1 := set64 f lo (l.getD (regWord s f lo) + v.toNat * 2 ^ 32) s
    setFn f (fun x => { x with writeLatch := tdel x.writeLatch lo }) s1

/-- The write itself, to a named register that the function may write to. `setNow` is what the module sets in the same
cycle in a W1C register. -/
def regSet (f off : Nat) (v setNow : Word) (s : State) : State :=
  match eventsMask off with
  | some m => updEvents off (fun w => w1c w v (setNow &&& word m)) s
  | none =>
    if writable64 off then writeLow f off v s
    else if decide (4 ≤ off) && writable64 (off - 4) then writeHigh f off v s
    else if 0x1000 ≤ off && decide (off < 0x1200) then
      (if off % 8 = 0 then doSqTail f ((off - 0x1000) / 8) v s else doCqHead f ((off - 0x1000) / 8) v s)
    else if 0x4000 ≤ off && decide (off < 0x4000 + 16 * vectors f) then msixWrite f off v s
    else match off with
    | 0x04 => doFnCtrl f v s
    | 0x20 => if ringLocked s f off then logAccess f off 4 v.toNat s
              else setFn f (fun x => { x with ring0Cfg := v &&& 0x1FFF_1FFF }) s
    | 0x24 => setFn f (fun x => { x with irqCoal := v &&& 0x00FF_FFFF }) s
    | 0x28 => setFn f (fun x => { x with ovfl := (x.ovfl && !bit v.toNat 31) || bit setNow.toNat 31 }) s
    | 0x40010 => setFn f (fun x => { x with vnrSel := v &&& 0x00FF_FFFF }) s
    | 0x6000C => setFn f (fun x => { x with krfSel := v }) s
    | 0x90020 => setFn f (fun x => { x with ckpSel := v }) s
    | 0xA000C => { s with pwr := { s.pwr with wakeEn := (v &&& 0x1FFD) ||| 2 } }
    | _ => s

/-- Doorbells and FN_CTRL, which QUARANTINE leaves working (R404). -/
def passesQuarantine (off : Nat) : Bool := off == 4 || (0x1000 ≤ off && decide (off < 0x1200))

/-- A 32-bit write to any offset of BAR0: refused where R14 and R389 refuse it, ignored in QUARANTINE (R404), else done.
A W1C register takes what the module sets in the same cycle in any case (R12). -/
def regWrite (f off : Nat) (v setNow : Word) (s : State) : State :=
  let modSets := match eventsMask off with
    | some m => updEvents off (fun w => w ||| (setNow &&& word m)) s
    | none => if off = 0x28 then setFn f (fun x => { x with ovfl := x.ovfl || bit setNow.toNat 31 }) s else s
  if off % 4 != 0 || !named f off then badAccess f off 4 v.toNat s
  else if decide (0x20000 ≤ off) && !isOwner s f && !perFn off then badAccess f off 4 v.toNat modSets
  else if (fnOf s f).quarantine && !passesQuarantine off then modSets
  else regSet f off v setNow s

def doReg64LowWrite (f off : Nat) (v : Word) (s : State) : State := regWrite f off v 0 s
def doReg64HighWrite (f off : Nat) (v : Word) (s : State) : State := regWrite f off v 0 s
def doW1cWrite (f off : Nat) (v setNow : Word) (s : State) : State := regWrite f off v setNow s
def doRegisterWrite (f off : Nat) (v : Word) (s : State) : State := regWrite f off v 0 s

/-- An access of another width or alignment: a read returns 0, a write is ignored; both are logged and counted
(R9, R403). -/
def doBadWidth (f off width : Nat) (write : Option Nat) (s : State) : State :=
  match write with
  | some v => badAccess f off width v s
  | none => emit (.read f off 0) (badAccess f off width 0 s)

/-! ### Rows of the table -/

def execReg64LowRead (f : Fin 64) (off : Nat) (s : State) : Host.Outcome State Fault Refusal :=
  .next (settle s (doReg64LowRead f.val off s))

def execReg64LowWrite (f : Fin 64) (off : Nat) (v : Word) (s : State) : Host.Outcome State Fault Refusal :=
  .next (settle s (doReg64LowWrite f.val off v s))

def execReg64HighWrite (f : Fin 64) (off : Nat) (v : Word) (s : State) : Host.Outcome State Fault Refusal :=
  .next (settle s (doReg64HighWrite f.val off v s))

def execMqHeadWord0Read (f : Fin 64) (q : Fin 256) (s : State) : Host.Outcome State Fault Refusal :=
  .next (settle s (doMqHeadWord0Read f.val q.val s))

def execW1cWrite (f : Fin 64) (off : Nat) (v : Word) (setNow : Word) (s : State) : Host.Outcome State Fault Refusal :=
  .next (settle s (doW1cWrite f.val off v setNow s))

def execRcRead (f : Fin 64) (off : Nat) (arriving : Nat) (s : State) : Host.Outcome State Fault Refusal :=
  .next (settle s (doRcRead f.val off arriving s))

def execRegisterWrite (f : Fin 64) (off : Nat) (v : Word) (s : State) : Host.Outcome State Fault Refusal :=
  .next (settle s (doRegisterWrite f.val off v s))

def execBadWidthAccess (f : Fin 64) (off : Nat) (width : Nat) (write : Option Nat) (s : State) :
    Host.Outcome State Fault Refusal :=
  .next (settle s (doBadWidth f.val off width write s))

end Sys2Proof.Machine
end

