-- ==== Sys2Proof/Machine/Flags.lean ====
section
/-! DEFINITION. What ops count beside what they write: kerf counters (R69, R271, R444), exponent histograms (R272), the
loss monitor (R275, R276), and the snapshot that shows all three (R273). -/

namespace Sys2Proof.Machine

/-! ### Kerf counters (R69, R271, R444) -/

/-- One more of a 64-bit saturating counter. -/
def sat64 (n : Nat) : Nat := min (n + 1) (2 ^ 64 - 1)

/-- Is this event an overflow or a NaN (R277)? -/
def nonfiniteEv (e : Nat) : Bool := e == evOvf || e == evNan

/-- Count one event of a context under class and format. -/
def countEvent (c cls fmt ev : Nat) (s : State) : State :=
  setCtx c (fun x => { x with
    kerf := tupd 0 x.kerf (kerfIx cls fmt ev) sat64
    kerfSeen := if nonfiniteEv ev then x.kerfSeen + 1 else x.kerfSeen
    kerfFirst := if nonfiniteEv ev && x.kerfFirst.isNone then some (cls, fmt) else x.kerfFirst }) s

/-- Count the events of an op's output; only formats 0x01-0xB have counters (R271). -/
def countEvents (c cls fmt : Nat) (evs : List Nat) (s : State) : State :=
  if 1 ≤ fmt && fmt ≤ 11 then evs.foldl (fun s e => countEvent c cls fmt e s) s else s

/-- The events of an FP32 value written in the format it was computed in (R444): overflow and flush to zero as its last
operation raised them, subnormal and NaN as written. -/
def fp32Events (r : F32) : List Nat :=
  (r.2.filter fun e => e == evOvf || e == evFlush) ++
    (if isNan32 r.1 then [evNan] else if 0 < r.1 % 2 ^ 31 && r.1 % 2 ^ 31 < 2 ^ 23 then [evSub] else [])

/-- EV_KRF_NONFINITE at a frame boundary after an overflow or NaN counter has increased (R277). -/
def kerfBoundary (c : Nat) (s : State) : State :=
  let x := ctxOf s c
  match x.kerfFirst with
  | none => s
  | some (cls, fmt) =>
    raiseCtx 0x0601 8 c [(1, cls), (1, fmt), (8, x.kerfSeen)]
      (setCtx c (fun x => { x with kerfFirst := none, kerfSeen := 0 }) s)

/-! ### Histograms (R272) -/

/-- The bin of a value as written. -/
def histBin (e0 : Int) (v : Val) : Nat :=
  match v with
  | .num _ 0 _ => 0
  | .num _ m e =>
    let ex := leadExp m e
    if ex ≤ e0 then 1 else if e0 + 61 ≤ ex then 62 else (ex - e0 + 1).toNat
  | _ => 63

def histOf (x : Ctx) (h : Nat) : HistCfg := tget ⟨-40, false⟩ x.histCfg h

/-- Count every element an op writes in its histogram slot; hist 0 counts nothing. -/
def countHist (c h : Nat) (vs : List Val) (s : State) : State :=
  if h = 0 || 16 < h then s
  else setCtx c (fun x => { x with
    hist := vs.foldl (fun t v => tupd 0 t ((h - 1) * 64 + histBin (histOf x h).e0 v) sat64) x.hist }) s

/-- Clear one histogram slot. -/
def clearHist (h : Nat) (x : Ctx) : Ctx := { x with hist := x.hist.filter fun e => e.1 / 64 != h - 1 }

/-- The slots set to clear each step are cleared where the context begins FWD of a new step (R272). -/
def clearStepHists (x : Ctx) : Ctx :=
  (List.range 16).foldl (fun x i => if (histOf x (i + 1)).eachStep then clearHist (i + 1) x else x) x

/-! ### Loss monitor (R275, R276) -/

/-- The step accumulator: fixed anchor 32. -/
def lossElem (m : LossMon) : Elem := ⟨m.acc, 32, m.accP, m.accN, m.accQ⟩

def setLossElem (m : LossMon) (e : Elem) : LossMon := { m with acc := e.acc, accP := e.p, accN := e.n, accQ := e.q }

def maxLossRows : Nat := 8388608

/-- Add one row's loss; rows beyond the limit of one step are left out. -/
def addLoss (m : LossMon) (loss : Nat) : LossMon :=
  if m.rows < maxLossRows then { setLossElem m ((lossElem m).add (f32 loss)) with rows := m.rows + 1 }
  else { m with truncStep := true }

def finiteBits (x : Nat) : Bool := x % 2 ^ 31 < 0x7F80_0000

/-- The update of mean and variance, each operation rounded to FP32 (R275). -/
def lossStats (m : LossMon) (x : Nat) : LossMon :=
  if m.n = 0 then { m with mean := x, var := 0 }
  else
    let d := (sub32 x m.mean).1
    let ad := (mul32 m.alpha d).1
    { m with
      mean := (add32 m.mean ad).1
      var := (mul32 (sub32 0x3F80_0000 m.alpha).1 (add32 m.var (mul32 ad d).1).1).1 }

/-- Does x spike: past the warm-up and above mean + k·√var? -/
def lossSpikes (m : LossMon) (x : Nat) : Bool :=
  m.n != 0 && decide (m.warmup ≤ m.n) && lt32 (add32 m.mean (mul32 m.k (sqrt32 m.var).1).1).1 x

/-- The monitor after a step whose x is finite or not, and whether it raises EV_LOSS_SPIKE. -/
def lossStep (m : LossMon) (x step : Nat) : LossMon × Bool :=
  let m0 := { m with last := x, lastStep := step }
  if !finiteBits x then ({ m0 with nonfinite := m.nonfinite + 1 }, true)
  else
    let sp := lossSpikes m0 x
    let m1 := lossStats m0 x
    ({ m1 with n := m.n + 1, spikes := if sp then m.spikes + 1 else m.spikes }, sp)

/-- The mean loss of the step: the drained sum over the row count. -/
def lossX (m : LossMon) : Nat := (div32 (drain32 (lossElem m)).1 (rat32 m.rows 1)).1

/-- The monitor's update at the boundary where the step moves past BWD (R275). -/
def lossBoundary (c : Nat) (s : State) : State :=
  let x := ctxOf s c
  let m := x.loss
  if m.rows = 0 then s
  else
    let v := lossX m
    let (m1, spike) := lossStep m v x.step
    let m2 := { setLossElem m1 (Elem.zero 32) with
      rows := 0, truncStep := false, truncated := if m.truncStep then m.truncated + 1 else m.truncated }
    let s1 := setCtx c (fun x => { x with loss := m2 }) s
    if spike then
      raiseCtx 0x0602 8 c [(4, x.step), (4, v), (4, m.mean), (4, m.var), (1, b2n (!finiteBits v))] s1
    else s1

/-- The 64 B loss monitor block (R276). -/
def lossBytes (m : LossMon) : Bytes :=
  [m.mean, m.var, m.last, m.k, m.alpha, m.warmup, m.n, m.spikes, m.nonfinite, m.lastStep, m.truncated, 0, 0, 0, 0, 0].flatMap
    (toLE 4)

/-! ### The snapshot (R273) -/

/-- The 15,360 B snapshot of a context. -/
def kerfSnapshotBytes (s : State) (c : Nat) : Bytes :=
  let x := ctxOf s c
  (toLE 4 0x464B_5855 ++ toLE 2 c ++ toLE 2 0 ++ toLE 4 x.tenant ++ toLE 4 x.step ++ toLE 8 s.now ++ List.replicate 40 0) ++
  ((List.range 880).flatMap fun i => toLE 8 (tget 0 x.kerf i)) ++
  ((List.range 1024).flatMap fun i => toLE 8 (tget 0 x.hist i)) ++ lossBytes x.loss

/-- A clear takes the counts away, not the event due for an increase that has been (R277). -/
def clearKerf (x : Ctx) : Ctx := { x with kerf := [] }

/-- Clear the loss monitor except k, alpha and warmup (R284). -/
def clearLoss (x : Ctx) : Ctx :=
  { x with loss := { LossMon.reset with k := x.loss.k, alpha := x.loss.alpha, warmup := x.loss.warmup } }

end Sys2Proof.Machine
end

