-- ==== Sys2Proof/Machine/Parts.lean ====
section
/-! DEFINITION. The part of a capture that a member holds (R365, R366): what it takes at its boundary, and what programs
that started before the boundary and end after it still bring to it. -/

namespace Sys2Proof.Machine

/-! ### The part of a capture (R366, R367) -/

/-- Contents of an object by its handle. -/
def contents (s : State) (h : Nat) : Bytes := objBytes s h 0 (objSize s h)

/-- Granules of the tile stores and windows tagged with a context (R109). -/
def partGranules (s : State) (c : Nat) : List (Bool × Nat × Bytes) :=
  (s.tile.tiles.flatMap fun t => t.2.tags.filterMap fun g =>
    if g.2 = c then some (false, g.1, memRead s.tile.store (g.1 * 65536) 65536) else none) ++
  s.tile.wtags.filterMap fun g => if g.2 = c then some (true, g.1, memRead s.tile.window (g.1 * 65536) 65536) else none

/-- Posted entries that name a context, with their slots (R157). -/
def partEntries (s : State) (c : Nat) : List (Nat × Bytes × Bytes) :=
  s.mq.queues.flatMap fun q => q.2.entries.filterMap fun e =>
    if hdrCtx e.hdr = c then some (q.1, e.hdr, objBytes s q.2.handle (e.slot * slotBytes q.2) (hdrLen e.hdr)) else none

/-- READY versions of a context, by reference and with the bytes that are copied (R365, R367). -/
def partVersions (s : State) (c : Nat) : List VerPart :=
  (ctxOf s c).vers.flatMap fun t => (t.2.mapIdx fun i v => (i, v)).filterMap fun e =>
    if e.2.state = 2 then some ⟨t.1, e.1, e.2.objects.map fun o => (o.1, o.2, contents s o.2)⟩ else none

/-- State, error and gradient objects (R258). -/
def partTraining (s : State) (x : Ctx) : List (Nat × Nat × Bytes) :=
  (x.stateObj.map fun e => (e.1, 0, contents s e.2)) ++ (x.errObj.map fun e => (e.1, 1, contents s e.2)) ++
    x.gradObj.map fun e => (e.1, 2, contents s e.2)

/-- The whole part of context c. The jig position is that of the frame that begins: cycle position and frame within the
visit of the bank that runs it (R222). -/
def ckpPart (s : State) (c : Nat) (digest pos visit : Nat) : Part :=
  let x := ctxOf s c
  { ctx := c, snap := x, granules := partGranules s c, entries := partEntries s c
    windows := s.mq.bindings.flatMap fun b => b.2.window.filterMap fun w =>
      if w.2.1 = c then some (b.1, w.1, w.2.2) else none
    bindings := s.mq.bindings.filterMap fun b =>
      if (ctxStages s c).any (fun r => r.stage == b.2.srcStage) then some (b.1, b.2.credits, b.2.seq) else none
    versions := partVersions s c, training := partTraining s x, hyper := contents s x.hyper
    deferred := s.glu.deferred.filter fun d => d.key.job == x.job
    bankDigest := digest, pos := pos, visit := visit, job := jobOf s x.job }

/-! ### Programs that were running at the boundary (R365) -/

/-- What a program brings to a value that the capture holds: the new value where the program changes it, else the captured
one. -/
def bring {α : Type} [DecidableEq α] (before after held : α) : α := if before = after then held else after

/-- The same for bytes, one by one. -/
def bringBytes (before after held : Bytes) : Bytes :=
  (List.range held.length).map fun i => bring (before.getD i 0) (after.getD i 0) (held.getD i 0)

/-- The same for a collection: what the program takes out goes, what it puts in comes. -/
def bringList {α : Type} [DecidableEq α] (before after held : List α) : List α :=
  held.filter (fun x => after.contains x || !before.contains x) ++ after.filter fun x => !before.contains x

/-- The same for counters: what the program adds. -/
def bringCounts (before after held : Tab Nat) : Tab Nat :=
  after.foldl (fun t e => tset t e.1 (tget 0 held e.1 + (e.2 - tget 0 before e.1))) held

/-- The same for keyed contents. -/
def bringTable {κ : Type} [DecidableEq κ] (before after held : List (κ × Bytes)) : List (κ × Bytes) :=
  let at_ (l : List (κ × Bytes)) (k : κ) : Bytes := ((l.find? fun e => decide (e.1 = k)).map (·.2)).getD []
  (held.map fun e => if after.any (fun x => decide (x.1 = e.1)) then (e.1, bringBytes (at_ before e.1) (at_ after e.1) e.2) else e) ++
    after.filter fun e => !held.any fun x => decide (x.1 = e.1)

/-- What a program of a context changes in the context itself (R366). -/
def bringCtx (a b x : Ctx) : Ctx :=
  { x with
    vers := bring a.vers b.vers x.vers, inflight := bring a.inflight b.inflight x.inflight
    kerf := bringCounts a.kerf b.kerf x.kerf, kerfSeen := x.kerfSeen + (b.kerfSeen - a.kerfSeen)
    kerfFirst := bring a.kerfFirst b.kerfFirst x.kerfFirst, hist := bringCounts a.hist b.hist x.hist
    loss := bring a.loss b.loss x.loss, fps := bringList a.fps b.fps x.fps, ledger := bringList a.ledger b.ledger x.ledger
    ledgerFull := bring a.ledgerFull b.ledgerFull x.ledgerFull, deferrals := x.deferrals + (b.deferrals - a.deferrals)
    drops := x.drops + (b.drops - a.drops), mismatches := x.mismatches + (b.mismatches - a.mismatches) }

/-- What a step of a program that was running at the boundary brings to a part: the part as it would be taken before the
step (`a`) and after it (`b`). -/
def bringPart (a b p : Part) : Part :=
  let key2 (l : List (Nat × Nat × Bytes)) : List ((Nat × Nat) × Bytes) := l.map fun g => ((g.1, g.2.1), g.2.2)
  let keyG (l : List (Bool × Nat × Bytes)) : List ((Bool × Nat) × Bytes) := l.map fun g => ((g.1, g.2.1), g.2.2)
  { p with
    snap := bringCtx a.snap b.snap p.snap
    granules := (bringTable (keyG a.granules) (keyG b.granules) (keyG p.granules)).map fun g => (g.1.1, g.1.2, g.2)
    entries := bringList a.entries b.entries p.entries, windows := bringList a.windows b.windows p.windows
    bindings := p.bindings.map fun x =>
      match a.bindings.find? (fun y => y.1 == x.1), b.bindings.find? (fun y => y.1 == x.1) with
      | some y, some z => bring y z x
      | _, _ => x
    training := (bringTable (key2 a.training) (key2 b.training) (key2 p.training)).map fun g => (g.1.1, g.1.2, g.2)
    deferred := bringList a.deferred b.deferred p.deferred }

/-- The program a tile runs, as a capture names it. -/
def runs (s : State) (t : Nat) : Option (Nat × Nat × Nat) := (tileOf s t).prog.map fun p => (t, p.1, p.2.1)

/-- Programs under way that act for a context, by their row or by name. -/
def programsFor (s : State) (c : Nat) : List (Nat × Nat × Nat) :=
  s.tile.tiles.filterMap fun t =>
    let row := t.2.sel.orElse fun _ => t.2.rowHeld
    let byName := t.2.slotOps.any fun o => o.1 == t.1 && !bit (getLE o.2 2 2) 15 && getLE o.2 2 2 % 4096 == c
    if row == some c || byName then runs s t.1 else none

/-- Does a capture wait for the program that tile t runs? -/
def waitsFor (s : State) (t : Nat) (k : Capture) : Bool := (runs s t).any k.late.contains

/-- What a step of tile t's program did goes into the captures that were taken while it ran. -/
def keepLate (t : Nat) (s0 s1 : State) : State :=
  let g (k : Capture) : Capture :=
    if waitsFor s0 t k then { k with part := k.part.map fun p => bringPart (ckpPart s0 p.ctx 0 0 0) (ckpPart s1 p.ctx 0 0 0) p } else k
  if s1.ckp.captures.any (waitsFor s0 t) then { s1 with ckp := { s1.ckp with captures := s1.ckp.captures.map g } } else s1

/-- Has every program that a capture waits for ended? -/
def noneLate (s : State) (k : Capture) : Bool := k.late.all fun r => runs s r.1 != some r

end Sys2Proof.Machine
end

