-- ==== Sys2Proof/Machine/Operands.lean ====
section
/-! DEFINITION. Op descriptors: the common header (R103, R104), which operands every kind has and the static checks of
its fields (R94-R98, R112-R129, R151-R154, R227-R233, R260-R279), and the operand spaces an op reads and writes
(R93, R109-R111, R153). -/

namespace Sys2Proof.Machine

/-! ### Common header (R103) -/

def dKind (d : Bytes) : Nat := getLE d 0 1
def dFlags (d : Bytes) : Nat := getLE d 1 1
def dRow (d : Bytes) : Bool := bit (getLE d 2 2) 15
def dCtx (d : Bytes) : Nat := getLE d 2 2 % 4096
def dClass (d : Bytes) : Nat := getLE d 4 1 % 16
def dHist (d : Bytes) : Nat := getLE d 5 1
def dBudget (d : Bytes) : Nat := getLE d 8 4
def dSeq (d : Bytes) : Nat := getLE d 0x0C 2
def dLast (d : Bytes) : Bool := bit (dFlags d) 1

/-- Extension record i (1 or 2) of an op. -/
def dExt (d : Bytes) (i : Nat) : Bytes := slice d (64 * i) 64

/-- The check field of a record: bits [15:0] of the CRC-32C over its 64 bytes with the field set to 0. -/
def checkOk (d : Bytes) : Bool := getLE d 0x0E 2 == crc32c (setLE (slice d 0 64) 0x0E 2 0) % 65536

/-- Does an attention descriptor name a ring (R112)? -/
def attnRing (d : Bytes) : Bool := bit (getLE d 0x34 1) 6

/-- Extension records a kind has (R104, R105, R117, R227). -/
def extCount (d : Bytes) : Nat :=
  match dKind d with
  | 0x03 => 1
  | 0x04 => 1
  | 0x05 => 1
  | 0x16 => 1
  | 0x06 => b2n (attnRing d)
  | 0x07 => 1 + b2n (attnRing d)
  | _ => 0

/-- Bytes of the record run of an op. -/
def opBytes (d : Bytes) : Nat := 64 * (1 + extCount d)

/-- The collective extension record of an op that has one (R227). -/
def collExt (d : Bytes) : Bytes := dExt d (if dKind d = 0x07 then 2 else 1)

/-- Does the op carry a collective (R227)? -/
def isColl (d : Bytes) : Bool :=
  dKind d == 3 || dKind d == 4 || dKind d == 5 || dKind d == 0x16 || ((dKind d == 6 || dKind d == 7) && attnRing d)

/-- The header of the op itself. -/
def hdrFieldsOk (d : Bytes) : Bool :=
  1 ≤ dKind d && dKind d ≤ 0x18 && dFlags d == b2n (extCount d != 0) + b2n (dLast d) * 2 &&
  bits (getLE d 2 2) 14 12 == 0 && (!dRow d || dCtx d == 0) && decide (getLE d 4 1 < 16) && decide (dHist d ≤ 16) &&
  getLE d 6 2 == 0 && 1 ≤ dBudget d && decide (dBudget d ≤ 1000000)

/-- The header of extension record i, of n. The last flag stays with the op. -/
def extFieldsOk (d : Bytes) (n i : Nat) : Bool :=
  let e := dExt d i
  dKind e == dKind d + 128 && dFlags e == b2n (i != n) && zeroAt e [(2, 6), (8, 4)] && dSeq e == dSeq d + i && checkOk e

/-! ### Sizes (R44, R93, R111) -/

def align64 (n : Nat) : Nat := (n + 63) / 64 * 64

/-- Blocks of one row. -/
def blocksOf (n : Nat) : Nat := (n + 31) / 32

/-- Grid operands: every row starts on a byte boundary (R93). -/
def rowBytes (fmt rows len : Nat) : Nat := rows * fmtBytes fmt len

/-- Elements with their trailing scale array, for an operand without a scale field (R111). -/
def trailing (fmt elemBytes rows len : Nat) : Nat :=
  if isMx fmt then align64 elemBytes + rows * blocksOf len else elemBytes

/-- A vector operand of `count` elements in rows of `len`, scales behind it (R44, R111; log entry 34). -/
def vecBytes (fmt count len : Nat) : Nat := trailing fmt (fmtBytes fmt count) (count / max len 1) len

/-- Bytes of B in panel order, and of its scales (R93). -/
def panelBytes (fmt k : Nat) : Nat := fmtBytes fmt (128 * k)
def bBytes (fmt k n : Nat) : Nat := (n + 127) / 128 * panelBytes fmt k
def bScaleBytes (k n : Nat) : Nat := (n + 127) / 128 * blocksOf k * 128

/-! ### Fields -/

/-- GEMM fields (R94). -/
def gM (d : Bytes) : Nat := getLE d 0x28 2
def gN (d : Bytes) : Nat := getLE d 0x2A 2
def gK (d : Bytes) : Nat := getLE d 0x2C 4
def gFa (d : Bytes) : Nat := getLE d 0x30 1
def gFb (d : Bytes) : Nat := getLE d 0x31 1
def gFc (d : Bytes) : Nat := getLE d 0x32 1
def gMode (d : Bytes) : Nat := getLE d 0x33 1
def gEpi (d : Bytes) : Nat := bits (gMode d) 4 3
def gGroup (d : Bytes) : Nat := bits (gMode d) 7 5
def gFill (d : Bytes) : Nat := getLE d 0x38 2

/-- Rounding and saturation of a mode byte (R58). -/
def modeRnd (m : Nat) : Nat := m % 4
def modeNonsat (m : Nat) : Bool := bit m 2
def modeOk (m top : Nat) : Bool := decide (m % 4 < 2) && decide (m < top)

/-- Attention fields (R112). -/
def aDim (d : Bytes) : Nat := 64 * 2 ^ (getLE d 0x34 1 % 4)
def aCausal (d : Bytes) : Bool := bits (getLE d 0x34 1) 3 2 == 1
def aBlock (d : Bytes) : Nat := if bits (getLE d 0x34 1) 5 4 = 0 then 128 else 256
def aQpos (d : Bytes) : Nat := getLE d 0x28 4
def aKv (d : Bytes) : Nat := getLE d 0x2C 4
def aTok (d : Bytes) : Nat := getLE d 0x30 2
def aHq (d : Bytes) : Nat := getLE d 0x32 1
def aHkv (d : Bytes) : Nat := getLE d 0x33 1
def aHandle (d : Bytes) : Nat := getLE d 0x18 8
def aFqk (d : Bytes) : Nat := getLE d 0x35 1
def aFv (d : Bytes) : Nat := getLE d 0x36 1
def aFo (d : Bytes) : Nat := getLE d 0x37 1

/-- Collective fields (R229). -/
def cId (e : Bytes) : Nat := getLE e 0x10 4
def cN (e : Bytes) : Nat := getLE e 0x14 4 % 2 ^ 18
def cRank (e : Bytes) : Nat := getLE e 0x18 4 % 2 ^ 18
def cCount (e : Bytes) : Nat := getLE e 0x1C 4
def cOff (e : Bytes) : Nat := getLE e 0x20 4
def cLen (e : Bytes) : Nat := getLE e 0x24 4
def cType (e : Bytes) : Nat := getLE e 0x28 1
def cOp (e : Bytes) : Nat := getLE e 0x29 1
def cMode (e : Bytes) : Nat := getLE e 0x2A 1
def cArrival (e : Bytes) : Bool := bit (cMode e) 0
def cNative (e : Bytes) : Bool := bit (cMode e) 1
def cDrop (e : Bytes) : Bool := bit (cMode e) 2
def cTable (e : Bytes) : Nat := getLE e 0x2C 4
def cGather (e : Bytes) : Nat := getLE e 0x30 4
def cWait (e : Bytes) : Nat := getLE e 0x34 2

/-- Row length L of a collective (R227). -/
def collL (d : Bytes) : Nat :=
  match dKind d with
  | 3 => gN d
  | 5 => gN d
  | 4 => gK d
  | 0x16 => 1
  | _ => aHkv d * aDim d

/-- Rows H of the full tensor (R231). -/
def collH (d : Bytes) : Nat := cCount (collExt d) / max (collL d) 1

/-- First row of chunk j, of N chunks over H rows (R231); chunk j ends where chunk j + 1 begins. -/
def chunkAt (h n j : Nat) : Nat := j * h / max n 1

/-- Rows of a part that lie in the chunk of rank j. -/
def partInChunk (e : Bytes) (h j : Nat) : List Nat :=
  (List.range (cLen e)).filterMap fun i =>
    let r := cOff e + i
    if chunkAt h (cN e) j ≤ r && decide (r < chunkAt h (cN e) (j + 1)) then some r else none

/-! ### Operands in the operand spaces -/

/-- One operand field: its value, the spaces its layout table allows, its extent in bytes, and whether it is written. -/
structure Opnd where
  field : Nat
  spaces : List Nat
  len : Nat
  write : Bool
  deriving DecidableEq, Repr

def opndIf (c : Bool) (o : Opnd) : List Opnd := if c then [o] else []

/-- Operands of GEMM and its fused forms (R94, R97, R232; log entry 35 for the rows that parts of a collective hold). -/
def gemmOpnds (d : Bytes) : List Opnd :=
  let e := collExt d
  let kind := dKind d
  let own := partInChunk e (collH d) (cRank e)
  let mA := if kind = 4 then own.length else if isColl d then cLen e else gM d
  let mC := if kind = 3 then own.length else if isColl d then cLen e else gM d
  let cEl := rowBytes (gFc d) mC (gN d)
  [⟨getLE d 0x10 4, [0, 1, 2], rowBytes (gFa d) mA (gK d), false⟩,
   ⟨getLE d 0x18 4, [0, 3], bBytes (gFb d) (gK d) (gN d), false⟩,
   ⟨getLE d 0x20 4, if kind = 2 then [4] else [0, 2],
     if kind = 2 then trailing (gFc d) cEl mC (gN d) else cEl, true⟩] ++
  opndIf (isMx (gFa d)) ⟨getLE d 0x14 4, [0, 1, 2], mA * blocksOf (gK d), false⟩ ++
  opndIf (isMx (gFb d)) ⟨getLE d 0x1C 4, [0, 3], bScaleBytes (gK d) (gN d), false⟩ ++
  opndIf (isMx (gFc d) && kind != 2) ⟨getLE d 0x24 4, [0, 2], mC * blocksOf (gN d), true⟩ ++
  opndIf (gEpi d != 0) ⟨getLE d 0x3E 2 * 256, [0], gN d * 4, false⟩ ++
  opndIf (kind == 4) ⟨cGather e, [0, 2], trailing (gFa d) (rowBytes (gFa d) (cLen e) (gK d)) (cLen e) (gK d), true⟩

/-- Operands of ATTN_FWD and ATTN_BWD (R112, R117). The tables name no spaces for do_src, o_src and dq_dst: log entry 99. -/
def attnOpnds (d : Bytes) : List Opnd :=
  let x := dExt d 1
  let fwd := dKind d == 6
  let q := aTok d * aHq d
  let kv := aHkv d * aKv d
  let t (fmt rows : Nat) : Nat := trailing fmt (fmtBytes fmt (rows * aDim d)) rows (aDim d)
  [⟨getLE d 0x10 4, [0, 1, 2], t (aFqk d) q, false⟩,
   ⟨getLE d 0x14 4, if fwd then [0, 2, 4] else [0, 1, 2], t (aFo d) q, fwd⟩] ++
  opndIf (aHandle d == 0) ⟨getLE d 0x20 4, [0], t (aFqk d) kv, false⟩ ++
  opndIf (aHandle d == 0) ⟨getLE d 0x24 4, [0], t (aFv d) kv, false⟩ ++
  opndIf (getLE d 0x38 4 != 0) ⟨getLE d 0x38 4, [0, 2], 4 * q, fwd⟩ ++
  (if fwd then [] else
    [⟨getLE x 0x10 4, [0, 1, 2], t (aFo d) q, false⟩, ⟨getLE x 0x14 4, [0, 2, 4], t (getLE x 0x20 1) q, true⟩,
     ⟨getLE x 0x18 4, [0, 2], t (getLE x 0x21 1) kv, true⟩, ⟨getLE x 0x1C 4, [0, 2], t (getLE x 0x21 1) kv, true⟩])

/-- ELEMWISE fields (R119). -/
def eCount (d : Bytes) : Nat := getLE d 0x20 4
def eLen (d : Bytes) : Nat := getLE d 0x24 2
def eFunc (d : Bytes) : Nat := getLE d 0x26 1
def eBcast (d : Bytes) : Nat := getLE d 0x27 1
def eFa (d : Bytes) : Nat := getLE d 0x28 1
def eFb (d : Bytes) : Nat := getLE d 0x29 1
def eFc (d : Bytes) : Nat := getLE d 0x2A 1
def eFd (d : Bytes) : Nat := getLE d 0x2B 1

/-- Functions of R120 with a second and a third operand. -/
def usesB (f : Nat) : Bool := [1, 2, 3, 4, 5, 6, 7, 0x10, 0x14].contains f
def usesC (f : Nat) : Bool := f == 4 || f == 0x14

/-- Operands of ELEMWISE (R119). The table names no spaces for src_b and src_c; the model allows those of src_a (log entry
99). -/
def elemOpnds (d : Bytes) : List Opnd :=
  let n := eCount d
  let l := eLen d
  let nb := if bit (eBcast d) 2 then 1 else if bit (eBcast d) 0 then l else n
  let nc := if bit (eBcast d) 1 then l else n
  let rope := eFunc d == 0x14
  [⟨getLE d 0x10 4, [0, 1, 2, 3], vecBytes (eFa d) n l, false⟩, ⟨getLE d 0x1C 4, [0, 2, 4], vecBytes (eFd d) n l, true⟩] ++
  opndIf (usesB (eFunc d)) ⟨getLE d 0x14 4, [0, 1, 2, 3],
    if rope then getLE d 0x38 4 * l * 4 else vecBytes (eFb d) nb (if bit (eBcast d) 2 then 1 else l), false⟩ ++
  opndIf (usesC (eFunc d)) ⟨getLE d 0x18 4, [0, 1, 2, 3], if rope then n / max l 1 * 4 else vecBytes (eFc d) nc l, false⟩

/-- NORM fields (R122). -/
def nRows (d : Bytes) : Nat := getLE d 0x28 4
def nLen (d : Bytes) : Nat := getLE d 0x2C 2
def nKind (d : Bytes) : Nat := getLE d 0x2E 1
def nBwd (d : Bytes) : Bool := bit (nKind d) 1

/-- Operands of NORM (R122). The table names no spaces for beta, stats and dy, and no format for dy: log entry 99. -/
def normOpnds (d : Bytes) : List Opnd :=
  let n := nRows d * nLen d
  let fi := getLE d 0x30 1
  let fo := getLE d 0x31 1
  [⟨getLE d 0x10 4, [0, 1, 2], vecBytes fi n (nLen d), false⟩, ⟨getLE d 0x14 4, [0, 2, 4], vecBytes fo n (nLen d), true⟩,
   ⟨getLE d 0x18 4, [0, 3], 4 * nLen d, false⟩] ++
  (if nBwd d then
    [⟨getLE d 0x1C 4, [0, 2], 8 * nLen d, true⟩, ⟨getLE d 0x20 4, [0, 2], 8 * nRows d, false⟩,
     ⟨getLE d 0x24 4, [0, 1, 2], vecBytes fi n (nLen d), false⟩]
  else
    opndIf (getLE d 0x1C 4 != 0) ⟨getLE d 0x1C 4, [0, 3], 4 * nLen d, false⟩ ++
    opndIf (getLE d 0x20 4 != 0) ⟨getLE d 0x20 4, [0, 2], 8 * nRows d, true⟩)

/-- Operands of CAST (R124). The table names no spaces for the scale arrays: log entry 99. -/
def castOpnds (d : Bytes) : List Opnd :=
  let n := getLE d 0x20 4
  let l := getLE d 0x2C 2
  let fi := getLE d 0x24 1
  let fo := getLE d 0x25 1
  let sc := n / max l 1 * blocksOf l
  [⟨getLE d 0x10 4, [0, 1, 2, 3], fmtBytes fi n, false⟩, ⟨getLE d 0x18 4, [0, 2, 4], fmtBytes fo n, true⟩] ++
  opndIf (isMx fi) ⟨getLE d 0x14 4, [0, 1, 2, 3], sc, false⟩ ++ opndIf (isMx fo) ⟨getLE d 0x1C 4, [0, 2, 4], sc, true⟩

/-- COPY fields (R125). -/
def yLen (d : Bytes) : Nat := getLE d 0x30 4
def yRows (d : Bytes) : Nat := getLE d 0x34 2

/-- Bytes from the first to past the last byte of a strided run. -/
def spanOf (rows stride len : Nat) : Nat := if len = 0 then 0 else (rows - 1) * stride + len

def copyOpnds (d : Bytes) : List Opnd :=
  opndIf (getLE d 0x10 8 == 0) ⟨getLE d 0x20 4, [0, 1, 2], spanOf (yRows d) (getLE d 0x38 4) (yLen d), false⟩ ++
  opndIf (getLE d 0x18 8 == 0) ⟨getLE d 0x28 4, [0, 2, 4], spanOf (yRows d) (getLE d 0x3C 4) (yLen d), true⟩

/-- GATHER fields (R128). -/
def ghCount (d : Bytes) : Nat := getLE d 0x28 4
def ghRow (d : Bytes) : Nat := getLE d 0x2C 4
def ghRows (d : Bytes) : Nat := getLE d 0x30 4
def ghMode (d : Bytes) : Nat := getLE d 0x34 1

/-- Operands of GATHER (R128). The table names no spaces for the rows that modes 1 and 2 add: log entry 99. -/
def gatherOpnds (d : Bytes) : List Opnd :=
  [⟨getLE d 0x20 4, [0, 1, 2], 4 * ghCount d, false⟩,
   ⟨getLE d 0x24 4, if ghMode d = 0 then [0, 2, 4] else [0, 1, 2], ghCount d * ghRow d, ghMode d == 0⟩]

/-- EMBED fields (R129). -/
def mCount (d : Bytes) : Nat := getLE d 0x20 4
def mDim (d : Bytes) : Nat := getLE d 0x24 2

def embedOpnds (d : Bytes) : List Opnd :=
  [⟨getLE d 0x10 4, [0, 1], 4 * mCount d, false⟩,
   ⟨getLE d 0x14 4, [0, 2, 4], vecBytes (getLE d 0x27 1) (mCount d * mDim d) (mDim d), true⟩]

/-- Operands of BARRIER (R233); NONE copies the contributions unchanged (R228), in their own format. -/
def barrierOpnds (d : Bytes) : List Opnd :=
  let e := collExt d
  let out := if cOp e = 3 then cType e else getLE d 0x18 1
  opndIf (cCount e != 0) ⟨getLE d 0x10 4, [0, 1, 2], vecBytes (cType e) (cLen e) (cLen e), false⟩ ++
  opndIf (cCount e != 0) ⟨getLE d 0x14 4, [0, 2, 4], vecBytes out (cLen e) (cLen e), true⟩

def gradOpnds (d : Bytes) : List Opnd :=
  let n := getLE d 0x20 4
  let l := getLE d 0x24 2
  [⟨getLE d 0x10 4, [0, 2], fmtBytes (getLE d 0x26 1) n, false⟩, ⟨getLE d 0x14 4, [0, 2], 2 * n, true⟩,
   ⟨getLE d 0x18 4, [0, 2, 4], n, true⟩, ⟨getLE d 0x1C 4, [0, 2, 4], n / max l 1 * blocksOf l, true⟩]

def adamOpnds (d : Bytes) : List Opnd :=
  let n := getLE d 0x30 4
  [⟨getLE d 0x20 4, [0, 2], fmtBytes (getLE d 0x34 1) n, false⟩, ⟨getLE d 0x28 4, [0, 2, 4], fmtBytes (getLE d 0x35 1) n, true⟩] ++
  opndIf (getLE d 0x34 1 == 8) ⟨getLE d 0x24 4, [0, 2], blocksOf n, false⟩ ++
  opndIf (getLE d 0x35 1 == 7) ⟨getLE d 0x2C 4, [0, 2, 4], blocksOf n, true⟩

/-- SOFTMAX_XENT and DISTILL_KL fields (R267). -/
def xRows (d : Bytes) : Nat := getLE d 0x20 4
def xVocab (d : Bytes) : Nat := getLE d 0x24 4

def lossOpnds (d : Bytes) : List Opnd :=
  let n := xRows d * xVocab d
  [⟨getLE d 0x10 4, [0, 1, 2], fmtBytes (getLE d 0x28 1) n, false⟩,
   ⟨getLE d 0x14 4, [0, 1, 2], xRows d * (if dKind d = 0x0A then 4 else 576), false⟩,
   ⟨getLE d 0x18 4, [0, 2, 4], vecBytes (getLE d 0x29 1) n (xVocab d), true⟩] ++
  opndIf (getLE d 0x1C 4 != 0) ⟨getLE d 0x1C 4, [0, 2], 4 * xRows d, true⟩

def topkOpnds (d : Bytes) : List Opnd :=
  [⟨getLE d 0x10 4, [0, 1, 2], fmtBytes (getLE d 0x21 1) (getLE d 0x18 4 * getLE d 0x1C 4), false⟩,
   ⟨getLE d 0x14 4, [0, 2, 4], 576 * getLE d 0x18 4, true⟩]

/-- Does an op with nothing to do write nothing and complete (R96, R113, R120, R123, R124, R126, R130, R261, R264, R270,
and rows = 0 of TOPK_LOGITS)? A SEND or GEMM_SEND of nothing still takes part in its send group (R155). That ATTN_BWD
with no query token and no ring writes nothing, dK and dV included, is the model's reading of R113 (log entry 98). -/
def opEmpty (d : Bytes) : Bool :=
  match dKind d with
  | 1 => gM d == 0
  | 6 => aTok d == 0 && !attnRing d
  | 7 => aTok d == 0 && !attnRing d
  | 8 => eCount d == 0
  | 9 => nRows d == 0
  | 0x0A => xRows d == 0
  | 0x0B => xRows d == 0
  | 0x0C => getLE d 0x30 4 == 0
  | 0x0D => getLE d 0x20 4 == 0
  | 0x0E => getLE d 0x20 4 == 0
  | 0x0F => yLen d == 0
  | 0x10 => ghCount d == 0
  | 0x17 => mCount d == 0
  | 0x18 => getLE d 0x18 4 == 0
  | _ => false

/-- The operand fields of an op. -/
def opnds (d : Bytes) : List Opnd :=
  match dKind d with
  | 1 => gemmOpnds d
  | 2 => gemmOpnds d
  | 3 => gemmOpnds d
  | 4 => gemmOpnds d
  | 5 => gemmOpnds d
  | 6 => attnOpnds d
  | 7 => attnOpnds d
  | 8 => elemOpnds d
  | 9 => normOpnds d
  | 0x0A => lossOpnds d
  | 0x0B => lossOpnds d
  | 0x0C => adamOpnds d
  | 0x0D => gradOpnds d
  | 0x0E => castOpnds d
  | 0x0F => copyOpnds d
  | 0x10 => gatherOpnds d
  | 0x11 => [⟨getLE d 0x14 4, [0, 4], getLE d 0x18 4, false⟩]
  | 0x13 => opndIf (getLE d 0x10 8 == 0) ⟨getLE d 0x18 4, [0, 2], getLE d 0x20 8, false⟩
  | 0x14 => opndIf (getLE d 0x10 8 == 0) ⟨getLE d 0x18 4, [0, 2], 15360, true⟩
  | 0x16 => barrierOpnds d
  | 0x17 => embedOpnds d
  | 0x18 => topkOpnds d
  | _ => []

/-- An operand field as the loader checks it: its space allowed, its offset a multiple of 64, and inside the tile store
or the window of W bytes (R93, R96, R111, R131). -/
def opndOk (w : Nat) (o : Opnd) : Bool :=
  let sp := o.field / 2 ^ 28
  let off := o.field % 2 ^ 28
  o.spaces.contains sp && off % 64 == 0 && (sp != 0 || decide (off + o.len ≤ 2 ^ 22)) && (sp != 2 || decide (off + o.len ≤ w))

/-- Does the op name space 0x1 or 0x4 (R152, R153)? -/
def namesBlock (d : Bytes) : Bool := (opnds d).any fun o => o.field / 2 ^ 28 == 1 || o.field / 2 ^ 28 == 4

/-! ### Static checks by kind -/

/-- R41 tables: a format the vector unit loads. -/
def attnFmt (c : Nat) : Bool := c == 2 || c == 3 || c == 4 || c == 7

/-- FP32 x > 0 and finite. -/
def posF32 (x : Nat) : Bool := 0 < x && x < 0x7F80_0000

/-- GEMM and its forms (R94-R97, R227). The K range of R53 counts every member that contributes to a block. -/
def gemmOk (d : Bytes) : Bool :=
  let coll := isColl d
  let k1 := (if dKind d = 3 ∨ dKind d = 5 then gK d * cN (collExt d) else gK d) + b2n (gEpi d != 0)
  gridPair (gFa d) (gFb d) && (drainOut (gFc d) || gFc d == 0x0D) && modeOk (gMode d % 8) 8 && decide (gEpi d < 3) &&
  1 ≤ gN d && 1 ≤ gK d && decide (k1 ≤ 8388608) && (!(isMx (gFa d)) || gK d % 32 == 0) &&
  (isMx (gFa d) || getLE d 0x14 4 == 0) && (isMx (gFb d) || getLE d 0x1C 4 == 0) &&
  (dKind d == 2 || isMx (gFc d) || getLE d 0x24 4 == 0) && (dKind d != 2 || getLE d 0x24 4 < 2048) &&
  (gEpi d != 0 || getLE d 0x3E 2 == 0) && (gEpi d != 2 || gFc d != 0x0D) && decide (gFill d ≤ 128) &&
  (if gFill d = 0 then getLE d 0x3A 2 == 0 && getLE d 0x3C 2 == 0 else 1 ≤ getLE d 0x3A 2) &&
  (gGroup d == 0 || gFc d == 0x0D) && (!coll || (gFill d == 0 && gGroup d == 0))

/-- R112, R113, R114, R117; in P × V the keys are the K dimension of the grid product (R46). -/
def attnOk (d : Bytes) : Bool :=
  let g := getLE d 0x34 1
  let x := dExt d 1
  let n := if attnRing d then cN (collExt d) else 1
  decide (g < 128) && g % 4 != 3 && decide (bits g 3 2 < 2) && decide (bits g 5 4 < 2) &&
  attnFmt (aFqk d) && attnFmt (aFv d) && drainOut (aFo d) && gridPair (aFqk d) (aFqk d) && gridPair (aFv d) (aFv d) &&
  1 ≤ aHq d && decide (aHq d ≤ 128) && 1 ≤ aHkv d && aHq d % max (aHkv d) 1 == 0 &&
  decide (aQpos d + aTok d ≤ 4194304) && decide (n * aKv d ≤ 4194304) && decide (aQpos d ≤ 4194303) &&
  decide (aKv d < 2 ^ 23) && (!(isMx (aFv d)) || aKv d % 32 == 0) &&
  (dKind d == 6 || (getLE d 0x38 4 != 0 && drainOut (getLE x 0x20 1) && drainOut (getLE x 0x21 1) &&
    modeOk (getLE x 0x22 1) 8 && zeroAt x [(0x23, 1), (0x28, 24)]))

/-- R119-R121. -/
def elemOk (d : Bytes) : Bool :=
  let f := eFunc d
  let rope := f == 0x14
  1 ≤ f && f ≤ 0x14 && decide (eCount d < 2 ^ 24) && 1 ≤ eLen d && eCount d % max (eLen d) 1 == 0 && decide (eBcast d < 8) &&
  vecFmt (eFa d) && vecFmt (eFd d) &&
  (if rope then eFb d == 1 && eFc d == 0x0C && eLen d % 2 == 0 && 1 ≤ getLE d 0x38 4 && decide (getLE d 0x38 4 ≤ 4194304)
   else (if usesB f then vecFmt (eFb d) else eFb d == 0 && getLE d 0x14 4 == 0) &&
        (if usesC f then vecFmt (eFc d) else eFc d == 0 && getLE d 0x18 4 == 0) && getLE d 0x38 4 == 0) &&
  modeOk (getLE d 0x2C 1) 8 && zeroAt d [(0x2D, 3), (0x3C, 4)]

/-- The most addends one reduction covers (R67). A descriptor that declares more is refused (log entry 100). -/
abbrev maxAddends : Nat := 8388608

/-- R122. -/
def normOk (d : Bytes) : Bool :=
  decide (nRows d < 2 ^ 24) && (!(nBwd d) || decide (nRows d ≤ maxAddends)) && 1 ≤ nLen d && decide (nKind d < 4) && modeOk (getLE d 0x2F 1) 8 && vecFmt (getLE d 0x30 1) &&
  vecFmt (getLE d 0x31 1) && (nBwd d || getLE d 0x24 4 == 0) && zeroAt d [(0x32, 2), (0x3C, 4)]

/-- R124. -/
def castOk (d : Bytes) : Bool :=
  let n := getLE d 0x20 4
  let l := getLE d 0x2C 2
  let fi := getLE d 0x24 1
  let fo := getLE d 0x25 1
  decide (n < 2 ^ 24) && (vecFmt fi || fi == 0x0D) && drainOut fo && modeOk (getLE d 0x26 1) 8 &&
  (!(isMx fi || isMx fo) || (l != 0 && n % max l 1 == 0)) && (isMx fi || getLE d 0x14 4 == 0) &&
  (isMx fo || getLE d 0x1C 4 == 0) && zeroAt d [(0x27, 1), (0x2E, 18)]

/-- R125, R126. -/
def copyOk (d : Bytes) : Bool :=
  let srcSpace := getLE d 0x10 8 == 0
  let dstSpace := getLE d 0x18 8 == 0
  1 ≤ yRows d && getLE d 0x36 2 == 0 &&
  (!srcSpace || (getLE d 0x24 4 == 0 && yLen d % 64 == 0 && getLE d 0x38 4 % 64 == 0)) &&
  (!dstSpace || (getLE d 0x2C 4 == 0 && yLen d % 64 == 0 && getLE d 0x3C 4 % 64 == 0))

/-- R128. -/
def gatherOk (d : Bytes) (w : Nat) : Bool :=
  decide (ghCount d < 2 ^ 24) && 64 ≤ ghRow d && decide (ghRow d ≤ 65536) && ghRow d % 64 == 0 && 1 ≤ ghRows d &&
  decide (ghRows d ≤ 16777216) && decide (ghMode d ≤ 2) && zeroAt d [(0x35, 11)] && getLE d 0x18 8 % 64 == 0 &&
  (getLE d 0x10 8 != 0 || decide (getLE d 0x18 8 + ghRows d * ghRow d ≤ w))

/-- R129. -/
def embedOk (d : Bytes) : Bool :=
  1 ≤ getLE d 0x1C 4 && decide (getLE d 0x1C 4 < 2 ^ 24) && decide (mCount d < 2 ^ 24) && 1 ≤ mDim d &&
  gridInput (getLE d 0x26 1) && (!(isMx (getLE d 0x26 1)) || mDim d % 32 == 0) && drainOut (getLE d 0x27 1) &&
  modeOk (getLE d 0x28 1) 8 && zeroAt d [(0x29, 3), (0x34, 12)]

/-- R151, R153: the areas stay in the tile store, and strides and offsets are multiples of 64. -/
def recvOk (d : Bytes) : Bool :=
  let mb := getLE d 0x11 1
  let st := getLE d 0x18 4
  let area (a n : Nat) : Bool := a / 2 ^ 28 == 0 && a % 64 == 0 && decide (a % 2 ^ 28 + n ≤ 2 ^ 22)
  1 ≤ mb && decide (mb ≤ 64) && decide (getLE d 0x12 1 < 4) && zeroAt d [(0x13, 1), (0x36, 10)] &&
  st % 64 == 0 && getLE d 0x1C 4 % 64 == 0 && decide (getLE d 0x20 4 ≤ st) && getLE d 0x28 4 % 64 == 0 &&
  getLE d 0x2C 4 % 64 == 0 && area (getLE d 0x14 4) (mb * st) && area (getLE d 0x24 4) (mb * getLE d 0x28 4) &&
  (getLE d 0x30 4 == 0 || area (getLE d 0x30 4) (64 * mb))

/-- R154. -/
def sendOk (d : Bytes) : Bool :=
  decide (getLE d 0x10 4 < 2048) && getLE d 0x1C 4 % 64 == 0 && zeroAt d [(0x26, 26)]

/-- R98. -/
def dummyOk (d : Bytes) : Bool :=
  decide (getLE d 0x10 1 ≤ 16) && decide (getLE d 0x11 1 < 2) && zeroAt d [(0x12, 2), (0x1C, 36)] &&
    decide (getLE d 0x14 4 ≤ 1000000)

/-- R260. -/
def gradOk (d : Bytes) : Bool :=
  let n := getLE d 0x20 4
  let f := getLE d 0x26 1
  decide (n < 2 ^ 24) && 1 ≤ getLE d 0x24 2 && n % max (getLE d 0x24 2) 1 == 0 && (f == 1 || f == 2 || f == 0x0D) &&
  modeOk (getLE d 0x27 1) 4 && zeroAt d [(0x30, 16)]

/-- R262. -/
def adamOk (d : Bytes) : Bool :=
  let fg := getLE d 0x34 1
  let fw := getLE d 0x35 1
  decide (getLE d 0x30 4 < 2 ^ 24) && getLE d 0x18 4 % 32 == 0 && getLE d 0x3C 4 % 32 == 0 &&
  decide (getLE d 0x18 4 + getLE d 0x30 4 ≤ getLE d 0x1C 4) && (fg == 8 || (fg == 1 && getLE d 0x24 4 == 0)) &&
  (fw == 7 || (fw == 2 && getLE d 0x2C 4 == 0)) && modeOk (getLE d 0x36 1) 8

/-- R265. -/
def topkOk (d : Bytes) : Bool :=
  let f := getLE d 0x21 1
  decide (getLE d 0x18 4 < 2 ^ 24) && 1 ≤ getLE d 0x1C 4 && decide (getLE d 0x1C 4 ≤ maxAddends) && 1 ≤ getLE d 0x20 1 &&
  decide (getLE d 0x20 1 ≤ 64) && (f == 1 || f == 2 || f == 3) && (getLE d 0x24 4 == 0 || posF32 (getLE d 0x24 4)) &&
  zeroAt d [(0x22, 2), (0x28, 24)]

/-- R267. -/
def lossOk (d : Bytes) : Bool :=
  let f := getLE d 0x28 1
  decide (xRows d < 2 ^ 24) && 1 ≤ xVocab d && decide (xVocab d ≤ maxAddends) && (f == 1 || f == 2 || f == 3) &&
  drainOut (getLE d 0x29 1) && modeOk (getLE d 0x2A 1) 8 && decide (getLE d 0x2B 1 < 2) &&
  (dKind d == 0x0A || getLE d 0x30 4 == 0) && zeroAt d [(0x38, 8)]

/-- R279. -/
def fpOk (d : Bytes) : Bool :=
  64 ≤ getLE d 0x28 4 && getLE d 0x28 4 % 64 == 0 && decide (getLE d 0x2C 4 ≤ 8191) && zeroAt d [(0x34, 12)] &&
  (getLE d 0x10 8 != 0 || getLE d 0x1C 4 == 0)

/-- R273. -/
def snapOk (d : Bytes) : Bool :=
  decide (getLE d 0x20 1 < 4) && zeroAt d [(0x21, 31)] &&
  (if getLE d 0x10 8 = 0 then getLE d 0x1C 4 == 0 else getLE d 0x18 8 % 64 == 0)

/-- R233. -/
def barrierOk (d : Bytes) : Bool :=
  drainOut (getLE d 0x18 1) && modeOk (getLE d 0x19 1) 8 && zeroAt d [(0x1A, 2), (0x20, 32)] &&
    decide (cCount (collExt d) ≤ 262144)

/-- Element types of a collective (R234, R235). -/
def etypeOk (d e : Bytes) : Bool :=
  let t := cType e
  if cNative e then
    (if cOp e = 3 then 1 ≤ t && t ≤ 0x0D else t == 1 || t == 2 || t == 3 || t == 0x0C)
  else if dKind d = 0x16 then t == 1 || t == 2 || t == 3 else t == 0x0D

/-- Reductions a kind allows (R227). -/
def redopOk (d e : Bytes) : Bool :=
  match dKind d with
  | 3 => cOp e == 0
  | 5 => cOp e == 0
  | 4 => cOp e == 3
  | 6 => cOp e == 3
  | 7 => cOp e == 0
  | _ => decide (cOp e ≤ 3)

/-- The count R230 asks of a kind. -/
def countOk (d e : Bytes) : Bool :=
  match dKind d with
  | 3 => cCount e == gM d * gN d
  | 5 => cCount e == gM d * gN d
  | 4 => cCount e == gM d * gK d
  | 0x16 => true
  | _ => cCount e == cN e * aKv d * aHkv d * aDim d

/-- The collective extension record, as far as one descriptor shows it (R229, R230). -/
def collOk (d : Bytes) : Bool :=
  let e := collExt d
  cId e != 0 && 1 ≤ cN e && decide (cN e ≤ 131072) && decide (getLE e 0x14 4 < 2 ^ 18) && decide (getLE e 0x18 4 < 2 ^ 18) &&
  decide (cRank e < cN e) && cCount e % max (collL d) 1 == 0 && countOk d e && (cCount e != 0 || dKind d == 0x16) &&
  decide (cMode e < 8) && redopOk d e && (cNative e || cOp e == 0) && (dKind d != 7 || !cNative e) && etypeOk d e &&
  cTable e % 64 == 0 && (dKind d == 4 || cGather e == 0) && decide (cOff e + cLen e ≤ collH d) &&
  (if !cNative e && cOp e == 0 then 1 ≤ cWait e else cWait e == 0) && zeroAt e [(0x2B, 1), (0x36, 10)]

/-- The fields of the kind. -/
def kindOk (d : Bytes) (w : Nat) : Bool :=
  match dKind d with
  | 1 => gemmOk d
  | 2 => gemmOk d
  | 3 => gemmOk d
  | 4 => gemmOk d
  | 5 => gemmOk d
  | 6 => attnOk d
  | 7 => attnOk d
  | 8 => elemOk d
  | 9 => normOk d
  | 0x0A => lossOk d
  | 0x0B => lossOk d
  | 0x0C => adamOk d
  | 0x0D => gradOk d
  | 0x0E => castOk d
  | 0x0F => copyOk d
  | 0x10 => gatherOk d w
  | 0x11 => sendOk d
  | 0x12 => recvOk d
  | 0x13 => fpOk d
  | 0x14 => snapOk d
  | 0x15 => dummyOk d
  | 0x16 => barrierOk d
  | 0x17 => embedOk d
  | 0x18 => topkOk d
  | _ => false

/-- Every static check of one op descriptor with its extensions, for a window of W bytes (R96, R104, R106): true when the
op may run. The check field is apart, since its failure at run time is a context fault (R106). -/
def descOk (d : Bytes) (w : Nat) : Bool :=
  hdrFieldsOk d && (List.range (extCount d)).all (fun i => extFieldsOk d (extCount d) (i + 1)) && kindOk d w &&
  (!(isColl d) || collOk d) && (opnds d).all (opndOk w)

/-! ### Where an op runs -/


/-- The window size of the running image (R131; default 16 MiB). -/
def windowBytes (s : State) : Nat := match runningImage s with
  | some b => imgWindow b * mib
  | none => 16 * mib

/-- The slot entry a tile's program belongs to. -/
def tileEntry (s : State) (t : Nat) : Option Bytes := (tileOf s t).prog.map (·.2.2)

/-- The context of a tile's tenant row: the one a HEAD-mode RECV of the slot selected, else the one that held the row when
the program began, whatever frame has begun since (R203, R219); an ARRIVAL row has none before a RECV selects one
(R152, R209, R215). -/
def rowCtx (s : State) (t : Nat) : Option Nat := match (tileOf s t).sel with
  | some c => some c
  | none => (tileOf s t).rowHeld

/-- The context an op acts for (R103, R209): its own, or that of the slot's tenant row. -/
def opCtx (s : State) (t : Nat) (d : Bytes) : Option Nat := if dRow d then rowCtx s t else some (dCtx d)

/-- The header of the current micro-batch (R153). -/
def opHdr (s : State) (t mb : Nat) : Option Bytes := match (tileOf s t).take with
  | some k => k.hdrs[mb]?
  | none => none

/-- The stage of the slot's work: the header's, else that of the slot's input queue, else the first stage the module
hosts for the context (log entry 36). -/
def opStage (s : State) (t c mb : Nat) : Nat :=
  match opHdr s t mb with
  | some h => hdrStage h
  | none => match (tileEntry s t).bind entInQ with
    | some q => (queueOf s q).stage
    | none => ((ctxStages s c).head?.map (·.stage)).getD 0

/-- Where the input and the outgoing part of micro-batch mb stand in a tile's store (R153). -/
def inArea (s : State) (t mb : Nat) : Option (Nat × Nat) := match (tileOf s t).take with
  | some k => if mb < k.hdrs.length then some (t * 2 ^ 22 + k.inBase + mb * k.inStride, k.inStride) else none
  | none => none

def outArea (s : State) (t mb : Nat) : Option (Nat × Nat × Nat) := match (tileOf s t).take with
  | some k => some (t * 2 ^ 22 + k.outBase + mb * k.outStride, k.outPartOff, k.outStride)
  | none => none

/-- The environment of an op. Without a taken header the version is the current one and the step the context's
(log entry 36). -/
def opEnvAt (s : State) (t mb : Nat) (d : Bytes) (c : Nat) : OpEnv :=
  let st := opStage s t c mb
  let h := opHdr s t mb
  ⟨t, dKind d, dSeq d, c, st, (h.map hdrVer).getD ((currentVer (ctxOf s c) st).getD 0),
    (h.map hdrStep).getD (ctxOf s c).step, mb, windowBytes s, (ctxOf s c).seed, h, inArea s t mb, outArea s t mb⟩

def opEnv (s : State) (r : OpRun) (d : Bytes) (c : Nat) : OpEnv := opEnvAt s r.tile.val r.mb d c

/-! ### Spaces (R93, R109, R153, R172) -/

/-- Where an operand lies: an address of the tile stores or of the windows, or bytes of an object. -/
inductive Loc where
  | store (addr : Nat)
  | window (addr : Nat)
  | object (h off : Nat)
  deriving DecidableEq, Repr

/-- Handle of object k of a version. -/
def verObject (v : Version) (k : Nat) : Option Nat := (v.objects.find? fun o => o.1 == k).map (·.2)

/-- The granules of 64 KiB that a range touches. -/
def granules (a n : Nat) : List Nat :=
  if n = 0 then [] else (List.range ((a + n - 1) / 65536 + 1 - a / 65536)).map (· + a / 65536)

/-- The copy in a tile's store of its slice of a version's tile image, which space 0x3 names (R93, R172): its address and
length, or a fault when the version is not READY (VERSION) or the copy is not there, never placed or zeroed since for
another context (NOT_LOADED, R99). -/
def tileSlice (s : State) (e : OpEnv) : Except Nat (Nat × Nat) :=
  let v := verOf s e.ctx e.stage e.ver
  if v.state != 2 then .error 1
  else match v.copies.find? fun x => x.1 == e.tile with
    | none => .error 2
    | some (_, off, len) =>
      let a := e.tile * 2 ^ 22 + off
      if (granules a len).all fun g => thas (tileOf s e.tile).tags g && tget 0 (tileOf s e.tile).tags g == e.ctx then
        .ok (a, len)
      else .error 2

/-- Resolve an operand field with its extent, or the cause of the context fault it gives (R99, R135). -/
def resolve (s : State) (e : OpEnv) (field len : Nat) : Except Nat Loc :=
  let o := field % 2 ^ 28
  let base := e.tile * 2 ^ 22
  match field / 2 ^ 28 with
  | 0 => if o + len ≤ 2 ^ 22 then .ok (.store (base + o)) else .error 8
  | 2 => if o + len ≤ e.win then .ok (.window (e.tile / 64 * 2 ^ 26 + o)) else .error 8
  | 1 => match e.inAt with
    | some (a, n) => if o + len ≤ n then .ok (.store (a + o)) else .error 8
    | none => .error 8
  | 4 => match e.outAt with
    | some (a, first, n) => if first ≤ o && o + len ≤ first + n then .ok (.store (a + (o - first))) else .error 8
    | none => .error 8
  | 3 => match tileSlice s e with
    | .error c => .error c
    | .ok (a, n) => if o + len ≤ n then .ok (.store (a + o)) else .error 8
  | _ => .error 8

/-- Touch granule g of the tile stores for context c: zeroed first when another context last wrote it (R109). -/
def touchStore (c g : Nat) (s : State) : State :=
  let t := g / 64
  let tags := (tileOf s t).tags
  let s1 := if thas tags g && tget 0 tags g = c then s
    else { s with tile := { s.tile with store := memZero s.tile.store (g * 65536) 65536 } }
  setTile t (fun x => { x with tags := tset x.tags g c }) s1

/-- ... and of the windows: what zeroing it takes from a tile's L1 lines reads 0 there too (R102). -/
def touchWindow (t c g : Nat) (s : State) : State :=
  if thas s.tile.wtags g && tget 0 s.tile.wtags g = c then s
  else
    let at_ := g * 65536 % 2 ^ 26
    setTile t (fun x => { x with
      l1 := x.l1.map fun e => if e.1 = 0 && at_ ≤ e.2.1 * 128 && decide (e.2.1 * 128 < at_ + 65536) then
        (e.1, e.2.1, List.replicate 128 0) else e
      unseen := x.unseen.filter fun e => !(e.1 == 0 && at_ ≤ e.2.1 && decide (e.2.1 < at_ + 65536)) })
      { s with tile := { s.tile with window := memZero s.tile.window (g * 65536) 65536, wtags := tset s.tile.wtags g c } }

/-- A tile touches the granules of an operand. -/
def touchLoc (t c : Nat) (l : Loc) (n : Nat) (s : State) : State :=
  match l with
  | .store a => (granules a n).foldl (fun s g => touchStore c g s) s
  | .window a => (granules a n).foldl (fun s g => touchWindow t c g s) s
  | .object _ _ => s

/-! ### Slices in the tile stores (R172) -/

/-- Where copies of slices stand in a tile's store, as (offset, bytes). -/
def copiesOn (s : State) (t : Nat) : List (Nat × Nat) :=
  s.vnr.ctxs.flatMap fun c => c.2.vers.flatMap fun st => st.2.flatMap fun v =>
    v.copies.filterMap fun x => if x.1 = t then some x.2 else none

/-- Where a slice goes: the highest whole granules that hold no other slice (log entry 107). -/
def sliceRoom (s : State) (t len : Nat) : Option Nat :=
  let used := (copiesOn s t).flatMap fun x => granules x.1 x.2
  (((List.range 64).reverse.map (· * 65536)).find? fun a =>
    decide (a + len ≤ 2 ^ 22) && (granules a len).all fun g => !used.contains g)

/-- The placement engine copies a tile's slice of a READY version's tile image, an equal part for each tile of the stage,
and records its address in the entry. A copy that is there stays; an image that is not resident, or has a poisoned line in the
slice, is not copied. -/
def placeSlice (t c st v : Nat) (s : State) : State :=
  let x := verOf s c st v
  let tiles := stageTiles s st
  match verObject x 0, tiles.idxOf? t with
  | some h, some i => match findObj s h with
    | none => s
    | some o =>
      let len := o.size / tiles.length
      let there := (x.copies.find? fun y => y.1 == t).filter fun y => y.2.2 == len && (granules (t * 2 ^ 22 + y.2.1) len).all fun g =>
        thas (tileOf s t).tags g && tget 0 (tileOf s t).tags g == c
      if x.state != 2 || inFlash o || poisonedIn o (i * len) len || there.isSome then s
      else
        let s0 := setVer c st v (fun y => { y with copies := y.copies.filter fun z => z.1 != t }) s
        match sliceRoom s0 t len with
        | none => s0
        | some off =>
          let a := t * 2 ^ 22 + off
          let s1 := touchLoc t c (.store a) len (setVer c st v (fun y => { y with copies := y.copies ++ [(t, off, len)] }) s0)
          { s1 with tile := { s1.tile with store := memWrite s1.tile.store a (objRead o (i * len) len) } }
  | _, _ => s

def readLoc (s : State) (l : Loc) (n : Nat) : Bytes :=
  match l with
  | .store a => memRead s.tile.store a n
  | .window a => memRead s.tile.window a n
  | .object h o => objBytes s h o n

/-! ### What tiles of one slot see of each other (R102, R108) -/

/-- The tiles that run the slot of a tile. -/
def slotTiles (s : State) (t : Nat) : List Nat := match (tileOf s t).prog with
  | none => []
  | some p => (s.tile.tiles.filter fun e => e.2.prog.map (fun q => (q.1, q.2.1)) == some (p.1, p.2.1)).map (·.1)

/-- Bytes of an object or the window (handle 0) as a tile sees them: those that other tiles of the slot have written read
as before. -/
def seenBytes (x : TileSt) (h off : Nat) (bs : Bytes) : Bytes :=
  if x.unseen.isEmpty then bs
  else bs.mapIdx fun i b => match x.unseen.find? fun e => e.1 == h && e.2.1 == off + i with
    | some e => e.2.2
    | none => b

/-- What a tile reads at a place. -/
def tileReads (s : State) (t : Nat) (l : Loc) (n : Nat) : Bytes :=
  match l with
  | .store _ => readLoc s l n
  | .window a => seenBytes (tileOf s t) 0 (a % 2 ^ 26) (readLoc s l n)
  | .object h o => seenBytes (tileOf s t) h o (readLoc s l n)

/-- Before a tile writes `n` bytes over `old`: it sees its own write, and the other tiles of its slot, of its die where it
writes the window, go on seeing what stood there. -/
def hideWrite (t h off n : Nat) (old : Bytes) (s : State) : State :=
  let others := (slotTiles s t).filter fun u => u != t && (h != 0 || u / 64 == t / 64)
  let inside (a : Nat) : Bool := off ≤ a && decide (a < off + n)
  let s1 := if (tileOf s t).unseen.isEmpty then s
    else setTile t (fun x => { x with unseen := x.unseen.filter fun e => !(e.1 == h && inside e.2.1) }) s
  others.foldl (fun s u => setTile u (fun x => { x with
    unseen := x.unseen ++ ((List.range n).filter fun i => !x.unseen.any fun e => e.1 == h && e.2.1 == off + i).map
      fun i => (h, off + i, old.getD i 0) }) s) s1

/-- A BARRIER, or an entry taken from a mortise queue, shows a tile what others wrote before it. -/
def showWrites (t : Nat) (s : State) : State :=
  if (tileOf s t).unseen.isEmpty then s else setTile t (fun x => { x with unseen := [] }) s

/-- A tile's write to an object updates the lines its own L1 holds (R102). -/
def l1Update (t h off : Nat) (bs : Bytes) (s : State) : State :=
  setTile t (fun x => { x with l1 := x.l1.map fun e =>
    if e.1 = h then
      (e.1, e.2.1, (List.range 128).map fun i =>
        let a := e.2.1 * 128 + i
        if off ≤ a && decide (a < off + bs.length) then bs.getD (a - off) 0 else e.2.2.getD i 0)
    else e }) s

def writeLoc (t : Nat) (l : Loc) (bs : Bytes) (s : State) : State :=
  match l with
  | .store a => { s with tile := { s.tile with store := memWrite s.tile.store a bs } }
  | .window a =>
    let s1 := hideWrite t 0 (a % 2 ^ 26) bs.length (memRead s.tile.window a bs.length) s
    l1Update t 0 (a % 2 ^ 26) bs { s1 with tile := { s1.tile with window := memWrite s1.tile.window a bs } }
  | .object h o => l1Update t h o bs (writeObj h o bs false (hideWrite t h o bs.length (objBytes s h o bs.length) s))

/-- Resolve a list of operands: all their places, or the first fault cause. -/
def resolveAll (s : State) (e : OpEnv) : List Opnd → Except Nat (List (Opnd × Loc))
  | [] => .ok []
  | o :: r => match resolve s e o.field o.len with
    | .error c => .error c
    | .ok l => match resolveAll s e r with
      | .error c => .error c
      | .ok ls => .ok ((o, l) :: ls)

/-- An object an op names by handle: the cause of its fault, or none (R110, R127, R135, R295). need 1 reads, 2 writes. -/
def objFault (s : State) (c h need off len : Nat) : Option Nat :=
  match findObj s h with
  | none => some 5
  | some o =>
    if opRights s c o < need then some 5
    else if inFlash o then some 6
    else if o.size < off + len then some 8
    else if need = 1 && poisonedIn o off len then some 5
    else none

/-- Bytes of an operand field; the caller has located it. -/
def rdField (s : State) (e : OpEnv) (field len : Nat) : Bytes := match resolve s e field len with
  | .ok l => tileReads s e.tile l len
  | .error _ => List.replicate len 0

/-- Write bytes at an operand field. -/
def wrField (e : OpEnv) (field : Nat) (bs : Bytes) (s : State) : State := match resolve s e field bs.length with
  | .ok l => writeLoc e.tile l bs s
  | .error _ => s

/-! ### Running an op -/

/-- The check fields of an op's descriptor and its extensions (R106). -/
def checksOk (d : Bytes) : Bool := checkOk d && (List.range (extCount d)).all fun i => checkOk (dExt d (i + 1))


/-- A context fault that an op finds, and the dummy rows that fill its cycles. -/
def opFault (e : OpEnv) (cause : Nat) (s : State) : State := fillGap e.tile (ctxFault e.ctx cause e.kind e.seq e.tile s)

/-! ### Turns (R107, R153) -/

/-- The ops of a tile's program; none when the tile runs no program of a jig. -/
def progOf (x : TileSt) (t : Nat) : List Bytes := (x.slotOps.filter fun m => m.1 == t).map (·.2)

/-- The ops of a program before seq q, back to the last RECV before it, and that RECV. -/
def segment (ops : List Bytes) (q : Nat) : List Bytes × Option Bytes :=
  let before := (ops.filter fun o => decide (dSeq o < q)).reverse
  (before.takeWhile fun o => dKind o != 0x12, before.find? fun o => dKind o == 0x12)

/-- Is it this op's turn for micro-batch mb (R107: in seq order; R153: once for each micro-batch taken, in the order
taken)? A tile that runs no program of a jig takes the ops it is given. -/
def hasTurn (x : TileSt) (t mb : Nat) (d : Bytes) : Bool :=
  let ops := progOf x t
  let seg := segment ops (dSeq d)
  ops.isEmpty ||
  (ops.any (fun o => dSeq o == dSeq d && (o == d || !checksOk d)) && !x.turns.contains (dSeq d, mb) &&
    seg.1.all (fun o => x.turns.contains (dSeq o, mb)) && (mb == 0 || x.turns.contains (dSeq d, mb - 1)) &&
    (match seg.2 with
      | none => mb == 0
      | some r => (match x.take with
        | some k => k.recv == r && (if k.skip then mb == 0 else decide (mb < k.hdrs.length))
        | none => false)))

/-- The op has had its turn. -/
def takeTurn (t mb : Nat) (d : Bytes) (s : State) : State :=
  if (progOf (tileOf s t) t).isEmpty then s else setTile t (fun x => { x with turns := (dSeq d, mb) :: x.turns }) s

/-- Does a program read tile images? -/
def readsSlices (x : TileSt) (t : Nat) : Bool := (progOf x t).any fun d => (opnds d).any fun o => o.field / 2 ^ 28 == 3

/-- Before a slot uses them: the slices of every READY version of the contexts its program acts for. -/
def placeSlices (t : Nat) (s : State) : State :=
  let x := tileOf s t
  if !readsSlices x t then s
  else
    let named := (progOf x t).filterMap fun d => if dRow d then none else some (dCtx d)
    let cs := (rowCtx s t).toList ++ named.eraseDups
    (cs.filter fun c => activeCtx (ctxOf s c)).foldl (fun s c =>
      (ctxStages s c).foldl (fun s r => (List.range 16).foldl (fun s v => placeSlice t c r.stage v s) s) s) s

/-- Set the status of a tile's last op. -/
def setStatus (t st : Nat) (s : State) : State := setTile t (fun x => { x with opStatus := st }) s

/-- The program of a tile ends (R107, R203): its version references drop, and the tile is free. -/
def endProgram (t : Nat) (s : State) : State :=
  let refs := ((tileOf s t).take.map (·.refs)).getD []
  let s1 := keepLate t s (refs.foldl (fun s e => verDrop e.1 e.2.1 e.2.2 s) s)
  setTile t (fun x => { x with
    prog := none, take := none, sel := none, running := none, lateSeen := false, ended := false, turns := [], slotOps := []
    rowHeld := none, unseen := [] }) s1

/-- Has a tile's program run out: its last descriptor has run for every micro-batch, no gather group and no part of a
split-K group is left (R85, R95), and no stream RECV may still take (R152)? -/
def runOut (x : TileSt) : Bool :=
  x.ended && x.groups.isEmpty && x.split.isEmpty && !((x.take.map (·.streaming)).getD false)

/-- End a program that has run out. -/
def tryEnd (t : Nat) (s : State) : State := if runOut (tileOf s t) then endProgram t s else s

/-- The last descriptor of a program ends it, once it has run for every micro-batch taken (R107, R153). -/
def afterOp (e : OpRun) (d : Bytes) (s : State) : State :=
  let n := ((tileOf s e.tile.val).take.map fun k => k.hdrs.length).getD 0
  if dLast d && decide (n ≤ e.mb + 1) then tryEnd e.tile.val (setTile e.tile.val (fun x => { x with ended := true }) s) else s

/-- Does a tile run a slot of a tenant row that no context holds (R209)? An ARRIVAL row waits for its RECV (R215). -/
def rowless (s : State) (t : Nat) : Bool := match tileEntry s t with
  | some e => entRow e != 0 && !(rowAt s (entRow e)).arrival && (rowCtx s t).isNone
  | none => false

/-- Is an op skipped after an empty RECV (R152), or because the row has no context (R209)? -/
def skips (s : State) (t : Nat) (d : Bytes) : Bool :=
  (namesBlock d || dRow d) && (((tileOf s t).take.map (·.skip)).getD false || rowless s t)

/-- Does the fill gate of a grid op fit the slot it runs in (R96)? -/
def gateFits (s : State) (t : Nat) (d : Bytes) : Bool :=
  (dKind d != 1 && dKind d != 2) || gFill d == 0 || (match tileEntry s t with
    | some e => decide (16 * getLE d 0x3A 2 + 16 * getLE d 0x3C 2 ≤ entDur e)
    | none => true)

/-- Does a pass of this op name, by its header, a version that is not READY for its context and stage (R99)? -/
def noVersion (s : State) (e : OpEnv) : Bool :=
  1 ≤ e.kind && decide (e.kind ≤ 5) && e.hdr.isSome && (verOf s e.ctx e.stage e.ver).state != 2

/-- The places an op writes or reads, by operand: a COPY touches its rows, not what lies between them (R109). -/
def touched (d : Bytes) (o : Opnd) (l : Loc) : List (Loc × Nat) :=
  if dKind d = 0x0F then
    let stride := getLE d (if o.write then 0x3C else 0x38) 4
    (List.range (yRows d)).map fun i => (match l with
      | .store a => .store (a + i * stride)
      | .window a => .window (a + i * stride)
      | .object h a => .object h (a + i * stride), yLen d)
  else [(l, o.len)]

/-- Does the slew governor hold the west-edge issue of an op (R91)? It issues when a later window lets it. -/
def heldBack (s : State) (t : Nat) (d : Bytes) : Bool :=
  (tileOf s t).held && (decide (dKind d ≤ 7) || dKind d == 0x15)

/-- Run an op whose turn it is: the check field (DESC_CHECK), the static checks (S_BAD_FIELD), the skip after an empty
RECV, the operand ranges and the tags of R109; then its body. An op of a context that does not run has no effect: DUMMY
rows take its place (R98, R178). A fault discards what the op has not written (R135). With `ends` unset the op completes
later (R232). -/
def runOpWith (ends : Bool) (r : OpRun) (d : Bytes) (body : OpEnv → State → Except Nat State) (s0 : State) : State :=
  let t := r.tile.val
  if heldBack s0 t d || !hasTurn (tileOf s0 t) t r.mb d then s0
  else
    let s := takeTurn t r.mb d s0
    match opCtx s t d with
    | none => afterOp r d s
    | some c =>
      if skips s t d || !activeCtx (ctxOf s c) then afterOp r d (fillGap t s)
      else
        let e := opEnv s r d c
        if !checksOk d then afterOp r d (opFault e 4 s)
        else if !descOk d e.win || !gateFits s t d then afterOp r d (setStatus t sBadField s)
        else if opEmpty d then afterOp r d (setStatus t sOk s)
        else if noVersion s e then afterOp r d (opFault e 1 s)
        else match resolveAll s e (opnds d) with
          | .error cause => afterOp r d (opFault e cause s)
          | .ok ls =>
            let s1 := (ls.flatMap fun x => touched d x.1 x.2).foldl (fun s x => touchLoc t c x.1 x.2 s) s
            let s2 := setTile t (fun x => { x with running := some (e.kind, e.seq, c), opStatus := sOk }) s1
            match body e s2 with
            | .ok s3 => if ends then afterOp r d (keepLate t s s3) else keepLate t s s3
            | .error cause => afterOp r d (opFault e cause s2)

/-- An op that completes with its body. -/
def runOp (r : OpRun) (d : Bytes) (body : OpEnv → State → Except Nat State) (s : State) : State := runOpWith true r d body s

/-! ### Output conversion (R58-R64, R69, R444) -/

/-- What an output conversion gives: element bytes, scale bytes, kerf events, the values as written. -/
structure OutT where
  elems : Bytes
  scales : Bytes
  evs : List Nat
  vals : List Val
  deriving DecidableEq, Repr

/-- How element e rounds: to nearest even, or with the word of R62. -/
def rndOf (mode seed tensor step e : Nat) : Rnd := if modeRnd mode = 1 then .stoch (philox seed tensor step e) else .rne

/-- A value as a list of integers: its kind, then its sign and its digits. -/
def Val.key : Val → List Int
  | .num s m e => [0, b2n s, m, e]
  | .inf s => [1, b2n s]
  | .nan s m => [2, b2n s, m]

/-- A value stored as a two's complement integer of width w, and its events (R69): rounded to an integer; beyond the
range, and for a non-finite value, the spec states no result, and a free function of the value gives it (log entry
37). -/
def convInt (w : Nat) (r : Rnd) (v : Val) : Nat × List Nat :=
  let free := (Config.intOut w v.key).toNat % 2 ^ w
  match v with
  | .num s m e =>
    let q := (roundAt r m e false 0).1
    if q < 2 ^ (w - 1) || (s && q == 2 ^ (w - 1)) then
      ((if s then 2 ^ w - q else q) % 2 ^ w, if q = 0 && m != 0 then [evFlush] else [])
    else (free, [])
  | _ => (free, [])

/-- Convert one row of values: codes, scale bytes, events, values as written. -/
def convRow (fmt : Nat) (nonsat : Bool) (rnd : Nat → Rnd) (base : Nat) (vs : List Val) :
    List Nat × List Nat × List Nat × List Val :=
  if isMx fmt then
    let f := (fmtOf fmt).getD e4m3
    let bs := (List.range (blocksOf vs.length)).map fun b =>
      mxBlock fmt (fun i => rnd (base + 32 * b + i)) ((vs.drop (32 * b)).take 32)
    (bs.flatMap (·.2.1), bs.map (·.1), bs.flatMap (·.2.2), bs.flatMap fun b => b.2.1.map fun c => scaled b.1 (decodeVal f c))
  else match fmtOf fmt with
    | some f =>
      let cs := vs.mapIdx fun i v => convert f (rnd (base + i)) nonsat false v
      (cs.map (·.1), [], cs.flatMap (·.2), cs.map fun c => decodeVal f c.1)
    | none =>
      let cs := vs.mapIdx fun i v => convInt 8 (rnd (base + i)) v
      (cs.map (·.1), [], cs.flatMap (·.2), cs.map fun c => intVal 8 c.1)

/-- Convert rows of values. A grid operand packs each row by itself, any other output is one packed array (R44, R93). -/
def convRows (fmt : Nat) (nonsat perRow : Bool) (rnd : Nat → Rnd) (len base : Nat) (rows : List (List Val)) : OutT :=
  let rs := rows.mapIdx fun i vs => convRow fmt nonsat rnd (base + i * len) vs
  ⟨if perRow then rs.flatMap fun r => packCodes fmt r.1 else packCodes fmt (rs.flatMap (·.1)),
    (rs.flatMap (·.2.1)).map (BitVec.ofNat 8), rs.flatMap (·.2.2.1), rs.flatMap (·.2.2.2)⟩

/-- Convert FP32 results; written in FP32 they count as R444 says. -/
def convF32 (fmt : Nat) (nonsat : Bool) (rnd : Nat → Rnd) (len base : Nat) (rows : List (List F32)) : OutT :=
  if fmt = 1 then
    let all := rows.flatten
    ⟨all.flatMap fun x => toLE 4 x.1, [], all.flatMap fp32Events, all.map fun x => f32 x.1⟩
  else convRows fmt nonsat false rnd len base (rows.map fun r => r.map fun x => f32 x.1)

/-- Count what an output wrote: kerf events under its class and format, and its histogram (R271, R272). -/
def countOut (e : OpEnv) (d : Bytes) (fmt : Nat) (o : OutT) (s : State) : State :=
  countHist e.ctx (dHist d) o.vals (countEvents e.ctx (dClass d) fmt o.evs s)

/-- Elements with the scales behind them at the first 64 B boundary (R111). -/
def withTrailing (fmt : Nat) (o : OutT) : Bytes :=
  if isMx fmt then o.elems ++ List.replicate (align64 o.elems.length - o.elems.length) 0 ++ o.scales else o.elems

/-- Load `count` elements of an operand as FP32 (R443), scales from their own bytes. -/
def loadF32 (fmt len count : Nat) (el sc : Bytes) : List Nat :=
  (List.range count).map fun i =>
    load32 fmt (elemCode fmt el i) (getLE sc (i / max len 1 * blocksOf len + i % max len 1 / 32) 1)

/-- Load an operand whose scales trail it (R111). -/
def loadTrailing (fmt len count : Nat) (b : Bytes) : List Nat :=
  loadF32 fmt len count b (b.drop (align64 (fmtBytes fmt count)))

/-- Rows of n elements. -/
def rowsOf {α : Type} (n : Nat) (l : List α) (count : Nat) : List (List α) :=
  (List.range count).map fun i => (l.drop (i * n)).take n

/-- Write bytes that trail (elements and scales) at a field; padding between them is not written. -/
def wrTrailing (e : OpEnv) (field fmt : Nat) (o : OutT) (s : State) : State :=
  let s1 := wrField e field o.elems s
  if isMx fmt then wrField e (field + align64 o.elems.length) o.scales s1 else s1

end Sys2Proof.Machine
end

