-- ==== Sys2Proof/Machine/Programs.lean ====
section
/-! DEFINITION. The programs of a slot (R201), the take and send groups they form (R150), and sending a block through a
binding (R144, R155). -/

namespace Sys2Proof.Machine

/-! ### Programs (R201, R104) -/

/-- The op whose first record lies at an offset of an image, with its extension records. -/
def opRecord (b : Bytes) (off : Nat) : Bytes := slice b off (opBytes (slice b off 64))

/-- The ops from an offset on, up to the one with its last flag set, and at most n. -/
def opsFrom (b : Bytes) : Nat → Nat → List Bytes
  | 0, _ => []
  | n + 1, off =>
    let d := opRecord b off
    if dLast d then [d] else d :: opsFrom b n (off + opBytes d)

/-- The program of a tile in a slot, by its image's directory. -/
def progOps (b e : Bytes) (tile : Nat) : List Bytes := match progWord b e tile with
  | some w => opsFrom b (imgProgLen b / 64) (imgProgOff b + w)
  | none => []

/-- The ops of every tile of a slot. -/
def slotOps (b e : Bytes) : List (Nat × Bytes) :=
  (tsetTiles b (entTset e)).flatMap fun t => (progOps b e t).map fun d => (t, d)

/-- The ops of the slot whose program a tile runs, as its image held them when the program began (R203, R222). -/
def slotOpsOf (s : State) (t : Nat) : List (Nat × Bytes) := (tileOf s t).slotOps

/-! ### Send groups (R150, R154) -/

/-- SEND and GEMM_SEND. -/
def isSend (d : Bytes) : Bool := dKind d == 0x11 || dKind d == 2

/-- The queue word (R154). -/
def sendWord (d : Bytes) : Nat := if dKind d = 0x11 then getLE d 0x10 4 else getLE d 0x24 4

def sendRows (d : Bytes) : Nat := if dKind d = 0x11 then getLE d 0x24 2 else gM d

/-- Bytes of one micro-batch's C with its trailing scales (R97). -/
def sendCBytes (d : Bytes) : Nat := trailing (gFc d) (rowBytes (gFc d) (gM d) (gN d)) (gM d) (gN d)

/-- Bytes of a member's part. -/
def sendBytes (d : Bytes) : Nat := if dKind d = 0x11 then getLE d 0x18 4 else sendCBytes d

/-- The end a member declares. -/
def sendEnd (d : Bytes) : Nat := if dKind d = 0x11 then getLE d 0x20 4 else getLE d 0x20 4 % 2 ^ 28 + sendCBytes d

/-- A member of a send group: its tile and its op's seq. -/
def memberKey (t : Nat) (d : Bytes) : Nat := t * 65536 + dSeq d

/-- The send group of an op: the SEND and GEMM_SEND ops of its slot on its binding, or the op alone. -/
def sendGroup (s : State) (t : Nat) (d : Bytes) : List (Nat × Bytes) :=
  let g := (slotOpsOf s t).filter fun m => isSend m.2 && sendWord m.2 % 256 == sendWord d % 256
  if g.any fun m => memberKey m.1 m.2 == memberKey t d then g else [(t, d)]

/-- Total block length: the largest of the members' declared ends. -/
def groupLen (g : List (Nat × Bytes)) : Nat := (g.map fun m => sendEnd m.2).foldl max 0

/-! ### Sending a block (R155) -/

/-- The send of this micro-batch that a binding has open for a member. -/
def openSend (x : Binding) (c mb me : Nat) : Option Sending :=
  x.sending.find? fun y => y.ctx == c && y.mb == mb && y.left.contains me

/-- Must an op wait for a credit or for room in the resend window, which holds 64 headers (R147, R155)? -/
def sendBlocked (s : State) (e : OpEnv) (d : Bytes) : Bool :=
  let x := bindOf s (sendWord d % 256)
  match e.hdr with
  | none => false
  | some h =>
    (openSend x e.ctx (hdrMb h) (memberKey e.tile d)).isNone &&
      (x.state != 2 || x.credits.isEmpty || decide (64 ≤ x.window.length + x.sending.length))

/-- The group's first write takes one slot. -/
def takeCredit (b : Nat) (e : OpEnv) (d h : Bytes) (s : State) : State :=
  let x := bindOf s b
  if (openSend x e.ctx (hdrMb h) (memberKey e.tile d)).isSome then s
  else
    let g := sendGroup s e.tile d
    let y : Sending := ⟨e.ctx, hdrMb h, x.credits.headD 0, g.map fun m => memberKey m.1 m.2, h, sendRows d, groupLen g,
      sendWord d, groupLen g == 0 && g.all fun m => sendBytes m.2 == 0⟩
    setBind b (fun x => { x with credits := x.credits.drop 1, sending := x.sending ++ [y] }) s

/-- One member's write of its part. A send with no taken header is refused when its image is loaded (R153). -/
def sendPart (e : OpEnv) (d : Bytes) (off : Nat) (data : Bytes) (s : State) : Except Nat State :=
  let b := sendWord d % 256
  match e.hdr with
  | none => .ok (setStatus e.tile sBadField s)
  | some h =>
    let x := bindOf s b
    if data.length != 0 && decide (x.slotBytes < off + data.length) then .error 9
    else
      let s1 := takeCredit b e d h s
      let me := memberKey e.tile d
      match openSend (bindOf s1 b) e.ctx (hdrMb h) me with
      | none => .ok s1
      | some y =>
        let at_ := y.slot * x.slotBytes + off
        let s2 := if data.isEmpty then s1
          else if x.loc then blockAt x.handle at_ data s1
          else send x.destAddr (.mqBlock x.handle at_ data) s1
        let y1 := { y with left := y.left.erase me }
        .ok (setBind b (fun x => { x with sending := x.sending.map fun z => if z = y then y1 else z }) s2)

/-- The destination's context ID (R144): the sending context for a local binding, else the peer map's. -/
def destCtx (s : State) (x : Binding) (c : Nat) : Option Nat :=
  if x.loc then some c
  else ((ctxOf s c).peers.find? fun p => p.1 == x.destStage && p.2.1 == x.destAddr).map (·.2.2)

/-- The outgoing header (R144): the taken header with the fields SEND rewrites. -/
def outHdr (s : State) (x : Binding) (y : Sending) (dc : Nat) : Bytes :=
  let fl := b2n (bit (hdrFlags y.hdr) 0 || bit y.word 10) + (if y.marker then 2 else 0) +
    4 * b2n (bit (hdrFlags y.hdr) 2)
  slice y.hdr 0 4 ++ toLE 2 (dc + hdrVer y.hdr * 4096) ++ toLE 2 (x.destStage + bits y.word 9 8 * 4096) ++
    slice y.hdr 8 6 ++ toLE 2 fl ++ toLE 8 x.handle ++ toLE 4 (y.slot * x.slotBytes) ++ toLE 4 y.blkLen ++
    toLE 2 y.rows ++ toLE 2 x.srcStage ++ toLE 4 s.dvl.addr ++ toLE 4 0 ++ slice y.hdr 0x2C 4 ++ List.replicate 16 0

/-- After the last member's write the queue engine sends the header; with no destination context the sending context
faults with ROUTE (R144, R155). -/
def sendHeader (b tile : Nat) (d : Bytes) (s : State) : State :=
  let x := bindOf s b
  match x.sending.find? fun y => y.left.isEmpty with
  | none => s
  | some y =>
    match destCtx s x y.ctx with
    | none => ctxFault y.ctx 0x0A (dKind d) (dSeq d) tile s
    | some dc =>
      handToLink b y.ctx (outHdr s x y dc) (setBind b (fun x => { x with sending := x.sending.filter fun z => z != y }) s)

end Sys2Proof.Machine
end

