-- ==== Sys2Proof/Machine/GridOps.lean ====
section
/-! DEFINITION. The grid's ops (chapter 3): GEMM with its anchors, passes and epilogues (R50-R55, R71-R83), GEMM_SEND
(R97), the fill gate (R84-R86) and DUMMY (R98). The order of passes and cycles leaves no trace in results (R55, R83): an op
drains the whole sums of its blocks, while its passes leave their weights and partial sums in the grid. -/

namespace Sys2Proof.Machine

/-! ### Operands of a matrix product -/

/-- An element code of a grid operand, with its block scale (R47). -/
def codeVal (fmt c scale : Nat) : Val := match fmtOf fmt with
  | none => intVal 8 c
  | some f => if isMx fmt then scaled scale (decodeVal f c) else decodeVal f c

def gridVal (fmt : Nat) (el : Bytes) (i scale : Nat) : Val := codeVal fmt (elemCode fmt el i) scale

def GemmIn.rowBytes (g : GemmIn) (i : Nat) : Bytes := slice g.a (i * fmtBytes g.fa g.k) (fmtBytes g.fa g.k)
def GemmIn.aScale (g : GemmIn) (i kb : Nat) : Nat := getLE g.sa (i * blocksOf g.k + kb) 1

/-- Row i of A (R93). -/
def GemmIn.aRow (g : GemmIn) (i : Nat) : List Val :=
  let r := g.rowBytes i
  (List.range g.k).map fun k => gridVal g.fa r k (g.aScale i (k / 32))

def GemmIn.panel (g : GemmIn) (j : Nat) : Bytes := slice g.b (j / 128 * panelBytes g.fb g.k) (panelBytes g.fb g.k)
def GemmIn.bScale (g : GemmIn) (kb j : Nat) : Nat := getLE g.sb ((j / 128 * blocksOf g.k + kb) * 128 + j % 128) 1

/-- Column j of B, in panel order (R93). -/
def GemmIn.bCol (g : GemmIn) (j : Nat) : List Val :=
  let p := g.panel j
  (List.range g.k).map fun k => gridVal g.fb p (k * 128 + j % 128) (g.bScale (k / 32) j)

/-! ### The anchor (R50, R80) -/

/-- What one side adds to the bound of k-block kb: its largest scale exponent, 0xFF left out, or its shadow scale. -/
def sideBound (fmt kb : Nat) (scales : List Nat) (elems : List (List Val)) : Option Int :=
  if isMx fmt then
    match (scales.filter (· != 0xFF)).max? with
    | none => none
    | some m => some ((m : Int) - 127 + emaxOf fmt)
  else match fmtOf fmt with
    | none => none
    | some f => (elems.flatMap fun vs => ((vs.drop (32 * kb)).take 32).filterMap (shadowExp f)).max?

/-- The bound e_k of a k-block over a set of rows and columns. -/
def kBound (g : GemmIn) (rows cols : List Nat) (kb : Nat) : Option Int :=
  match sideBound g.fa kb (rows.map fun i => g.aScale i kb) (rows.map g.aRow),
        sideBound g.fb kb (cols.map fun j => g.bScale kb j) (cols.map g.bCol) with
  | some x, some y => some (x + y)
  | _, _ => none

/-- The exponents with which a block's bias takes part (R80). -/
def biasExps (g : GemmIn) (cols : List Nat) : List Int := match g.bias with
  | none => []
  | some b => cols.filterMap fun j => shadowExp fp32 (f32 (getLE b (4 * j) 4))

/-- The anchor of the part of an output block that these rows and columns form; 14 for INT8. -/
def blockAnchor (g : GemmIn) (rows cols : List Nat) : Int :=
  if g.fa = 6 then 14
  else anchorOf ((List.range (blocksOf g.k)).filterMap (kBound g rows cols) ++ biasExps g cols)

/-- Rows or columns of block b of a dimension of length n. -/
def blockIx (b n : Nat) : List Nat := (List.range (min 128 (n - 128 * b))).map (· + 128 * b)

/-! ### Sums -/

/-- Products join a partial sum one by one (R51, R71). -/
def addProducts (x : Elem) (row col : List Val) : Elem := (row.zip col).foldl (fun acc p => acc.add (mulVal p.1 p.2)) x

/-- The accumulator of one element: every product, in any order (R51, R55), and its bias (R82). -/
def gemmElem (anchor : Int) (row col : List Val) (bias : Option Nat) : Elem :=
  let x := addProducts (Elem.zero anchor) row col
  match bias with
  | none => x
  | some b => x.add (f32 b)

/-- The rows of accumulators of a product of m rows, by anchors per (row block, column block). -/
def gemmRows (g : GemmIn) (m : Nat) (anchor : Nat → Nat → Int) : List (List Elem) :=
  let cols := (List.range g.n).map g.bCol
  (List.range m).map fun i =>
    let r := g.aRow i
    cols.mapIdx fun j c => gemmElem (anchor (i / 128) (j / 128)) r c (g.bias.map fun b => getLE b (4 * j) 4)

/-! ### Drain and epilogue (R58, R81, R82) -/

/-- WIDE rows as bytes. -/
def wideOut (rows : List (List Elem)) : OutT :=
  ⟨rows.flatMap fun r => r.flatMap Elem.bytes, [], [], rows.flatMap fun r => r.map Elem.val⟩

/-- Drain rows of accumulators of n columns into a format under a mode byte and an epilogue. -/
def drainRows (fmt mode epi n : Nat) (rnd : Nat → Rnd) (rows : List (List Elem)) : OutT :=
  if fmt = 0x0D then wideOut rows
  else if epi = 2 then
    let gs := rows.map fun r => r.map fun x => trans32 .gelu (drain32 x).1
    if fmt = 1 then convF32 1 (modeNonsat mode) rnd n 0 gs
    else convRows fmt (modeNonsat mode) true rnd n 0 (gs.map fun r => r.map fun x => f32 x.1)
  else convRows fmt (modeNonsat mode) true rnd n 0 (rows.map fun r => r.map Elem.val)

/-! ### The cells: weights, passes and accumulators (R71-R78, R81) -/

/-- MXFP4 and the two MXFP6 formats, which go in pairs (R72). -/
def pairFmt (c : Nat) : Bool := c == 0x09 || c == 0x0A || c == 0x0B

/-- Weight elements per cell (R72). -/
def perCell (fa fb : Nat) : Nat := if pairFmt fa && pairFmt fb then 2 else 1

def GemmIn.pair (g : GemmIn) : Nat := perCell g.fa g.fb

/-- The K depth of a pass (R72). -/
def GemmIn.kp (g : GemmIn) : Nat := 128 * g.pair

/-- K indices of chunk kc, columns of block cb. -/
def GemmIn.chunk (g : GemmIn) (kc : Nat) : Nat := min g.kp (g.k - g.kp * kc)
def GemmIn.width (g : GemmIn) (cb : Nat) : Nat := min 128 (g.n - 128 * cb)

/-- A pass (R73): its column block, row block and chunk of K. -/
structure Pass where
  cb : Nat
  rb : Nat
  kc : Nat
  deriving DecidableEq, Repr

/-- The passes of a product of m rows: column block by column block, row block by row block, K ascending (R73). -/
def gridPasses (g : GemmIn) (m : Nat) : List Pass :=
  (List.range ((g.n + 127) / 128)).flatMap fun cb => (List.range ((m + 127) / 128)).flatMap fun rb =>
    (List.range ((g.k + g.kp - 1) / g.kp)).map fun kc => ⟨cb, rb, kc⟩

/-- The weights the loader brings for a pass (R76): grid row r holds weight row r of the chunk, or rows 2r and 2r + 1 in
pairs, the second times 256 (log entry 97). Rows and columns that are not listed hold zero weights (R73). -/
def passWeights (g : GemmIn) (owner : Nat × Nat) (p : Pass) : Weights :=
  let b := g.panel (128 * p.cb)
  let code (k j : Nat) : Nat := if k < g.chunk p.kc then elemCode g.fb b ((g.kp * p.kc + k) * 128 + j) else 0
  ⟨g.fb, some owner, (List.range ((g.chunk p.kc + g.pair - 1) / g.pair)).map fun r => (List.range (g.width p.cb)).map fun j =>
    if g.pair = 2 then code (2 * r) j + 256 * code (2 * r + 1) j else code r j⟩

/-- The weight element that multiplies element k of a chunk in column j. -/
def Weights.elem (w : Weights) (pair k j scale : Nat) : Val :=
  let c := (w.cells.getD (k / pair) []).getD j 0
  codeVal w.fmt (if pair = 2 then (if k % 2 = 0 then c % 256 else c / 256) else c) scale

/-- The partial sums of one row of a pass, column by column: what stood there, and a product from each cell (R71). -/
def rowSums (g : GemmIn) (w : Weights) (p : Pass) (i : Nat) (start : List Elem) : List Elem :=
  let row := ((g.aRow i).drop (g.kp * p.kc)).take (g.chunk p.kc)
  (List.range (g.width p.cb)).map fun j => addProducts (start.getD j (Elem.zero 0)) row
    ((List.range row.length).map fun k => w.elem g.pair k j (g.bScale ((g.kp * p.kc + k) / 32) (128 * p.cb + j)))

/-- Put a row of accumulators at its place. -/
def setRow (acc : List (List Elem)) (r : Nat) (v : List Elem) : List (List Elem) :=
  acc.take r ++ List.replicate (r - acc.length) [] ++ [v] ++ acc.drop (r + 1)

/-- A row enters the grid (R75, R77): where the front has passed, the cells copy NXT into CUR as the first row after it
reaches them; `front` marks the last row of its pass. Passes before the last add into the accumulators, and the last drains
inline (R81). The row takes place `at_` of the accumulators. -/
def enterRow (g : GemmIn) (p : Pass) (i at_ : Nat) (anchor : Int) (front : Bool) (x : GridSt) : GridSt :=
  let cur := if x.armed then x.nxt else x.cur
  let start := if p.kc = 0 then List.replicate (g.width p.cb) (Elem.zero anchor) else x.acc.getD at_ []
  { x with
    cur := cur, armed := front
    acc := if g.k ≤ g.kp * (p.kc + 1) then x.acc else setRow x.acc at_ (rowSums g cur p i start) }

/-- A pass: its weights are loaded into NXT (R76), and its rows enter one by one from accumulator row `at_` on. -/
def runPass (g : GemmIn) (owner : Nat × Nat) (m at_ : Nat) (anchor : Nat → Nat → Int) (x : GridSt) (p : Pass) : GridSt :=
  let rows := blockIx p.rb m
  (List.range rows.length).foldl (fun x i =>
    enterRow g p (128 * p.rb + i) (at_ + i) (anchor p.rb p.cb) (i + 1 == rows.length) x)
    { x with nxt := passWeights g owner p }

/-! ### The current a pass leaves behind (R87, R89) -/

/-- Grid current of a tile of this die for an 8-bit, a paired and a 16-bit pass of 128 rows of 128 cells, in mA: as the shim
planner calibrated it, else the typical figures (R87). -/
def gridFigures (s : State) (die : Nat) : Nat × Nat × Nat := s.pwr.plan.gridCal.getD die (9000, 10500, 8000)

/-- Estimated current of a pass in mA by its formats and its active cells (R87; in proportion to them: log entry 102). -/
def passCurrent (fig : Nat × Nat × Nat) (fa fb cells : Nat) : Nat :=
  (if fa = 2 || fa = 3 then fig.2.2 else if perCell fa fb = 2 then fig.2.1 else fig.1) * cells / 16384

/-- Active cells of the last pass of a product. -/
def GemmIn.lastCells (g : GemmIn) : Nat :=
  (g.chunk ((g.k - 1) / g.kp) + g.pair - 1) / g.pair * g.width ((g.n - 1) / 128)

/-- A tile after passes that left this current behind: the floor level fills the gap behind them (R89). -/
def afterCurrent (t current n : Nat) (s : State) : State :=
  setTile t (fun x => { x with
    lastCurrent := current, level := floorLevel (currentFloor s) current, gated := false, passes := x.passes + n }) s

/-- A tile after the passes of m rows of a product: its grid (R75-R81) and its current. Rows that share the passes of
rows before them count no passes of their own (R86). -/
def afterPass (e : OpEnv) (g : GemmIn) (m row : Nat) (anchor : Nat → Nat → Int) (s : State) : State :=
  let ps := gridPasses g m
  if ps.isEmpty then s
  else
    let s1 := setTile e.tile (fun x => { x with grid := ps.foldl (runPass g (e.ctx, e.ver) m row anchor) x.grid }) s
    afterCurrent e.tile (passCurrent (gridFigures s (e.tile / 64)) g.fa g.fb g.lastCells) (if row = 0 then ps.length else 0) s1

/-! ### GEMM and GEMM_SEND -/

/-- The operands of a GEMM descriptor. All are read before anything is written, whatever C overlaps (R73; log entry
103). -/
def gemmIn (s : State) (e : OpEnv) (d : Bytes) (m : Nat) : GemmIn :=
  ⟨gFa d, gFb d, gK d, gN d, rdField s e (getLE d 0x10 4) (rowBytes (gFa d) m (gK d)),
    if isMx (gFa d) then rdField s e (getLE d 0x14 4) (m * blocksOf (gK d)) else [],
    rdField s e (getLE d 0x18 4) (bBytes (gFb d) (gK d) (gN d)),
    if isMx (gFb d) then rdField s e (getLE d 0x1C 4) (bScaleBytes (gK d) (gN d)) else [],
    if gEpi d = 0 then none else some (rdField s e (getLE d 0x3E 2 * 256) (4 * gN d))⟩

/-- Anchors of a GEMM: per block, the largest pre-scan over the parts of its K range (R54). -/
def gemmAnchor (ins : List GemmIn) (m n rb cb : Nat) : Int :=
  (ins.map fun g => blockAnchor g (blockIx rb m) (blockIx cb n)).foldl max (-128)

/-- How element e of an op's output rounds (R62). -/
def opRnd (e : OpEnv) (mode tensor i : Nat) : Rnd := rndOf mode e.seed tensor e.step i

/-- The other parts of an op's split-K group (R95): the ops of its slot on tiles of this die with the same anchor group, or
those named with the op where the tile runs no program of a jig. -/
def splitParts (s : State) (t : Nat) (d : Bytes) (named : List (OpRun × Bytes)) : List (Nat × Nat) :=
  if gGroup d = 0 then []
  else
    let ops := if (slotOpsOf s t).isEmpty then named.map fun p => (p.1.tile.val, p.2) else slotOpsOf s t
    (ops.filter fun m => m.1 / 64 == t / 64 && (dKind m.2 == 1 || dKind m.2 == 2) && gGroup m.2 == gGroup d &&
      !(m.1 == t && dSeq m.2 == dSeq d)).map fun m => (m.1, dSeq m.2)

/-- A micro-batch of a grid op with all it brings along. -/
def gridItem (s : State) (e : OpEnv) (d : Bytes) (named : List (OpRun × Bytes)) : GridItem :=
  ⟨d, e, gemmIn s e d (gM d), (((tileOf s e.tile).take.bind fun k => k.times[e.mb]?).getD s.now), 0, splitParts s e.tile d named⟩

/-- What a micro-batch drains with these anchors. -/
def itemOut (i : GridItem) (anchor : Nat → Nat → Int) : OutT :=
  let d := i.desc
  drainRows (gFc d) (gMode d) (gEpi d) (gN d) (opRnd i.env (gMode d) (getLE d 0x34 4)) (gemmRows i.inp (gM d) anchor)

/-- Write a GEMM's C and its scales, and count its events. -/
def gemmWrite (e : OpEnv) (d : Bytes) (o : OutT) (s : State) : State :=
  let s1 := wrField e (getLE d 0x20 4) o.elems s
  countOut e d (gFc d) o (if isMx (gFc d) then wrField e (getLE d 0x24 4) o.scales s1 else s1)

/-- The cause when the weights of a pass are no longer there as it is due (R99). -/
def weightsGone (s : State) (i : GridItem) : Option Nat :=
  if getLE i.desc 0x18 4 / 2 ^ 28 = 3 then
    match tileSlice s i.env with
    | .error c => some c
    | .ok _ => none
  else none

/-- The passes of a micro-batch issue: GEMM writes C, GEMM_SEND drains into the outgoing block and sends its part (R97). -/
def issueItem (i : GridItem) (anchor : Nat → Nat → Int) (s : State) : Except Nat State :=
  match weightsGone s i with
  | some c => .error c
  | none =>
    let d := i.desc
    let o := itemOut i anchor
    let s1 := afterPass i.env i.inp (gM d) i.row anchor s
    if dKind d = 2 then
      sendPart i.env d (getLE d 0x20 4 % 2 ^ 28) (withTrailing (gFc d) o)
        (countOut i.env d (gFc d) o (wrTrailing i.env (getLE d 0x20 4) (gFc d) o s1))
    else .ok (gemmWrite i.env d o s1)

/-- ... with a fault for what cannot. -/
def issueOr (i : GridItem) (anchor : Nat → Nat → Int) (s : State) : State :=
  if !activeCtx (ctxOf s i.env.ctx) then s
  else match issueItem i anchor s with
    | .ok s1 => s1
    | .error c => opFault i.env c s

/-- Must the send of this micro-batch wait (R155)? -/
def itemBlocked (s : State) (i : GridItem) : Bool := dKind i.desc == 2 && sendBlocked s i.env i.desc

/-! ### Split-K groups (R54, R95) -/

/-- Do two parts belong to one micro-batch? -/
def sameMb (i j : GridItem) : Bool :=
  i.env.ctx == j.env.ctx && i.env.step == j.env.step &&
    (i.env.hdr.map hdrMb).getD i.env.mb == (j.env.hdr.map hdrMb).getD j.env.mb

/-- The waiting part of this micro-batch at a tile and seq. -/
def mateAt (s : State) (i : GridItem) (p : Nat × Nat) : Option GridItem :=
  (tileOf s p.1).split.find? fun j => dSeq j.desc == p.2 && sameMb i j

/-- Do the parts of a split-K group agree in all that R95 asks? -/
def partsAgree (i j : GridItem) : Bool :=
  gM i.desc == gM j.desc && gN i.desc == gN j.desc && gFa i.desc == gFa j.desc && gFb i.desc == gFb j.desc &&
    gFc i.desc == 0x0D && gFc j.desc == 0x0D

/-- Take a part out of the waiting ones; its version reference ends with its passes (R79). -/
def splitLeave (i : GridItem) (s : State) : State :=
  verDrop i.env.ctx i.env.stage i.env.ver (setTile i.env.tile (fun x => { x with split := x.split.erase i }) s)

/-- Once the pre-scans of all parts are there, they agree one anchor per block and run (R54); parts that disagree in what
R95 asks are a fault of the context, ANCHOR. While one of them must wait for a credit, all do. -/
def runSplit (i : GridItem) (s : State) : State :=
  let all := i.parts.filterMap (mateAt s i) ++ [i]
  if all.length != i.parts.length + 1 || all.any (itemBlocked s) then s
  else if !all.all (partsAgree i) then opFault i.env 3 s
  else
    let anchor := gemmAnchor (all.map (·.inp)) (gM i.desc) (gN i.desc)
    let s1 := all.foldl (fun s j => issueOr j anchor (splitLeave j s)) s
    all.foldl (fun s j => tryEnd j.env.tile s) s1

/-- A micro-batch is due at the grid: alone it issues, as part of a split-K group it waits for the others. -/
def arrive (i : GridItem) (s : State) : State :=
  if i.parts.isEmpty then issueOr i (gemmAnchor [i.inp] (gM i.desc) (gN i.desc)) s
  else runSplit i (verTake i.env.ctx i.env.stage i.env.ver
    (setTile i.env.tile (fun x => { x with split := x.split ++ [i] }) s))

/-! ### The fill gate (R84-R86) -/

/-- Seq of the op a group belongs to. -/
def Group.op (g : Group) : Nat := match g.items with
  | i :: _ => dSeq i.desc
  | [] => 0

/-- When a group times out (R85). -/
def Group.deadline (g : Group) : Nat := match g.items with
  | i :: _ => g.opened + 16 * getLE i.desc 0x3A 2
  | [] => g.opened

/-- The tail point of an op in the slot its tile runs (R85). -/
def fillTail (s : State) (t : Nat) (d : Bytes) : Option Nat :=
  (tileOf s t).prog.map fun p => p.2.1 + entDur p.2.2 - 16 * getLE d 0x3C 2

def Group.tail (s : State) (t : Nat) (g : Group) : Option Nat := g.items.head?.bind fun i => fillTail s t i.desc

/-- Issue the items of the first group while they can; the group leaves with its last item, and its version reference
with it (R79). A GEMM_SEND that must wait for a credit holds what follows it; a fault discards the rest. -/
def issueGroup (t : Nat) (g : Group) : List GridItem → State → State
  | [], s => verDrop g.ctx g.stage g.version s
  | i :: r, s =>
    if !activeCtx (ctxOf s g.ctx) then verDrop g.ctx g.stage g.version s
    else if itemBlocked s i then setTile t (fun x => { x with groups := { g with items := i :: r } :: x.groups }) s
    else issueGroup t { g with issued := g.issued + gM i.desc } r (arrive { i with row := g.issued } s)

/-- Issue every closed group, in the order in which they closed; closed groups stand first in the list. -/
def issueClosed : Nat → Nat → State → State
  | 0, _, s => s
  | n + 1, t, s => match (tileOf s t).groups.find? (·.closed) with
    | none => s
    | some g =>
      let s1 := issueGroup t g g.items (setTile t (fun x => { x with groups := x.groups.erase g }) s)
      if ((tileOf s1 t).groups.head?.map (·.closed)).getD false &&
          (tileOf s1 t).groups.length == (tileOf s t).groups.length then s1
      else issueClosed n t s1

/-- Everything of a tile that can issue does: split-K groups that waited for a credit, then closed gather groups. -/
def issueAll (t : Nat) (s : State) : State :=
  let s1 := (tileOf s t).split.foldl (fun s i => if (tileOf s t).split.contains i then runSplit i s else s) s
  tryEnd t (issueClosed ((tileOf s1 t).groups.length + 1) t s1)

/-- Close the groups a test names: they move behind the groups that closed before them. -/
def closeGroups (t : Nat) (p : Group → Bool) (s : State) : State :=
  setTile t (fun x => { x with groups := (x.groups.filter (·.closed)) ++
    ((x.groups.filter fun g => !g.closed && p g).map fun g => { g with closed := true }) ++
    (x.groups.filter fun g => !g.closed && !p g) }) s

/-- Rows with which a micro-batch joins: those of its header. -/
def joinRows (e : OpEnv) (d : Bytes) : Nat := (e.hdr.map hdrRows).getD (gM d)

/-- A micro-batch joins the gate (R84, R85) with the operands it has now (R83); the tile takes a reference on the version
with a group's first row (R79). Past the tail point a group closes at once. -/
def joinGate (e : OpEnv) (d : Bytes) (named : List (OpRun × Bytes)) (s : State) : State :=
  let t := e.tile
  let i := gridItem s e d named
  let rows := joinRows e d
  let mine (g : Group) : Bool := !g.closed && g.op == dSeq d
  let key (g : Group) : Bool := mine g && g.ctx == e.ctx && g.version == e.ver && g.stage == e.stage
  let s1 := closeGroups t (fun g => key g && decide (128 < g.rows + rows)) s
  let s2 := if (tileOf s1 t).groups.any key then
      let add (g : Group) : Group := if key g then { g with rows := g.rows + rows, items := g.items ++ [i] } else g
      setTile t (fun x => { x with groups := x.groups.map add }) s1
    else
      let open_ := (tileOf s1 t).groups.filter mine
      let s2 := if 4 ≤ open_.length then closeGroups t (fun g => some g == open_.head?) s1 else s1
      let g : Group := ⟨e.ctx, e.stage, e.ver, rows, [i], i.since, false, 0⟩
      verTake e.ctx e.stage e.ver (setTile t (fun x => { x with groups := x.groups ++ [g] }) s2)
  let late := (match fillTail s t d with
    | some p => decide (p ≤ s.now)
    | none => false)
  issueAll t (closeGroups t (fun g => key g && (late || decide (gFill d ≤ g.rows))) s2)

/-- A grid op through the gate, or as its own blocks when the gate is off or the micro-batch has more than 128 rows. -/
def gatedBody (d : Bytes) (named : List (OpRun × Bytes)) (e : OpEnv) (s : State) : Except Nat State :=
  if gFill d = 0 || decide (128 < joinRows e d) then
    let i := gridItem s e d named
    if i.parts.isEmpty then issueItem i (gemmAnchor [i.inp] (gM d) (gN d)) s else .ok (arrive i s)
  else .ok (joinGate e d named s)

def doGemm (r : OpRun) (d : Bytes) (parts : List (OpRun × Bytes)) (s : State) : State := runOp r d (gatedBody d parts) s

/-- Does a send wait (R155)? Then nothing of its op happens yet, and the same command finds it again. -/
def sendWaits (s : State) (r : OpRun) (d : Bytes) : Bool := match opCtx s r.tile.val d with
  | some c => !skips s r.tile.val d && activeCtx (ctxOf s c) && sendBlocked s (opEnv s r d c) d
  | none => false

/-- Does a micro-batch of a grid op go past the fill gate (R84)? -/
def pastGate (s : State) (r : OpRun) (d : Bytes) : Bool := gFill d == 0 || (match opCtx s r.tile.val d with
  | some c => decide (128 < joinRows (opEnv s r d c) d)
  | none => false)

def doGemmSend (r : OpRun) (d : Bytes) (s : State) : State :=
  if pastGate s r d && sendWaits s r d then s else runOp r d (gatedBody d []) s

/-- The earliest of some instants. -/
def soonest (l : List Nat) : Option Nat := l.min?

/-- Time goes on to the earliest of these instants. -/
def advanceTo (l : List Nat) (s : State) : State := match soonest l with
  | some t => advance t s
  | none => s

/-- FILL_GROUP_TIMEOUT (R85): time goes on to the first timeout among the open groups of this key, and those whose timeout
has run close; groups that wait for credits go on. -/
def doFillGroupTimeout (t c v : Nat) (s : State) : State :=
  let mine (g : Group) : Bool := !g.closed && g.ctx == c && g.version == v
  let s1 := advanceTo (((tileOf s t).groups.filter mine).map Group.deadline) s
  keepLate t s1 (issueAll t (closeGroups t (fun g => mine g && decide (g.deadline ≤ s1.now)) s1))

/-- FILL_TAIL_POINT (R85): time goes on to the first tail point among the ops with open groups, and those past theirs
close; where the tile runs no slot, all do. -/
def doFillTailPoint (t : Nat) (s : State) : State :=
  let s1 := advanceTo (((tileOf s t).groups.filter fun g => !g.closed).filterMap (Group.tail s t)) s
  keepLate t s1 (issueAll t (closeGroups t (fun g => (match Group.tail s t g with
    | some p => decide (p ≤ s1.now)
    | none => true)) s1))

/-! ### Dummy rows and the current of the grid (R87-R91, R98) -/

/-- How long a DUMMY runs, in ns (R98): 0 stands for the rest of the slot's working time. -/
def dummyNs (s : State) (t : Nat) (d : Bytes) : Nat :=
  if getLE d 0x14 4 != 0 then getLE d 0x14 4
  else match runningImage s, (tileOf s t).prog with
    | some b, some p => p.2.1 + entWork b p.2.2 - s.now
    | _, _ => 0

/-- DUMMY (R98): its values come from the LFSR (R88); its level is held into the next op, or ramped to zero and the tile
clock-gated (R90); it changes no weight, accumulator, flag or counter (R88). Level 0 on a tile with no pass behind it is
level 0 (log entry 101). -/
def dummyBody (d : Bytes) (e : OpEnv) (s : State) : Except Nat State :=
  let l := getLE d 0x10 1
  let seed := getLE d 0x18 4
  let run := Config.lfsr (dummyNs s e.tile d) (BitVec.ofNat 32 (if seed = 0 then 1 else seed))
  .ok (setTile e.tile (fun x =>
    let lvl := if l = 0 then floorLevel (currentFloor s) x.lastCurrent else l
    { x with
      lfsr := run.toNat, level := if bit (getLE d 0x11 1) 0 then 0 else lvl
      gated := bit (getLE d 0x11 1) 0 }) s)

def doDummy (r : OpRun) (d : Bytes) (s : State) : State := runOp r d (dummyBody d) s

/-- Dummy rows of a ramp of 20 µs (R90). -/
def rampLfsr (x : Nat) : Nat := (Config.lfsr 20000 (BitVec.ofNat 32 x)).toNat

/-- KEEP_CURRENT_THRESHOLD (R90): the tile ramps down in equal steps and is clock-gated. -/
def doKeepCurrentThreshold (t : Nat) (s : State) : State :=
  setTile t (fun x => { x with level := 0, gated := true, lfsr := rampLfsr x.lfsr }) s

/-- TILE_RAMP_UP (R90): from zero to the floor level before the next planned op. The spec does not say which level a ramp up
ends at, nor what a tile with no pass behind it takes: the floor level of the last pass, else of an 8-bit pass (log entry
101). -/
def doTileRampUp (t : Nat) (s : State) : State :=
  setTile t (fun x => { x with
    level := floorLevel (currentFloor s) (if x.lastCurrent = 0 then (gridFigures s (t / 64)).1 else x.lastCurrent)
    gated := false, lfsr := rampLfsr x.lfsr }) s

/-- Hold the tiles that start or step up, in order of tile number, until what is left of the rise fits (R91). -/
def holdTiles (over_ : Nat) : List Nat → State → State
  | [], s => s
  | t :: r, s =>
    let x := tileOf s t
    let own := if x.lastCurrent = 0 then (gridFigures s (t / 64)).1 else x.lastCurrent
    if over_ = 0 then holdTiles 0 r (setTile t (fun x => { x with held := false }) s)
    else holdTiles (over_ - own) r (setTile t (fun x => { x with held := true, slewNs := x.slewNs + 1000 }) s)

/-- Add dummy rows to the falling tiles until what is left of the fall fits (R91): 562.5 mA a level, at most level 16. -/
def fillTiles (short : Nat) : List Nat → State → State
  | [], s => s
  | t :: r, s =>
    let have_ := (tileOf s t).level
    let add := min (16 - have_) ((10 * short + 5624) / 5625)
    fillTiles (short - add * 5625 / 10) r
      (if add = 0 then s else setTile t (fun x => { x with level := have_ + add, gated := false }) s)

/-- Tiles of a die, in order, with an op running or without one. -/
def dieTiles (s : State) (die : Nat) (busy : Bool) : List Nat :=
  (List.range 64).filterMap fun i =>
    let t := 64 * die + i
    if thas s.tile.tiles t && (tileOf s t).running.isSome == busy then some t else none

/-- SLEW_GOVERNOR_WINDOW (R91): the die's mean current over 1 µs in mA against the window before. Of a rise above 50 A the
governor holds back issue, of a fall above 50 A it fills dummy rows in; which tiles, log entry 104. -/
def doSlewGovernor (die current : Nat) (s : State) : State :=
  let x := dieOf s die
  let old := x.current
  let now := max (old - 50000) (min (old + 50000) current)
  let held := decide (old + 50000 < current)
  let s1 := { s with pwr := { s.pwr with dies := tset s.pwr.dies die { x with current := now, held := held } } }
  fillTiles (old - 50000 - current) (dieTiles s1 die false)
    (holdTiles (current - (old + 50000)) (dieTiles s1 die true) s1)

/-! ### Rows of the table -/

def execGemm (r : OpRun) (d : Bytes) (parts : List (OpRun × Bytes)) (s : State) : Host.Outcome State Fault Refusal :=
  .next (settle s (doGemm r d parts s))

def execGemmSend (r : OpRun) (d : Bytes) (s : State) : Host.Outcome State Fault Refusal :=
  .next (settle s (doGemmSend r d s))

def execDummy (r : OpRun) (d : Bytes) (s : State) : Host.Outcome State Fault Refusal := .next (settle s (doDummy r d s))

def execFillGroupTimeout (tile : Fin 256) (ctx version : Nat) (s : State) : Host.Outcome State Fault Refusal :=
  .next (settle s (doFillGroupTimeout tile.val ctx version s))

def execFillTailPoint (tile : Fin 256) (s : State) : Host.Outcome State Fault Refusal :=
  .next (settle s (doFillTailPoint tile.val s))

def execKeepCurrentThreshold (tile : Fin 256) (s : State) : Host.Outcome State Fault Refusal :=
  .next (settle s (doKeepCurrentThreshold tile.val s))

def execTileRampUp (tile : Fin 256) (s : State) : Host.Outcome State Fault Refusal :=
  .next (settle s (doTileRampUp tile.val s))

def execSlewGovernorWindow (die : Fin 4) (current : Nat) (s : State) : Host.Outcome State Fault Refusal :=
  .next (settle s (doSlewGovernor die.val current s))

end Sys2Proof.Machine
end

