-- ==== Sys2Proof/Machine/MoveOps.lean ====
section
/-! DEFINITION. Ops that move rows: COPY (R126), GATHER and EMBED through the L1 (R102, R128-R130, R133), RECV
(R150-R153) and SEND (R154, R155). -/

namespace Sys2Proof.Machine

/-! ### COPY (R125, R126) -/

/-- An endpoint of a COPY: its handle and offset. -/
def copySrc (s : State) (e : OpEnv) (d : Bytes) (i : Nat) : Bytes :=
  let off := getLE d 0x20 8 + i * getLE d 0x38 4
  if getLE d 0x10 8 = 0 then rdField s e off (yLen d) else tileReads s e.tile (.object (getLE d 0x10 8) off) (yLen d)

def copyPut (e : OpEnv) (d : Bytes) (i : Nat) (bs : Bytes) (s : State) : State :=
  let off := getLE d 0x28 8 + i * getLE d 0x3C 4
  let h := getLE d 0x18 8
  if h = 0 then wrField e off bs s else writeLoc e.tile (.object h off) bs s

/-- The fault of an object endpoint (R110, R127, R135). -/
def copyFault (s : State) (e : OpEnv) (d : Bytes) : Option Nat :=
  let src := if getLE d 0x10 8 = 0 then none
    else objFault s e.ctx (getLE d 0x10 8) 1 (getLE d 0x20 8) (spanOf (yRows d) (getLE d 0x38 4) (yLen d))
  match src with
  | some f => some f
  | none => if getLE d 0x18 8 = 0 then none
    else objFault s e.ctx (getLE d 0x18 8) 2 (getLE d 0x28 8) (spanOf (yRows d) (getLE d 0x3C 4) (yLen d))

/-- Every row is read before any is written, as through a temporary buffer. -/
def copyBody (d : Bytes) (e : OpEnv) (s : State) : Except Nat State :=
  match copyFault s e d with
  | some f => .error f
  | none =>
    let rows := (List.range (yRows d)).map fun i => (i, copySrc s e d i)
    .ok (rows.foldl (fun s r => copyPut e d r.1 r.2 s) s)

def doCopy (r : OpRun) (d : Bytes) (s : State) : State := runOp r d (copyBody d) s

/-! ### Reads through the L1 (R102) -/

/-- Where a place of a table lies: handle 0 is the die's window. -/
def tableLoc (e : OpEnv) (h off : Nat) : Loc := if h = 0 then .window (e.tile / 64 * 2 ^ 26 + off) else .object h off

/-- The set of the L1 a line goes to: 256 KiB in 8 ways of 128 B lines make 256 sets (R100; which set, and which line of a
full set gives way, log entry 105). -/
def l1Set (line : Nat) : Nat := line % 256

/-- A line in front of the lines of an L1: the oldest line of a full set gives way. -/
def l1Put (l : List (Nat × Nat × Bytes)) (x : Nat × Nat × Bytes) : List (Nat × Nat × Bytes) :=
  let mates := l.filter fun y => l1Set y.2.1 == l1Set x.2.1
  x :: (if 8 ≤ mates.length then (match mates.getLast? with
    | some y => l.erase y
    | none => l) else l)

/-- A 128 B line read through the L1: the one it holds, else the line as the tile sees it, which the L1 then holds. -/
def l1Line (e : OpEnv) (h line : Nat) (s : State) : Bytes × State :=
  match (tileOf s e.tile).l1.find? fun x => x.1 == h && x.2.1 == line with
  | some x => (x.2.2, s)
  | none =>
    let bs := tileReads s e.tile (tableLoc e h (line * 128)) 128
    (bs, setTile e.tile (fun x => { x with l1 := l1Put x.l1 (h, line, bs) }) s)

def l1Lines (e : OpEnv) (h : Nat) : List Nat → State → Bytes × State
  | [], s => ([], s)
  | l :: r, s =>
    let a := l1Line e h l s
    let b := l1Lines e h r a.2
    (a.1 ++ b.1, b.2)

/-- Read n bytes of a table through the L1. -/
def l1Read (e : OpEnv) (h off n : Nat) (s : State) : Bytes × State :=
  if n = 0 then ([], s)
  else
    let r := l1Lines e h ((List.range ((off + n - 1) / 128 + 1 - off / 128)).map (· + off / 128)) s
    (slice r.1 (off % 128) n, r.2)

/-! ### Indices (R130) -/

/-- An index in range, or none. -/
def indexOf (b : Bytes) (i rows : Nat) : Option Nat :=
  let v := signed 32 (getLE b (4 * i) 4)
  if 0 ≤ v && decide (v < (rows : Int)) then some v.toNat else none

/-- Count the indices out of range and raise EV_INDEX_RANGE once, naming the first position. -/
def indexEvent (e : OpEnv) (bad : List Nat) (s : State) : State :=
  match bad with
  | [] => s
  | i :: _ =>
    let s1 := setTile e.tile (fun x => { x with indexCnt := satInc x.indexCnt bad.length }) s
    raiseCtx 0x0404 (tileSource e.tile) e.ctx [(1, e.kind), (2, e.seq), (1, e.tile), (4, i)]
      { s1 with vnr := { s1.vnr with indexCnt := satInc s1.vnr.indexCnt bad.length } }

def badIndices (b : Bytes) (count rows : Nat) : List Nat :=
  (List.range count).filter fun i => (indexOf b i rows).isNone

/-! ### GATHER (R128, R130, R133) -/

/-- One element of a scatter-add: an INT32 add, or a WIDE add that fails on unequal anchors. -/
def scatterElem (mode : Nat) (old new : Bytes) : Option Bytes :=
  if mode = 1 then some (toLE 4 ((getLE old 0 4 + getLE new 0 4) % 2 ^ 32))
  else (Elem.combine (Elem.ofBytes old) (Elem.ofBytes new)).map Elem.bytes

/-- The elements of one row, one atomic each: the elements written so far, and whether all could be. -/
def scatterRow (mode w : Nat) : Nat → Bytes → Bytes → Bytes × Bool
  | 0, _, _ => ([], true)
  | n + 1, old, new =>
    match scatterElem mode (slice old 0 w) (slice new 0 w) with
    | none => ([], false)
    | some b =>
      let r := scatterRow mode w n (old.drop w) (new.drop w)
      (b ++ r.1, r.2)

/-- Scatter rows in order, at the shared cache itself and past the L1 (R133); unequal anchors leave that element and end
the op with the cause ANCHOR. -/
def scatterRows (d idx data : Bytes) (e : OpEnv) : List Nat → State → State
  | [], s => s
  | i :: r, s =>
    match indexOf idx i (ghRows d) with
    | none => scatterRows d idx data e r s
    | some row =>
      let w := if ghMode d = 1 then 4 else 16
      let h := getLE d 0x10 8
      let off := getLE d 0x18 8 + row * ghRow d
      let at_ := tableLoc e h off
      let x := scatterRow (ghMode d) w (ghRow d / w) (readLoc s at_ (ghRow d)) (slice data (i * ghRow d) (ghRow d))
      let s1 := writeLoc e.tile at_ x.1 s
      if x.2 then scatterRows d idx data e r s1 else opFault e 3 s1

/-- The rows a gather writes: zero rows for indices out of range. -/
def gatherRows (d idx : Bytes) (e : OpEnv) : List Nat → State → Bytes × State
  | [], s => ([], s)
  | i :: r, s =>
    let x := match indexOf idx i (ghRows d) with
      | none => (List.replicate (ghRow d) 0, s)
      | some row => l1Read e (getLE d 0x10 8) (getLE d 0x18 8 + row * ghRow d) (ghRow d) s
    let y := gatherRows d idx e r x.2
    (x.1 ++ y.1, y.2)

/-- The rows of a window table that the indices name are touched (R109). -/
def touchTable (d idx : Bytes) (e : OpEnv) (s : State) : State :=
  if getLE d 0x10 8 = 0 then
    ((List.range (ghCount d)).filterMap fun i => indexOf idx i (ghRows d)).foldl (fun s row =>
      touchLoc e.tile e.ctx (tableLoc e 0 (getLE d 0x18 8 + row * ghRow d)) (ghRow d) s) s
  else s

def gatherBody (d : Bytes) (e : OpEnv) (s : State) : Except Nat State :=
  let h := getLE d 0x10 8
  let f := if h = 0 then none else objFault s e.ctx h (if ghMode d = 0 then 1 else 2) (getLE d 0x18 8) (ghRows d * ghRow d)
  match f with
  | some f => .error f
  | none =>
    let idx := rdField s e (getLE d 0x20 4) (4 * ghCount d)
    let s1 := indexEvent e (badIndices idx (ghCount d) (ghRows d)) (touchTable d idx e s)
    if ghMode d = 0 then
      let r := gatherRows d idx e (List.range (ghCount d)) s1
      .ok (wrField e (getLE d 0x24 4) r.1 r.2)
    else
      let data := rdField s1 e (getLE d 0x24 4) (ghCount d * ghRow d)
      .ok (scatterRows d idx data e (List.range (ghCount d)) s1)

def doGather (r : OpRun) (d : Bytes) (s : State) : State := runOp r d (gatherBody d) s

/-! ### EMBED (R129, R130) -/

/-- Elements of one table row loaded as FP32 and scaled. -/
def embedRow (d row sc : Bytes) : List F32 :=
  (loadF32 (getLE d 0x26 1) (mDim d) (mDim d) row sc).map fun x =>
    if getLE d 0x30 4 = 0 then (x, []) else mul32 x (getLE d 0x30 4)

def embedRows (d ids : Bytes) (h : Nat) (e : OpEnv) : List Nat → State → List (List F32) × State
  | [], s => ([], s)
  | i :: r, s =>
    let f := getLE d 0x26 1
    let rb := fmtBytes f (mDim d)
    let base := align64 (getLE d 0x1C 4 * rb)
    let x := match indexOf ids i (getLE d 0x1C 4) with
      | none => (List.replicate (mDim d) ((0, []) : F32), s)
      | some row =>
        let a := l1Read e h (row * rb) rb s
        let b := if isMx f then l1Read e h (base + row * blocksOf (mDim d)) (blocksOf (mDim d)) a.2 else ([], a.2)
        (embedRow d a.1 b.1, b.2)
    let y := embedRows d ids h e r x.2
    (x.1 :: y.1, y.2)

/-- The table of an EMBED: weight object table_sel of the version; 0, and a number with no object, are a fault (R172). -/
def embedTable (s : State) (e : OpEnv) (d : Bytes) : Except Nat Nat :=
  let v := verOf s e.ctx e.stage e.ver
  if v.state != 2 then .error 1
  else if getLE d 0x18 4 = 0 then .error 5
  else match verObject v (getLE d 0x18 4) with
    | none => .error 5
    | some h =>
      match objFault s e.ctx h 1 0 (vecBytes (getLE d 0x26 1) (getLE d 0x1C 4 * mDim d) (mDim d)) with
      | some f => .error f
      | none => .ok h

def embedBody (d : Bytes) (e : OpEnv) (s : State) : Except Nat State :=
  match embedTable s e d with
  | .error f => .error f
  | .ok h =>
    let ids := rdField s e (getLE d 0x10 4) (4 * mCount d)
    let s1 := indexEvent e (badIndices ids (mCount d) (getLE d 0x1C 4)) s
    let r := embedRows d ids h e (List.range (mCount d)) s1
    let fo := getLE d 0x27 1
    let o := convF32 fo (modeNonsat (getLE d 0x28 1)) (opRnd e (getLE d 0x28 1) (getLE d 0x2C 4)) (mDim d) 0 r.1
    .ok (countOut e d fo o (wrTrailing e (getLE d 0x14 4) fo o r.2))

def doEmbed (r : OpRun) (d : Bytes) (s : State) : State := runOp r d (embedBody d) s

/-! ### SEND (R154, R155) -/

def sendBody (d : Bytes) (e : OpEnv) (s : State) : Except Nat State :=
  sendPart e d (getLE d 0x1C 4) (rdField s e (getLE d 0x14 4) (getLE d 0x18 4)) s

/-- A SEND that must wait leaves everything as it is until a credit comes (R155). -/
def doSend (r : OpRun) (d : Bytes) (s : State) : State := if sendWaits s r d then s else runOp r d (sendBody d) s

def doSendGroupHeader (r : OpRun) (d : Bytes) (s : State) : State := sendHeader (sendWord d % 256) r.tile.val d s

/-! ### RECV (R150-R153) -/

def rQueue (d : Bytes) : Nat := getLE d 0x10 1
def rMax (d : Bytes) : Nat := getLE d 0x11 1
def rMatch (d : Bytes) : Bool := bit (getLE d 0x12 1) 0
def rStream (d : Bytes) : Bool := bit (getLE d 0x12 1) 1

/-- The entries this RECV has taken on a tile so far. -/
def rTaken (s : State) (t : Nat) (d : Bytes) : Nat := match (tileOf s t).take with
  | some k => if k.recv = d then k.hdrs.length else 0
  | none => 0

/-- Is a context eligible for a row of the running image (R210), as far as this module knows? -/
def eligible (s : State) (row c : Nat) : Bool :=
  let x := ctxOf s c
  (x.state == .admitted || x.state == .running) && (match runningImage s with
    | some b => bit (imgPhases b) x.phase && (match imgPipe b x.pipeline with
      | some p => p.rows.contains row
      | none => false)
    | none => false)

/-- Does the selection of R152 let the group take an entry of context c? -/
def selects (s : State) (t c : Nat) (d : Bytes) : Bool :=
  if dRow d && !rMatch d then
    match (tileOf s t).sel with
    | some k => k == c
    | none => match tileEntry s t with
      | some e => !(rowAt s (entRow e)).arrival || eligible s (entRow e) c
      | none => false
  else opCtx s t d == some c

/-- The record of a hosted stage of a pipeline. -/
def stageQueues (s : State) (pipeline stage : Nat) : Option StageRec :=
  (hostedStages s).find? fun r => r.pipeline == pipeline && r.stage == stage

/-- Micro-batches in flight at a stage of a pipeline (R138): taken by FWD there and not yet by BWD. -/
def inFlightAt (s : State) (pipeline stage : Nat) : Nat :=
  ((s.vnr.ctxs.filter fun e => e.2.pipeline == pipeline).map fun e => (tget [] e.2.inflight stage).length).foldl (· + ·) 0

/-- Does R139 stop a queue: the FWD input of a stage with a BWD input queue and 64 micro-batches in flight? -/
def limited (s : State) (q : Nat) : Bool :=
  let k := queueOf s q
  k.phase == 0 && (hostedStages s).any fun r =>
    r.stage == k.stage && r.fwdQ == some q && r.bwdQ.isSome && decide (64 ≤ inFlightAt s r.pipeline r.stage)

/-- Bytes a member copies of a block. -/
def rPart (d h : Bytes) : Nat :=
  let left := hdrLen h - getLE d 0x1C 4
  if getLE d 0x20 4 = 0 then left else min (getLE d 0x20 4) left

/-- Is a block too large for a member (R152)? -/
def oversized (d h : Bytes) : Bool := getLE d 0x20 4 == 0 && decide (getLE d 0x1C 4 + getLE d 0x18 4 < hdrLen h)

/-- A member takes an entry: the slice of its tile image is there (R172), its part of the block and the header copy land in
its tile store, their granules tagged with the entry's context (R109), and the tile references the version (R79). -/
def memberTake (m : Fin 256 × Bytes) (q : Nat) (x : QEntry) (s0 : State) : State :=
  let t := m.1.val
  let d := m.2
  let c := hdrCtx x.hdr
  let s := if readsSlices (tileOf s0 t) t then placeSlice t c (hdrStage x.hdr) (hdrVer x.hdr) s0 else s0
  let k := queueOf s q
  let i := rTaken s t d
  let n := rPart d x.hdr
  let at_ := t * 2 ^ 22 + getLE d 0x14 4 % 2 ^ 28 + i * getLE d 0x18 4
  let part := objBytes s k.handle (x.slot * slotBytes k + getLE d 0x1C 4) n
  let s1 := writeLoc t (.store at_) part (touchLoc t c (.store at_) n s)
  let hd := t * 2 ^ 22 + getLE d 0x30 4 % 2 ^ 28 + 64 * i
  let s2 := if getLE d 0x30 4 = 0 then s1 else writeLoc t (.store hd) x.hdr (touchLoc t c (.store hd) 64 s1)
  let old := (tileOf s2 t).take
  let same := if i = 0 then none else old
  let refs := ((old.map (·.refs)).getD []) ++ [(c, hdrStage x.hdr, hdrVer x.hdr)]
  let k1 : Take := ⟨((same.map (·.hdrs)).getD []) ++ [x.hdr], ((same.map (·.times)).getD []) ++ [s.now],
    getLE d 0x14 4 % 2 ^ 28, getLE d 0x18 4, getLE d 0x24 4 % 2 ^ 28, getLE d 0x28 4, getLE d 0x2C 4, false, d, refs,
    rStream d && decide (i + 1 < rMax d)⟩
  setTile t (fun y => { y with take := some k1, ended := false })
    (verTake c (hdrStage x.hdr) (hdrVer x.hdr) (showWrites t s2))

/-- What a take does to the version references of the stage (R173): FWD puts the micro-batch in flight; after BWD its
reference lasts as long as the program of the taking tile, which issues its last pass. -/
def takeFlight (q t : Nat) (h : Bytes) (s : State) : State :=
  let c := hdrCtx h
  let st := hdrStage h
  let id := (hdrStep h, hdrMb h, hdrVer h)
  let fl := tget [] (ctxOf s c).inflight st
  if (queueOf s q).phase = 0 && ((stageQueues s (ctxOf s c).pipeline st).bind (·.bwdQ)).isSome then
    verTake c st (hdrVer h) (setCtx c (fun x => { x with inflight := tset x.inflight st (fl ++ [id]) }) s)
  else if (queueOf s q).phase = 1 && fl.contains id then
    setTile t (fun y => { y with take := y.take.map fun k => { k with refs := k.refs ++ [(c, st, hdrVer h)] } })
      (setCtx c (fun x => { x with inflight := tset x.inflight st (fl.erase id) }) s)
  else s

/-- A HEAD-mode take with ctx.row set selects its context for the rest of the slot (R152); in an ARRIVAL row the register
shows it and an ADMITTED context is RUNNING from then on (R166, R215). -/
def selectCtx (t c : Nat) (d : Bytes) (s : State) : State :=
  if dRow d && !rMatch d && (tileOf s t).sel.isNone then
    let s1 := (slotTiles s t).foldl (fun s u => setTile u (fun x => { x with sel := some c }) s)
      (setTile t (fun x => { x with sel := some c }) s)
    match tileEntry s t with
    | some e =>
      let r := rowAt s (entRow e)
      if r.arrival then
        setCtx c (fun x => if x.state = .admitted then { x with state := .running } else x)
          { s1 with jig := { s1.jig with rows := tset s1.jig.rows (entRow e) { r with ctx := some c } } }
      else s1
    | none => s1
  else s

/-- Take entries while the group may: up to n more heads. -/
def takeHeads (ms : List (Fin 256 × Bytes)) (t : Nat) (d : Bytes) : Nat → State → State
  | 0, s => s
  | n + 1, s =>
    let q := rQueue d
    match (queueOf s q).entries with
    | [] => s
    | x :: rest =>
      let c := hdrCtx x.hdr
      if rMax d ≤ rTaken s t d || !selects s t c d then s
      else if limited s q then
        if (queueOf s q).limitFrame then s
        else raise { code := 0x0305, source := q / 64 } (setQueue q (fun k => { k with limitFrame := true }) s)
      else if ms.any fun m => oversized m.2 x.hdr then takeHeads ms t d n (ctxFault c 9 0x12 (dSeq d) t s)
      else
        let s1 := ms.foldl (fun s m => memberTake m q x s) (selectCtx t c d s)
        let s2 := takeFlight q t x.hdr s1
        let s3 := verDrop c (hdrStage x.hdr) (hdrVer x.hdr)
          (freeSlotOf q x.slot (setQueue q (fun k => { k with entries := rest }) s2))
        takeHeads ms t d n s3

/-- The RECV is the last op of its program only in a program that uses nothing it takes; it then ends the program. -/
def recvLast (ms : List (Fin 256 × Bytes)) (s : State) : State :=
  ms.foldl (fun s m => if dLast m.2 then tryEnd m.1.val (setTile m.1.val (fun x => { x with ended := true }) s) else s) s

/-- The static and check-field tests of a take group: a failed check field faults the context (R106), a bad field is
S_BAD_FIELD. -/
def recvBad (ms : List (Fin 256 × Bytes)) (s : State) : Option State :=
  match ms.find? fun m => !checksOk m.2 with
  | some m => some (match opCtx s m.1.val m.2 with
    | some c => ctxFault c 4 0x12 (dSeq m.2) m.1.val s
    | none => s)
  | none => match ms.find? fun m => !descOk m.2 (windowBytes s) with
    | some m => some (setStatus m.1.val sBadField s)
    | none => none

/-- Is it a RECV's turn on a tile? Once what follows the RECV before it has run for every micro-batch that one took; a
stream goes on taking, and no other RECV runs twice (R107, R152, R153). -/
def recvTurn (s : State) (t : Nat) (d : Bytes) : Bool :=
  let x := tileOf s t
  let ops := progOf x t
  let seg := segment ops (dSeq d)
  let took := ((x.take.filter fun k => some k.recv == seg.2).map fun k => if k.skip then 1 else k.hdrs.length).getD 1
  if (x.take.map fun k => k.recv == d).getD false then (x.take.map (·.streaming)).getD false
  else ops.isEmpty || (ops.any (fun o => dSeq o == dSeq d && (o == d || !checksOk d)) && !x.turns.contains (dSeq d, 0) &&
    seg.1.all (fun o => (List.range took).all fun mb => x.turns.contains (dSeq o, mb)) &&
    (match seg.2 with
      | none => true
      | some r => (match x.take with
        | some k => k.recv == r && !k.streaming
        | none => false)))

/-- No entry is taken later than this instant (R151). -/
def takePoint (s : State) (t : Nat) (d : Bytes) : Option Nat :=
  (tileOf s t).prog.map fun p => p.2.1 + entDur p.2.2 - 16 * getLE d 0x34 2

/-- A RECV with no micro-batch: what follows it in the program is skipped (R152). -/
def noneTaken (m : Fin 256 × Bytes) (s : State) : State :=
  let t := m.1.val
  let d := m.2
  let k : Take := ⟨[], [], getLE d 0x14 4 % 2 ^ 28, getLE d 0x18 4, getLE d 0x24 4 % 2 ^ 28, getLE d 0x28 4, getLE d 0x2C 4,
    true, d, ((tileOf s t).take.map (·.refs)).getD [], false⟩
  fillGap t (setTile t (fun x => { x with take := some k }) (takeTurn t 0 d s))

/-- ... for the whole group, which completes with S_OK. -/
def groupNone (ms : List (Fin 256 × Bytes)) (s : State) : State :=
  ms.foldl (fun s m => noneTaken m (setStatus m.1.val sOk s)) s

/-- RECV (R152): the group takes the entries present, up to the take_tail point; with none it waits, and nothing has
happened yet. A RECV that an earlier empty one makes its tile skip completes with no micro-batch. -/
def doRecv (ms : List (Fin 256 × Bytes)) (s : State) : State :=
  match ms with
  | [] => s
  | (t, d) :: _ =>
    if !ms.all (fun m => recvTurn s m.1.val m.2) then s
    else match recvBad ms s with
    | some s1 => recvLast ms (ms.foldl (fun s m => noneTaken m s) s1)
    | none =>
      if rTaken s t.val d = 0 && skips s t.val d then recvLast ms (groupNone ms s)
      else if ((takePoint s t.val d).map fun p => decide (p < s.now)).getD false then s
      else
        let s1 := takeHeads ms t.val d ((queueOf s (rQueue d)).entries.length) s
        if rTaken s1 t.val d = 0 then s1
        else recvLast ms (keepLate t.val s
          (if rTaken s t.val d = 0 then ms.foldl (fun s m => takeTurn m.1.val 0 m.2 s) s1 else s1))

/-- RECV_TAKE_TAIL (R151, R152): time goes on to the take_tail point. A stream ends there; with nothing taken the RECV
completes empty: the counter, and the event once per frame per queue. -/
def doRecvTakeTail (ms : List (Fin 256 × Bytes)) (s : State) : State :=
  match ms with
  | [] => s
  | (t, d) :: _ =>
    if !ms.all (fun m => recvTurn s m.1.val m.2) then s
    else
      let q := rQueue d
      let s0 := (match takePoint s t.val d with
        | some p => advance p s
        | none => s)
      if 0 < rTaken s t.val d then
        ms.foldl (fun s m => tryEnd m.1.val (setTile m.1.val (fun x => { x with
          take := x.take.map fun k => { k with streaming := false } }) s)) s0
      else
        let s1 := groupNone ms s0
        let s2 := { s1 with mq := { s1.mq with emptyCnt := satInc s1.mq.emptyCnt } }
        let s3 := if (queueOf s q).emptyFrame then s2
          else raise { code := 0x0304, source := q / 64 } (setQueue q (fun k => { k with emptyFrame := true }) s2)
        recvLast ms s3

/-! ### Rows of the table -/

def execCopy (r : OpRun) (d : Bytes) (s : State) : Host.Outcome State Fault Refusal := .next (settle s (doCopy r d s))

def execGather (r : OpRun) (d : Bytes) (s : State) : Host.Outcome State Fault Refusal := .next (settle s (doGather r d s))

def execEmbed (r : OpRun) (d : Bytes) (s : State) : Host.Outcome State Fault Refusal := .next (settle s (doEmbed r d s))

def execSend (r : OpRun) (d : Bytes) (s : State) : Host.Outcome State Fault Refusal := .next (settle s (doSend r d s))

def execSendGroupHeader (r : OpRun) (d : Bytes) (s : State) : Host.Outcome State Fault Refusal :=
  .next (settle s (doSendGroupHeader r d s))

def execRecv (members : List (Fin 256 × Bytes)) (s : State) : Host.Outcome State Fault Refusal :=
  .next (settle s (doRecv members s))

def execRecvTakeTail (members : List (Fin 256 × Bytes)) (s : State) : Host.Outcome State Fault Refusal :=
  .next (settle s (doRecvTakeTail members s))

end Sys2Proof.Machine
end

