-- ==== Sys2Proof/Machine/VectorOps.lean ====
section
/-! DEFINITION. The vector unit's ops: ELEMWISE with ROPE (R119-R121), NORM (R122, R123) and CAST (R124), computed in FP32
under R64-R66 and converted once. -/

namespace Sys2Proof.Machine

/-! ### ELEMWISE (R119-R121) -/

/-- One element of a function of R120; composite functions round after each step. -/
def elemFn (f a b c sc : Nat) : F32 :=
  match f with
  | 0x01 => add32 a b
  | 0x02 => sub32 a b
  | 0x03 => mul32 a b
  | 0x04 => fma32 a b c
  | 0x05 => div32 a b
  | 0x06 => max32 a b
  | 0x07 => min32 a b
  | 0x08 => mul32 a sc
  | 0x09 => add32 a sc
  | 0x0A => trans32 .exp a
  | 0x0B => trans32 .log a
  | 0x0C => trans32 .tanh a
  | 0x0D => trans32 .sigmoid a
  | 0x0E => trans32 .gelu a
  | 0x0F => mul32 a (trans32 .sigmoid a).1
  | 0x10 => mul32 (mul32 a (trans32 .sigmoid a).1).1 b
  | 0x11 => trans32 .rsqrt a
  | 0x12 => trans32 .recip a
  | 0x13 => sqrt32 a
  | _ => (0, [])

/-- An operand of count elements in rows of len, its scales behind it. -/
def loadOp (s : State) (e : OpEnv) (field fmt count len : Nat) : List Nat :=
  loadTrailing fmt len count (rdField s e field (vecBytes fmt count len))

/-- Element i of a second or third operand that repeats a row or a single element (bcast). -/
def bcastIx (row one : Bool) (len i : Nat) : Nat := if one then 0 else if row then i % max len 1 else i

/-- The results of a function other than ROPE. -/
def elemVals (s : State) (e : OpEnv) (d : Bytes) : List F32 :=
  let n := eCount d
  let l := eLen d
  let bc := eBcast d
  let one := bit bc 2
  let a := loadOp s e (getLE d 0x10 4) (eFa d) n l
  let b := if usesB (eFunc d) then
      loadOp s e (getLE d 0x14 4) (eFb d) (if one then 1 else if bit bc 0 then l else n) (if one then 1 else l) else []
  let c := if usesC (eFunc d) then loadOp s e (getLE d 0x18 4) (eFc d) (if bit bc 1 then l else n) l else []
  a.mapIdx fun i x =>
    elemFn (eFunc d) x (b.getD (bcastIx (bit bc 0) one l i) 0) (c.getD (bcastIx (bit bc 1) false l i) 0) (getLE d 0x30 4)

/-- One row of ROPE: each product and each sum rounded to FP32 (R121). -/
def ropeRow (xs : List Nat) (table : Bytes) (pos len : Nat) : List F32 :=
  (List.range (len / 2)).flatMap fun j =>
    let x0 := xs.getD (2 * j) 0
    let x1 := xs.getD (2 * j + 1) 0
    let c := getLE table ((pos * (len / 2) + j) * 8) 4
    let n := getLE table ((pos * (len / 2) + j) * 8 + 4) 4
    [sub32 (mul32 x0 c).1 (mul32 x1 n).1, add32 (mul32 x0 n).1 (mul32 x1 c).1]

/-- The results of ROPE, or none for a position outside the table. -/
def ropeVals (s : State) (e : OpEnv) (d : Bytes) : Option (List F32) :=
  let n := eCount d
  let l := eLen d
  let rows := n / max l 1
  let ps := rdField s e (getLE d 0x18 4) (4 * rows)
  let len := getLE d 0x38 4
  if (badIndices ps rows len).isEmpty then
    let a := loadOp s e (getLE d 0x10 4) (eFa d) n l
    let table := rdField s e (getLE d 0x14 4) (len * l * 4)
    some ((List.range rows).flatMap fun i => ropeRow ((a.drop (i * l)).take l) table (getLE ps (4 * i) 4) l)
  else none

/-- Convert FP32 results to an output whose scales trail it, write it and count it. -/
def vecOut (e : OpEnv) (d : Bytes) (field fmt mode tensor len : Nat) (vs : List F32) (s : State) : State :=
  let o := convF32 fmt (modeNonsat mode) (opRnd e mode tensor) len 0 (rowsOf len vs (vs.length / max len 1))
  countOut e d fmt o (wrTrailing e field fmt o s)

def elemBody (d : Bytes) (e : OpEnv) (s : State) : Except Nat State :=
  let put (vs : List F32) : State := vecOut e d (getLE d 0x1C 4) (eFd d) (getLE d 0x2C 1) (getLE d 0x34 4) (eLen d) vs s
  if eFunc d = 0x14 then
    match ropeVals s e d with
    | some vs => .ok (put vs)
    | none => .error 7
  else .ok (put (elemVals s e d))

def doElemwise (r : OpRun) (d : Bytes) (s : State) : State := runOp r d (elemBody d) s

/-! ### NORM (R122, R123) -/

/-- An anchored row sum, drained to FP32 and divided by n. -/
def rowMean (xs : List Nat) : F32 := div32 (drain32 (sum32 xs)).1 (rat32 xs.length 1)

/-- Mean and rstd of a row; RMSNorm stores a mean of +0. -/
def normStats (rms : Bool) (eps : Nat) (xs : List Nat) : F32 × F32 :=
  if rms then
    let q := rowMean (xs.map fun x => (mul32 x x).1)
    ((0, []), trans32 .rsqrt (add32 q.1 eps).1)
  else
    let m := rowMean xs
    let ds := xs.map fun x => (sub32 x m.1).1
    let v := rowMean (ds.map fun x => (mul32 x x).1)
    (m, trans32 .rsqrt (add32 v.1 eps).1)

/-- One normalised element. -/
def normElem (rms : Bool) (mean rstd x gamma : Nat) (beta : Option Nat) : F32 :=
  let c := if rms then x else (sub32 x mean).1
  let y := mul32 (mul32 c rstd).1 gamma
  match beta with
  | some b => if rms then y else add32 y.1 b
  | none => y

def normFwd (d : Bytes) (e : OpEnv) (s : State) : State :=
  let n := nLen d
  let rms := bit (nKind d) 0
  let xs := rowsOf n (loadOp s e (getLE d 0x10 4) (getLE d 0x30 1) (nRows d * n) n) (nRows d)
  let g := rdField s e (getLE d 0x18 4) (4 * n)
  let b := if getLE d 0x1C 4 = 0 then none else some (rdField s e (getLE d 0x1C 4) (4 * n))
  let st := xs.map (normStats rms (getLE d 0x34 4))
  let ys := (xs.zip st).flatMap fun p => p.1.mapIdx fun j x =>
    normElem rms p.2.1.1 p.2.2.1 x (getLE g (4 * j) 4) (b.map fun b => getLE b (4 * j) 4)
  let s1 := vecOut e d (getLE d 0x14 4) (getLE d 0x31 1) (getLE d 0x2F 1) (getLE d 0x38 4) n ys s
  if getLE d 0x20 4 = 0 then s1
  else vecOut e d (getLE d 0x20 4) 1 0 0 2 (st.flatMap fun p => [p.1, p.2]) s1

/-- The backward pass of one row, from its FP32 x and dy, mean and rstd: the normalised x, and dx. The sums over the row are
anchored reductions drained to FP32; how dx comes of them the spec does not write out (log entry 2). -/
def normBack (rms : Bool) (g : Bytes) (xs dys : List Nat) (mean rstd : Nat) : List Nat × List F32 :=
  let hat := xs.map fun x => (mul32 (if rms then x else (sub32 x mean).1) rstd).1
  let gd := dys.mapIdx fun j y => (mul32 y (getLE g (4 * j) 4)).1
  let a := (drain32 (sum32 gd)).1
  let b := (drain32 (sum32 ((gd.zip hat).map fun p => (mul32 p.1 p.2).1))).1
  let w (x : Nat) : BitVec 32 := BitVec.ofNat 32 x
  (hat, (gd.zip hat).map fun p =>
    let v := (Config.normGrad rms (w p.1) (w p.2) (w rstd) (w a) (w b) xs.length).toNat
    (v, []))

/-- Backward: dx, then dgamma and dbeta as FP32. Each element of these two is an anchored sum over the rows, drained once:
of dy × normalised x for dgamma, of dy for dbeta (log entry 2). -/
def normBwd (d : Bytes) (e : OpEnv) (s : State) : State :=
  let n := nLen d
  let rms := bit (nKind d) 0
  let xs := rowsOf n (loadOp s e (getLE d 0x10 4) (getLE d 0x30 1) (nRows d * n) n) (nRows d)
  let dys := rowsOf n (loadOp s e (getLE d 0x24 4) (getLE d 0x30 1) (nRows d * n) n) (nRows d)
  let g := rdField s e (getLE d 0x18 4) (4 * n)
  let st := rdField s e (getLE d 0x20 4) (8 * nRows d)
  let rs := (xs.zip dys).mapIdx fun i p => normBack rms g p.1 p.2 (getLE st (8 * i) 4) (getLE st (8 * i + 4) 4)
  let col (f : List Nat × List Nat → Nat → Nat) (j : Nat) : F32 :=
    drain32 (sum32 ((dys.zip (rs.map (·.1))).map fun p => f p j))
  let dgamma := (List.range n).map (col fun p j => (mul32 (p.1.getD j 0) (p.2.getD j 0)).1)
  let dbeta := (List.range n).map (col fun p j => p.1.getD j 0)
  let s1 := vecOut e d (getLE d 0x14 4) (getLE d 0x31 1) (getLE d 0x2F 1) (getLE d 0x38 4) n (rs.flatMap (·.2)) s
  vecOut e d (getLE d 0x1C 4) 1 0 0 n (dgamma ++ dbeta) s1

def normBody (d : Bytes) (e : OpEnv) (s : State) : Except Nat State := .ok (if nBwd d then normBwd d e s else normFwd d e s)

def doNorm (r : OpRun) (d : Bytes) (s : State) : State := runOp r d (normBody d) s

/-! ### CAST (R124) -/

/-- What CAST writes: a WIDE source by the drain rules, each element with its own anchor, any other through FP32. -/
def castOut (s : State) (e : OpEnv) (d : Bytes) : OutT :=
  let n := getLE d 0x20 4
  let fi := getLE d 0x24 1
  let fo := getLE d 0x25 1
  let mode := getLE d 0x26 1
  let l := if isMx fi || isMx fo then getLE d 0x2C 2 else n
  let rnd := opRnd e mode (getLE d 0x28 4)
  let b := rdField s e (getLE d 0x10 4) (fmtBytes fi n)
  if fi = 0x0D then
    convRows fo (modeNonsat mode) false rnd l 0
      (rowsOf l ((List.range n).map fun i => (Elem.ofBytes (slice b (16 * i) 16)).val) (n / max l 1))
  else
    let sc := if isMx fi then rdField s e (getLE d 0x14 4) (n / max l 1 * blocksOf l) else []
    convF32 fo (modeNonsat mode) rnd l 0
      (rowsOf l ((loadF32 fi l n b sc).map fun x => ((x, []) : F32)) (n / max l 1))

def castBody (d : Bytes) (e : OpEnv) (s : State) : Except Nat State :=
  let fo := getLE d 0x25 1
  let o := castOut s e d
  let s1 := wrField e (getLE d 0x18 4) o.elems s
  .ok (countOut e d fo o (if isMx fo then wrField e (getLE d 0x1C 4) o.scales s1 else s1))

def doCast (r : OpRun) (d : Bytes) (s : State) : State := runOp r d (castBody d) s

/-! ### Rows of the table -/

def execElemwise (r : OpRun) (d : Bytes) (s : State) : Host.Outcome State Fault Refusal :=
  .next (settle s (doElemwise r d s))

def execNorm (r : OpRun) (d : Bytes) (s : State) : Host.Outcome State Fault Refusal := .next (settle s (doNorm r d s))

def execCast (r : OpRun) (d : Bytes) (s : State) : Host.Outcome State Fault Refusal := .next (settle s (doCast r d s))

end Sys2Proof.Machine
end

