-- ==== Sys2Proof/Machine/AttnOps.lean ====
section
/-! DEFINITION. Attention (R112-R118). The order of the blocks is the spec's; how rows are grouped for the grid's anchors,
and that l sums the FP32 P of a block as one anchored reduction (R67), are read from the rules of the grid (log
entry 46). -/

namespace Sys2Proof.Machine

/-- Q, the chunks of K and V in the order they are processed as (first position, K, V), and the descriptor's fields. -/
structure AttnIn where
  desc : Bytes
  q : Bytes
  chunks : List (Nat × Bytes × Bytes)
  deriving DecidableEq, Repr

/-- Row r of a tensor of rows of len, with scales behind it (R111): its values and its block scales. -/
def tensorRow (fmt len rows : Nat) (b : Bytes) (r : Nat) : List Val × List Nat :=
  let base := align64 (fmtBytes fmt (rows * len))
  let sc := (List.range (blocksOf len)).map fun k => getLE b (base + r * blocksOf len + k) 1
  let el := slice b (r * fmtBytes fmt len) (fmtBytes fmt len)
  ((List.range len).map fun i => gridVal fmt el i (sc.getD (i / 32) 0), sc)

/-- The anchor of a product of rows and columns given as values with their scales per k-block. -/
def matAnchor (fa fb k : Nat) (rows cols : List (List Val × List Nat)) : Int :=
  anchorOf ((List.range (blocksOf k)).filterMap fun kb =>
    match sideBound fa kb (rows.map fun r => r.2.getD kb 0xFF) (rows.map (·.1)),
          sideBound fb kb (cols.map fun r => r.2.getD kb 0xFF) (cols.map (·.1)) with
    | some x, some y => some (x + y)
    | _, _ => none)

/-- A product of rows and columns, cut at 128 columns for its anchors, drained to FP32. -/
def matDrain (fa fb k : Nat) (rows cols : List (List Val × List Nat)) : List (List Nat) :=
  let anchors := (List.range ((cols.length + 127) / 128)).map fun b => matAnchor fa fb k rows ((cols.drop (128 * b)).take 128)
  rows.map fun r => cols.mapIdx fun j c => (drain32 (gemmElem (anchors.getD (j / 128) 0) r.1 c.1 none)).1

/-- Column x of V over a block of keys, with the scale of each k-block: V's own blocks run along dim (R111), so a k-block
takes the largest scale of its keys there. -/
def vCol (vs : List (List Val × List Nat)) (x : Nat) : List Val × List Nat :=
  (vs.map fun v => v.1.getD x (.num false 0 0),
   (List.range (blocksOf vs.length)).map fun kb =>
     ((((vs.drop (32 * kb)).take 32).map fun v => v.2.getD (x / 32) 0xFF).filter (· != 0xFF)).max?.getD 0xFF)

/-- The running values of one query row: m, l and O (R114). -/
structure RowAcc where
  m : Nat
  l : Nat
  o : List Nat
  seen : Bool
  deriving DecidableEq, Repr

def negInf32 : Nat := 0xFF80_0000

/-- P of a row over a block: exp(S − m) for the visible keys, zero for the others. -/
def rowP (m : Nat) (ss : List (Option Nat)) : List Nat :=
  ss.map fun x => match x with
    | some v => (trans32 .exp (sub32 v m).1).1
    | none => 0

/-- P converted to fmt_v with its scales per R61, to nearest even, as a row of the grid. -/
def convP (fmt : Nat) (ps : List Nat) : List Val × List Nat :=
  let r := convRow fmt false (fun _ => .rne) 0 (ps.map f32)
  (r.2.2.2, r.2.1)

/-- The scaled scores of a row, none where a key is masked. -/
def scores (scale : Nat) (vis : List Bool) (ss : List Nat) : List (Option Nat) :=
  (ss.zip vis).map fun p => if p.2 then some (mul32 p.1 scale).1 else none

/-- The new maximum of a row. -/
def rowMax (m : Nat) (ss : List (Option Nat)) : Nat := (ss.filterMap id).foldl (fun a b => (max32 a b).1) m

/-- One block of keys for a group of rows of one head: steps 1-6 of R114. -/
def attnBlock (d : Bytes) (scale : Nat) (qs ks vs : List (List Val × List Nat)) (vis : List (List Bool)) (accs : List RowAcc) :
    List RowAcc :=
  let dim := aDim d
  let ss := ((matDrain (aFqk d) (aFqk d) dim qs ks).zip vis).map fun p => scores scale p.2 p.1
  let ms := (accs.zip ss).map fun p => rowMax p.1.m p.2
  let ps := (ss.zip ms).map fun p => rowP p.2 p.1
  let pv := matDrain (aFv d) (aFv d) ks.length (ps.map (convP (aFv d))) ((List.range dim).map (vCol vs))
  accs.mapIdx fun i a =>
    let row := ss.getD i []
    if row.all (·.isNone) then a
    else
      let m := ms.getD i 0
      let al := (trans32 .exp (sub32 a.m m).1).1
      ⟨m, (add32 (mul32 a.l al).1 (drain32 (sum32 (((ps.getD i []).zip row).filterMap fun p => p.2.map fun _ => p.1))).1).1,
        (a.o.zip (pv.getD i [])).map fun p => (add32 (mul32 p.1 al).1 p.2).1, true⟩

/-- The softmax scale: 0 stands for 1/√head_dim rounded to FP32. -/
def attnScale (d : Bytes) : Nat :=
  let s := getLE d 0x3C 4
  if s != 0 then s else match aDim d with
    | 64 => 0x3E00_0000
    | 128 => 0x3DB5_04F3
    | _ => 0x3D80_0000

/-- One chunk of K and V for a group of rows of head h: its blocks in order. -/
def attnChunk (d : Bytes) (h : Nat) (qs : List (List Val × List Nat)) (toks : List Nat) (accs : List RowAcc)
    (c : Nat × Bytes × Bytes) : List RowAcc :=
  let kv := aKv d
  let rows := aHkv d * kv
  let kh := h / max (aHq d / max (aHkv d) 1) 1
  (List.range ((kv + aBlock d - 1) / aBlock d)).foldl (fun accs b =>
    let keys := (List.range (min (aBlock d) (kv - b * aBlock d))).map (· + b * aBlock d)
    let vis := toks.map fun t => keys.map fun j => !aCausal d || decide (c.1 + j ≤ aQpos d + t)
    if vis.all fun r => r.all (!·) then accs
    else
      let ks := keys.map fun j => tensorRow (aFqk d) (aDim d) rows c.2.1 (kh * kv + j)
      let vs := keys.map fun j => tensorRow (aFv d) (aDim d) rows c.2.2 (kh * kv + j)
      attnBlock d (attnScale d) qs ks vs vis accs) accs

/-- O and lse of head h for a group of at most 128 tokens. -/
def attnGroup (a : AttnIn) (h : Nat) (toks : List Nat) : List (List F32 × F32) :=
  let d := a.desc
  let rows := aTok d * aHq d
  let qs := toks.map fun t => tensorRow (aFqk d) (aDim d) rows a.q (t * aHq d + h)
  let accs := a.chunks.foldl (attnChunk d h qs toks)
    (toks.map fun _ => (⟨negInf32, 0, List.replicate (aDim d) 0, false⟩ : RowAcc))
  accs.map fun x =>
    if x.seen then (x.o.map fun v => div32 v x.l, add32 x.m (trans32 .log x.l).1)
    else (x.o.map fun _ => ((0, []) : F32), (negInf32, []))

/-- The groups of 128 query tokens. -/
def tokGroups (n : Nat) : List (List Nat) := (List.range ((n + 127) / 128)).map fun b => blockIx b n

/-- Every [token][head] row: O and lse. -/
def attnFwd (a : AttnIn) : List (List F32 × F32) :=
  let d := a.desc
  let heads := (List.range (aHq d)).map fun h => (tokGroups (aTok d)).flatMap (attnGroup a h)
  (List.range (aTok d)).flatMap fun t => heads.map fun h => h.getD t ([], (0, []))

/-- Bytes of K and V of this member. -/
def kvBytes (d : Bytes) (fmt : Nat) : Nat :=
  trailing fmt (fmtBytes fmt (aHkv d * aKv d * aDim d)) (aHkv d * aKv d) (aDim d)

/-- K and V, from their object or the tile store, or the cause of a fault (R110, R127). -/
def readKV (s : State) (e : OpEnv) (d : Bytes) : Except Nat (Bytes × Bytes) :=
  let h := aHandle d
  let nk := kvBytes d (aFqk d)
  let nv := kvBytes d (aFv d)
  if h = 0 then .ok (rdField s e (getLE d 0x20 4) nk, rdField s e (getLE d 0x24 4) nv)
  else
    let ko := getLE d 0x20 4 * 256
    let vo := getLE d 0x24 4 * 256
    match objFault s e.ctx h 1 ko nk, objFault s e.ctx h 1 vo nv with
    | some f, _ => .error f
    | none, some f => .error f
    | none, none => .ok (tileReads s e.tile (.object h ko) nk, tileReads s e.tile (.object h vo) nv)

/-- Write O, drained to nearest even with SATFINITE, and lse. -/
def attnWrite (e : OpEnv) (d : Bytes) (rs : List (List F32 × F32)) (s : State) : State :=
  let s1 := vecOut e d (getLE d 0x14 4) (aFo d) 0 0 (aDim d) (rs.flatMap (·.1)) s
  if getLE d 0x38 4 = 0 then s1 else vecOut e d (getLE d 0x38 4) 1 0 0 1 (rs.map (·.2)) s1

/-! ### The grid after attention (R71, R87, R89) -/

/-- What is left for the last of pieces of w that n falls into. -/
def lastOf (n w : Nat) : Nat := n - w * ((n - 1) / w)

/-- Passes of an attention op: Q·Kᵀ and P·V, for each head, group of tokens and block of keys with a visible key. -/
def attnPasses (d : Bytes) (starts : List Nat) : Nat :=
  let dims := (aDim d + 127) / 128
  aHq d * (((tokGroups (aTok d)).flatMap fun toks => starts.flatMap fun p =>
    (List.range ((aKv d + aBlock d - 1) / aBlock d)).map fun b =>
      let n := min (aBlock d) (aKv d - b * aBlock d)
      if aCausal d && toks.all (fun t => decide (aQpos d + t < p + b * aBlock d)) then 0
      else 2 * ((n + 127) / 128) * dims).foldl (· + ·) 0)

/-- The tile after them: its last pass was a P·V pass, with the last keys of V as weights (log entry 97). -/
def afterAttn (e : OpEnv) (d : Bytes) (starts : List Nat) (v : Bytes) (s : State) : State :=
  let n := attnPasses d starts
  if n = 0 then s
  else
    let rows := lastOf (aKv d) 128
    let cols := lastOf (aDim d) 128
    let base := (aHkv d * aKv d - rows) * aDim d + (aDim d - cols)
    let w : Weights := ⟨aFv d, some (e.ctx, e.ver), (List.range rows).map fun r => (List.range cols).map fun j =>
      elemCode (aFv d) v (base + r * aDim d + j)⟩
    afterCurrent e.tile (passCurrent (gridFigures s (e.tile / 64)) (aFv d) (aFv d) (rows * cols)) n
      (setTile e.tile (fun x => { x with grid := { x.grid with cur := w, nxt := w, armed := true } }) s)

/-- Bytes of Q, and of O in its format. -/
def qBytes (d : Bytes) (fmt : Nat) : Nat :=
  trailing fmt (fmtBytes fmt (aTok d * aHq d * aDim d)) (aTok d * aHq d) (aDim d)

/-- ATTN_FWD without a ring; K/V positions start at 0. -/
def attnFwdBody (d : Bytes) (e : OpEnv) (s : State) : Except Nat State :=
  match readKV s e d with
  | .error f => .error f
  | .ok kv =>
    let q := rdField s e (getLE d 0x10 4) (qBytes d (aFqk d))
    .ok (attnWrite e d (attnFwd ⟨d, q, [(0, kv.1, kv.2)]⟩) (afterAttn e d [0] kv.2 s))

/-! ### ATTN_BWD (R117, R118) -/

/-- Q, dO, O and lse, and the chunks of K and V as (first position, K, V). -/
structure BwdIn where
  desc : Bytes
  q : Bytes
  dout : Bytes
  out : Bytes
  lse : Bytes
  chunks : List (Nat × Bytes × Bytes)
  deriving DecidableEq, Repr

/-- Query heads that share a head of K and V. -/
def headRatio (d : Bytes) : Nat := max (aHq d / max (aHkv d) 1) 1

/-- P = exp(scale · S − lse) of head h, recomputed elementwise (R118): for each token, its visible keys as (chunk, key,
P). -/
def bwdHead (a : BwdIn) (h : Nat) : List (List (Nat × Nat × Nat)) :=
  let d := a.desc
  let kv := aKv d
  (tokGroups (aTok d)).flatMap fun toks =>
    let qs := toks.map fun t => tensorRow (aFqk d) (aDim d) (aTok d * aHq d) a.q (t * aHq d + h)
    let blocks := a.chunks.zipIdx.flatMap fun c => (List.range ((kv + aBlock d - 1) / aBlock d)).map fun b =>
      let keys := (List.range (min (aBlock d) (kv - b * aBlock d))).map (· + b * aBlock d)
      let vis := toks.map fun t => keys.map fun j => !aCausal d || decide (c.1.1 + j ≤ aQpos d + t)
      let ks := keys.map fun j => tensorRow (aFqk d) (aDim d) (aHkv d * kv) c.1.2.1 (h / headRatio d * kv + j)
      (c.2, keys, ((matDrain (aFqk d) (aFqk d) (aDim d) qs ks).zip vis).map fun p => scores (attnScale d) p.2 p.1)
    toks.mapIdx fun i t => blocks.flatMap fun b => ((b.2.2.getD i []).zip b.2.1).filterMap fun p =>
      p.1.map fun v => (b.1, p.2, (trans32 .exp (sub32 v (getLE a.lse (4 * (t * aHq d + h)) 4)).1).1)

/-- P of every head. -/
def bwdP (a : BwdIn) : List (List (List (Nat × Nat × Nat))) := (List.range (aHq a.desc)).map (bwdHead a)

/-- Row r of a tensor of rows of head_dim, in FP32. -/
def row32 (d : Bytes) (fmt rows : Nat) (b : Bytes) (r : Nat) : List (BitVec 32) :=
  let sc := b.drop (align64 (fmtBytes fmt (rows * aDim d)))
  (loadF32 fmt (aDim d) (aDim d) (slice b (r * fmtBytes fmt (aDim d)) (fmtBytes fmt (aDim d)))
    (sc.drop (r * blocksOf (aDim d)))).map (BitVec.ofNat 32)

/-- The addend of element x of dQ (0), dK (1) or dV (2) that token t, head h and a key bring; its formula is not stated (log
entry 2). -/
def gradAddend (a : BwdIn) (k t h : Nat) (p : Nat × Nat × Nat) (x : Nat) : Nat :=
  let d := a.desc
  let rq := t * aHq d + h
  let rk := h / headRatio d * aKv d + p.2.1
  let c := a.chunks.getD p.1 (0, [], [])
  let nq := aTok d * aHq d
  let nk := aHkv d * aKv d
  (Config.gradTerm k d (BitVec.ofNat 32 p.2.2)
    [row32 d (aFo d) nq a.dout rq, row32 d (aFo d) nq a.out rq, row32 d (aFv d) nk c.2.2 rk,
     if k = 0 then row32 d (aFqk d) nk c.2.1 rk else row32 d (aFqk d) nq a.q rq] x).toNat

/-- Addends of element x of dQ in row (t, h). -/
def dqAddends (a : BwdIn) (ps : List (List (List (Nat × Nat × Nat)))) (t h x : Nat) : List Nat :=
  ((ps.getD h []).getD t []).map fun p => gradAddend a 0 t h p x

/-- Addends of element x of dK (1) or dV (2) for a key of a chunk and a head of K and V. -/
def dkvAddends (a : BwdIn) (ps : List (List (List (Nat × Nat × Nat)))) (k chunk key kh x : Nat) : List Nat :=
  (List.range (aHq a.desc)).flatMap fun h =>
    if h / headRatio a.desc = kh then
      (ps.getD h []).zipIdx.flatMap fun r => (r.1.filter fun p => p.1 == chunk && p.2.1 == key).map fun p =>
        gradAddend a k r.2 h p x
    else []

/-- Drain sums to an output in rows of head_dim, each in one rounding, and write and count it (R58, R118). -/
def gradOut (e : OpEnv) (d : Bytes) (field fmt md tensor : Nat) (es : List Elem) (s : State) : State :=
  let o := convRows fmt (modeNonsat md) false (opRnd e md (tensor % 2 ^ 32)) (aDim d) 0
    (rowsOf (aDim d) (es.map Elem.val) (es.length / max (aDim d) 1))
  countOut e d fmt o (wrTrailing e field fmt o s)

/-- Write dQ: anchored sums (log entry 46 for their anchors). -/
def writeDq (a : BwdIn) (e : OpEnv) (s : State) : State :=
  let d := a.desc
  let ps := bwdP a
  let x := dExt d 1
  gradOut e d (getLE x 0x14 4) (getLE x 0x20 1) (getLE x 0x22 1) (getLE x 0x24 4)
    ((List.range (aTok d)).flatMap fun t => (List.range (aHq d)).flatMap fun h => (List.range (aDim d)).map fun i =>
      sum32 (dqAddends a ps t h i)) s

/-- Write dK and dV; dK uses tensor_id + 1 and dV tensor_id + 2 (R117). -/
def writeDkv (e : OpEnv) (d : Bytes) (dk dv : List Elem) (s : State) : State :=
  let x := dExt d 1
  let id := getLE x 0x24 4
  gradOut e d (getLE x 0x1C 4) (getLE x 0x21 1) (getLE x 0x22 1) (id + 2) dv
    (gradOut e d (getLE x 0x18 4) (getLE x 0x21 1) (getLE x 0x22 1) (id + 1) dk s)

/-- dK or dV of one chunk, laid out [kv head][token][dim]. -/
def chunkGrad (a : BwdIn) (k chunk : Nat) : List Elem :=
  let ps := bwdP a
  (List.range (aHkv a.desc)).flatMap fun kh => (List.range (aKv a.desc)).flatMap fun j => (List.range (aDim a.desc)).map fun x =>
    sum32 (dkvAddends a ps k chunk j kh x)

/-- What ATTN_BWD reads: Q, dO, lse and O. -/
def bwdReads (s : State) (e : OpEnv) (d : Bytes) : List Bytes :=
  [rdField s e (getLE d 0x10 4) (qBytes d (aFqk d)), rdField s e (getLE d 0x14 4) (qBytes d (aFo d)),
   rdField s e (getLE d 0x38 4) (4 * (aTok d * aHq d)), rdField s e (getLE (dExt d 1) 0x10 4) (qBytes d (aFo d))]

/-- ... put together with the chunks it processes. -/
def bwdIn (d : Bytes) (reads : List Bytes) (chunks : List (Nat × Bytes × Bytes)) : BwdIn :=
  ⟨d, reads.getD 0 [], reads.getD 1 [], reads.getD 3 [], reads.getD 2 [], chunks⟩

def attnBwdBody (d : Bytes) (e : OpEnv) (s : State) : Except Nat State :=
  match readKV s e d with
  | .error f => .error f
  | .ok kv =>
    let a := bwdIn d (bwdReads s e d) [(0, kv.1, kv.2)]
    .ok (writeDkv e d (chunkGrad a 1 0) (chunkGrad a 2 0) (writeDq a e (afterAttn e d [0] kv.2 s)))

end Sys2Proof.Machine
end

