-- ==== Sys2Proof/Machine/TrainOps.lean ====
section
/-! DEFINITION. Training, distillation and kerf ops (chapter 9): GRAD_Q8, OPT_ADAMW, TOPK_LOGITS, SOFTMAX_XENT, DISTILL_KL,
KERF_SNAPSHOT and FINGERPRINT, with the KRF.* commands (R284). -/

namespace Sys2Proof.Machine

/-! ### GRAD_Q8 (R260, R261) -/

/-- v of one element: the gradient times the scalar, plus the carried error, product first. -/
def gradV (g scalar err : Nat) : Nat :=
  let p := if scalar = 0 then g else (mul32 g scalar).1
  (add32 p (load32 3 err 0)).1

/-- The gradient as FP32; a WIDE source drains to nearest even. -/
def gradSrc (fmt : Nat) (b : Bytes) (i : Nat) : Nat :=
  if fmt = 0x0D then (drain32 (Elem.ofBytes (slice b (16 * i) 16))).1 else load32 fmt (elemCode fmt b i) 0

/-- The new error of an element: what the quantised value left over, in FP16, with its events. -/
def gradErr (v code scale : Nat) : Nat × List Nat :=
  convert fp16 .rne false false (f32 (sub32 v (load32 8 code scale)).1)

def gradBody (d : Bytes) (e : OpEnv) (s : State) : Except Nat State :=
  let n := getLE d 0x20 4
  let l := getLE d 0x24 2
  let f := getLE d 0x26 1
  let src := rdField s e (getLE d 0x10 4) (fmtBytes f n)
  let errs := rdField s e (getLE d 0x14 4) (2 * n)
  let vs := (List.range n).map fun i => gradV (gradSrc f src i) (getLE d 0x2C 4) (getLE errs (2 * i) 2)
  let o := convRows 8 false false (opRnd e (getLE d 0x27 1) (getLE d 0x28 4)) l 0
    (rowsOf l (vs.map f32) (n / max l 1))
  let es := vs.mapIdx fun i v =>
    gradErr v (elemCode 8 o.elems i) (getLE o.scales (i / l * blocksOf l + i % l / 32) 1)
  let eo : OutT := ⟨es.flatMap fun x => toLE 2 x.1, [], es.flatMap (·.2), es.map fun x => decodeVal fp16 x.1⟩
  let s1 := wrField e (getLE d 0x1C 4) o.scales (wrField e (getLE d 0x18 4) o.elems s)
  .ok (countOut e d 3 eo (wrField e (getLE d 0x14 4) eo.elems (countOut e d 8 o s1)))

def doGradQ8 (r : OpRun) (d : Bytes) (s : State) : State := runOp r d (gradBody d) s

/-! ### OPT_ADAMW (R262-R264) -/

/-- binary64. -/
def fp64 : Fmt := ⟨52, -1022, 0x7FEF_FFFF_FFFF_FFFF, some 0x7FF0_0000_0000_0000, some 0x7FF8_0000_0000_0000, 64⟩

/-- A product correctly rounded to binary64. -/
def mul64 (a b : Val) : Val := decodeVal fp64 (convert fp64 .rne false false (mulVal a b)).1

/-- beta^t by right-to-left squaring: fuel bounds the bits of t. -/
def pow64 : Nat → Nat → Val → Val → Val
  | 0, _, _, p => p
  | k + 1, n, b, p =>
    if n = 0 then p
    else
      let p1 := if n % 2 = 1 then mul64 p b else p
      let n1 := n / 2
      pow64 k n1 (if n1 = 0 then b else mul64 b b) p1

/-- c = 1 − beta^t in binary64, rounded to FP32. -/
def biasCorr (beta t : Nat) : Nat :=
  let one : Val := .num false 1 0
  let p := pow64 64 t (f32 beta) one
  let q := decodeVal fp64 (convert fp64 .rne false false (addVal one (negVal p))).1
  (to32 q).1

/-- The scalars of one op: lr_eff, beta1, beta2, eps, wd, c1, c2. -/
structure AdamK where
  lr : Nat
  b1 : Nat
  b2 : Nat
  eps : Nat
  wd : Nat
  c1 : Nat
  c2 : Nat
  deriving DecidableEq, Repr

/-- The learning rate of step s under the schedule (R263). -/
def lrEff (hyp : Bytes) (sel step : Nat) : Nat :=
  let nr := getLE hyp 4 4
  let ns := getLE hyp 8 4
  let lr := hyperField hyp sel 0
  if ns = 0 then lr else (mul32 lr (getLE hyp (64 + 32 * nr + 4 * min step (ns - 1)) 4)).1

def adamK (hyp : Bytes) (sel step t0 : Nat) : AdamK :=
  let t := (t0 + step + 1) % 2 ^ 64
  let b1 := hyperField hyp sel 1
  let b2 := hyperField hyp sel 2
  ⟨lrEff hyp sel step, b1, b2, hyperField hyp sel 3, hyperField hyp sel 4, biasCorr b1 t, biasCorr b2 t⟩

/-- One element: the new w, m1 and m2, each operation rounded to FP32 and none fused (R264). -/
def adamElem (k : AdamK) (g w m1 m2 : Nat) : F32 × F32 × F32 :=
  let ob1 := (sub32 0x3F80_0000 k.b1).1
  let ob2 := (sub32 0x3F80_0000 k.b2).1
  let n1 := add32 (mul32 k.b1 m1).1 (mul32 ob1 g).1
  let n2 := add32 (mul32 k.b2 m2).1 (mul32 (mul32 ob2 g).1 g).1
  let u := div32 (div32 n1.1 k.c1).1 (add32 (sqrt32 (div32 n2.1 k.c2).1).1 k.eps).1
  (sub32 w (mul32 k.lr (add32 u.1 (mul32 k.wd w).1).1).1, n1, n2)

/-- An FP32 array written where it was read. -/
def putF32 (e : OpEnv) (d : Bytes) (h off : Nat) (vs : List F32) (s : State) : State :=
  let o : OutT := ⟨vs.flatMap fun x => toLE 4 x.1, [], vs.flatMap fp32Events, vs.map fun x => f32 x.1⟩
  countOut e d 1 o (writeLoc e.tile (.object h off) o.elems s)

/-- The run-time checks of the state and hyperparameter objects (R263): the cause of a fault, or none. -/
def adamFault (s : State) (e : OpEnv) (d hyp : Bytes) : Option Nat :=
  let h := getLE d 0x10 8
  let sh := getLE d 0x1C 4
  match objFault s e.ctx h 2 0 (64 + 12 * sh) with
  | some f => some f
  | none => match objFault s e.ctx h 1 0 (64 + 12 * sh) with
    | some f => some f
    | none =>
      if getLE hyp 4 4 ≤ getLE d 0x37 1 || getLE (objBytes s h 0 4) 0 4 != 0x5453_5855 ||
          getLE (objBytes s h 4 4) 0 4 != sh then some 8
      else none

def adamBody (d : Bytes) (e : OpEnv) (s : State) : Except Nat State :=
  let hy := (ctxOf s e.ctx).hyper
  let hyp := objBytes s hy 0 (objSize s hy)
  match adamFault s e d hyp with
  | some f => .error f
  | none =>
    let h := getLE d 0x10 8
    let sh := getLE d 0x1C 4
    let at_ := 64 + 4 * getLE d 0x18 4
    let n := getLE d 0x30 4
    let fg := getLE d 0x34 1
    let fw := getLE d 0x35 1
    let k := adamK hyp (getLE d 0x37 1) e.step (getLE (objBytes s h 8 8) 0 8)
    let gs := loadF32 fg n n (rdField s e (getLE d 0x20 4) (fmtBytes fg n))
      (if fg = 8 then rdField s e (getLE d 0x24 4) (blocksOf n) else [])
    let arr (i : Nat) : Bytes := tileReads s e.tile (.object h (at_ + 4 * sh * i)) (4 * n)
    let w := arr 0
    let m1 := arr 1
    let m2 := arr 2
    let rs := gs.mapIdx fun i g => adamElem k g (getLE w (4 * i) 4) (getLE m1 (4 * i) 4) (getLE m2 (4 * i) 4)
    let s1 := putF32 e d h at_ (rs.map (·.1)) s
    let s2 := putF32 e d h (at_ + 4 * sh) (rs.map (·.2.1)) s1
    let s3 := putF32 e d h (at_ + 8 * sh) (rs.map (·.2.2)) s2
    let o := convRows fw (modeNonsat (getLE d 0x36 1)) false
      (fun i => opRnd e (getLE d 0x36 1) (getLE d 0x38 4) (getLE d 0x3C 4 + i)) n 0 [rs.map fun r => f32 r.1.1]
    let s4 := wrField e (getLE d 0x28 4) o.elems s3
    .ok (countOut e d fw o (if fw = 7 then wrField e (getLE d 0x2C 4) o.scales s4 else s4))

def doOptAdamw (r : OpRun) (d : Bytes) (s : State) : State := runOp r d (adamBody d) s

/-! ### Softmax of a row (R67) -/

/-- The maximum of a row, and exp(z − M) of every element. -/
def rowExp (zs : List Nat) : Nat × List Nat :=
  match zs with
  | [] => (0, [])
  | z :: r =>
    let m := r.foldl (fun a b => (max32 a b).1) z
    (m, zs.map fun x => (trans32 .exp (sub32 x m).1).1)

/-- An anchored sum drained to FP32. -/
def anchoredSum (xs : List Nat) : Nat := (drain32 (sum32 xs)).1

/-- Row i of the logits of a training op as FP32. -/
def logitRow (fmt vocab : Nat) (b : Bytes) (i : Nat) : List Nat :=
  (List.range vocab).map fun j => load32 fmt (elemCode fmt b (i * vocab + j)) 0

/-! ### TOPK_LOGITS (R265, R266) -/

/-- The rank of z among the largest: a NaN above +∞, zeros equal. -/
def topKey (z : Nat) : Int := if isNan32 z then 2 ^ 32 else if z % 2 ^ 31 = 0 then 0 else key32 z

/-- Indices of the k largest z, descending, ties to the lower index. -/
def topK (k : Nat) (zs : List Nat) : List Nat :=
  ((sortBy (fun a b : Nat × Nat => decide (topKey b.2 < topKey a.2) || (topKey a.2 == topKey b.2 && decide (a.1 ≤ b.1)))
    (zs.mapIdx fun i z => (i, z))).take k).map (·.1)

/-- One teacher record and the FP32 results in it. -/
def topRecord (k temp : Nat) (xs : List Nat) : Bytes × List F32 :=
  let t := if temp = 0 then 0x3F80_0000 else temp
  let zs := xs.map fun x => (div32 x t).1
  let (m, es) := rowExp zs
  let all := anchoredSum es
  let lse := (add32 m (trans32 .log all).1).1
  let top := topK k zs
  let rest := anchoredSum ((List.range zs.length).filterMap fun j => if top.contains j then none else some (es.getD j 0))
  let tail : F32 := if rest % 2 ^ 31 = 0 then (negInf32, []) else sub32 (trans32 .log rest).1 (trans32 .log all).1
  let ps := top.map fun j => (j, sub32 (zs.getD j 0) lse)
  (toLE 4 ps.length ++ toLE 4 tail.1 ++ toLE 4 t ++ List.replicate 52 0 ++
    (ps.flatMap fun p => toLE 4 p.1 ++ toLE 4 p.2.1) ++
    ((List.range (64 - ps.length)).flatMap fun _ => toLE 4 0xFF_FFFF ++ toLE 4 negInf32),
   tail :: ps.map (·.2))

def topkBody (d : Bytes) (e : OpEnv) (s : State) : Except Nat State :=
  let rows := getLE d 0x18 4
  let vocab := getLE d 0x1C 4
  let f := getLE d 0x21 1
  let b := rdField s e (getLE d 0x10 4) (fmtBytes f (rows * vocab))
  let rs := (List.range rows).map fun i => topRecord (getLE d 0x20 1) (getLE d 0x24 4) (logitRow f vocab b i)
  let vs := rs.flatMap (·.2)
  .ok (countOut e d 1 ⟨[], [], vs.flatMap fp32Events, vs.map fun x => f32 x.1⟩ (wrField e (getLE d 0x14 4) (rs.flatMap (·.1)) s))

def doTopkLogits (r : OpRun) (d : Bytes) (s : State) : State := runOp r d (topkBody d) s

/-! ### SOFTMAX_XENT and DISTILL_KL (R267-R270) -/

/-- A result times gscale; 0 stands for 1.0. -/
def timesG (g : Nat) (x : F32) : F32 := if g = 0 then x else mul32 x.1 g

/-- One row's result: its loss, its gradient, whether it counts in the monitor, and how many indices were bad. -/
structure LossRow where
  loss : F32
  grad : List F32
  counts : Bool
  bad : Nat
  deriving DecidableEq, Repr

/-- A row of SOFTMAX_XENT. -/
def xentRow (gscale ignore label : Nat) (xs : List Nat) : LossRow :=
  let l := signed 32 label
  let inRange := 0 ≤ l && decide (l < (xs.length : Int))
  if label = ignore || !inRange then
    ⟨(0, []), xs.map fun _ => (0, []), false, if label = ignore then 0 else 1⟩
  else
    let (m, es) := rowExp xs
    let sum := anchoredSum es
    let lse := (add32 m (trans32 .log sum).1).1
    ⟨sub32 lse (xs.getD l.toNat 0),
      es.mapIdx fun j x => timesG gscale (sub32 (div32 x sum).1 (if j = l.toNat then 0x3F80_0000 else 0)), true, 0⟩

/-- The entries of a teacher record that count: (index, log-probability); and how many indices were bad: beyond the
vocabulary, or repeated. -/
def teacherEntries (vocab : Nat) : List (Nat × Nat) → List (Nat × Nat) → List (Nat × Nat) × Nat
  | [], acc => (acc.reverse, 0)
  | (j, lp) :: r, acc =>
    if j = 0xFF_FFFF then teacherEntries vocab r acc
    else if vocab ≤ j || acc.any (fun a => a.1 == j) then
      let x := teacherEntries vocab r acc
      (x.1, x.2 + 1)
    else teacherEntries vocab r ((j, lp) :: acc)

/-- A row of DISTILL_KL against its teacher record. -/
def distillRow (gscale : Nat) (rec_ : Bytes) (xs : List Nat) : LossRow :=
  let t := getLE rec_ 8 4
  let n := min (getLE rec_ 0 4) 64
  let (ents, bad) := teacherEntries xs.length
    ((List.range n).map fun i => (getLE rec_ (0x40 + 8 * i) 3, getLE rec_ (0x44 + 8 * i) 4)) []
  let (_, es) := rowExp (xs.map fun x => (div32 x t).1)
  let sum := anchoredSum es
  let qs := es.map fun x => (div32 x sum).1
  let pOf (lp : Nat) : Nat := (trans32 .exp lp).1
  let tail := getLE rec_ 4 4
  let p := pOf tail
  let inS (j : Nat) : Bool := ents.any fun a => a.1 == j
  let q := anchoredSum ((List.range qs.length).filterMap fun j => if inS j then none else some (qs.getD j 0))
  let kept := anchoredSum (ents.map fun a => (mul32 (pOf a.2) (sub32 a.2 (trans32 .log (qs.getD a.1 0)).1).1).1)
  let rest : Nat := if tail = negInf32 then 0
    else if q % 2 ^ 31 = 0 && p % 2 ^ 31 != 0 then 0x7F80_0000
    else (mul32 p (sub32 tail (trans32 .log q).1).1).1
  let target (j : Nat) : Nat := match ents.find? fun a => a.1 == j with
    | some a => pOf a.2
    | none => if q % 2 ^ 31 = 0 then 0 else (div32 (mul32 p (qs.getD j 0)).1 q).1
  ⟨add32 kept rest,
    qs.mapIdx fun j x => timesG gscale (if !inS j && q % 2 ^ 31 == 0 then (0, []) else div32 (sub32 x (target j)).1 t), true, bad⟩

/-- Add the row losses to the monitor, when the op asks for it (R275). -/
def monitorRows (e : OpEnv) (d : Bytes) (rs : List LossRow) (s : State) : State :=
  if bit (getLE d 0x2B 1) 0 then
    setCtx e.ctx (fun x => { x with loss := (rs.filter (·.counts)).foldl (fun m r => addLoss m r.loss.1) x.loss }) s
  else s

/-- Count bad indices; EV_INDEX_RANGE names the first offending row (R270). -/
def lossIndexEvent (e : OpEnv) (rs : List LossRow) (s : State) : State :=
  let bad := (rs.map (·.bad)).foldl (· + ·) 0
  match rs.findIdx? fun r => r.bad != 0 with
  | none => s
  | some i =>
    let s1 := setTile e.tile (fun x => { x with indexCnt := satInc x.indexCnt bad }) s
    raiseCtx 0x0404 (tileSource e.tile) e.ctx [(1, e.kind), (2, e.seq), (1, e.tile), (4, i)]
      { s1 with vnr := { s1.vnr with indexCnt := satInc s1.vnr.indexCnt bad } }

/-- Both ops, given the result of each row from its index and logits. -/
def lossOp (d : Bytes) (row : Bytes → Nat → List Nat → LossRow) (e : OpEnv) (s : State) : Except Nat State :=
  let n := xRows d
  let v := xVocab d
  let f := getLE d 0x28 1
  let b := rdField s e (getLE d 0x10 4) (fmtBytes f (n * v))
  let tg := rdField s e (getLE d 0x14 4) (n * (if dKind d = 0x0A then 4 else 576))
  let rs := (List.range n).map fun i => row tg i (logitRow f v b i)
  let s1 := vecOut e d (getLE d 0x18 4) (getLE d 0x29 1) (getLE d 0x2A 1) (getLE d 0x34 4) v (rs.flatMap (·.grad)) s
  let s2 := if getLE d 0x1C 4 = 0 then s1 else vecOut e d (getLE d 0x1C 4) 1 0 0 1 (rs.map (·.loss)) s1
  .ok (lossIndexEvent e rs (monitorRows e d rs s2))

def xentBody (d : Bytes) (e : OpEnv) (s : State) : Except Nat State :=
  lossOp d (fun tg i xs => xentRow (getLE d 0x2C 4) (getLE d 0x30 4) (getLE tg (4 * i) 4) xs) e s

def distillBody (d : Bytes) (e : OpEnv) (s : State) : Except Nat State :=
  lossOp d (fun tg i xs => distillRow (getLE d 0x2C 4) (slice tg (576 * i) 576) xs) e s

def doSoftmaxXent (r : OpRun) (d : Bytes) (s : State) : State := runOp r d (xentBody d) s
def doDistillKl (r : OpRun) (d : Bytes) (s : State) : State := runOp r d (distillBody d) s

/-! ### KERF_SNAPSHOT (R273, R274) -/

/-- What a clear of R273 or R284 clears: counters, histograms. -/
def kerfClear (flags : Nat) (x : Ctx) : Ctx :=
  let y := if bit flags 0 then clearKerf x else x
  if bit flags 1 then { y with hist := [] } else y

def snapBody (d : Bytes) (e : OpEnv) (s : State) : Except Nat State :=
  let h := getLE d 0x10 8
  match if h = 0 then none else objFault s e.ctx h 2 (getLE d 0x18 8) 15360 with
  | some f => .error f
  | none =>
    let bs := kerfSnapshotBytes s e.ctx
    let s1 := if h = 0 then wrField e (getLE d 0x18 4) bs s else writeLoc e.tile (.object h (getLE d 0x18 8)) bs s
    .ok (setCtx e.ctx (kerfClear (getLE d 0x20 1)) s1)

def doKerfSnapshot (r : OpRun) (d : Bytes) (s : State) : State := runOp r d (snapBody d) s

/-! ### FINGERPRINT (R278-R280) -/

/-- The shards an op covers, with their CRCs. -/
def fpCovered (s : State) (e : OpEnv) (d : Bytes) : List FpShard :=
  let h := getLE d 0x10 8
  let sz := getLE d 0x28 4
  let len := getLE d 0x20 8
  (List.range ((len + sz - 1) / max sz 1)).map fun i =>
    let n := min sz (len - i * sz)
    let off := getLE d 0x18 8 + i * sz
    let bs := if h = 0 then slice (rdField s e (getLE d 0x18 4) len) (i * sz) n else tileReads s e.tile (.object h off) n
    ⟨getLE d 0x2C 4 + i, crc64 bs, h, off, n, e.tile⟩

/-- The context's list for a stage and step, an empty one if there is none yet. -/
def fpListOf (x : Ctx) (stage step : Nat) : FpList :=
  (x.fps.find? fun f => f.stage == stage && f.step == step).getD ⟨stage, step, [], 0, 0⟩

/-- Put a list back; a member keeps the lists of its last 2 steps (R280). -/
def setFpList (f : FpList) (x : Ctx) : Ctx :=
  { x with fps := f :: x.fps.filter fun g => !(g.stage == f.stage && g.step == f.step) && decide (f.step ≤ g.step + 1) }

def fpBody (d : Bytes) (e : OpEnv) (s : State) : Except Nat State :=
  let h := getLE d 0x10 8
  match if h = 0 then none else objFault s e.ctx h 1 (getLE d 0x18 8) (getLE d 0x20 8) with
  | some f => .error f
  | none =>
    let l := fpListOf (ctxOf s e.ctx) e.stage e.step
    let new := fpCovered s e d
    if new.any fun n => l.shards.any fun o => o.no == n.no then .error 8
    else .ok (setCtx e.ctx (setFpList { l with shards := l.shards ++ new, coll := getLE d 0x30 4 }) s)

def doFingerprint (r : OpRun) (d : Bytes) (s : State) : State := runOp r d (fpBody d) s

/-- F of a list: the CRC-64 over its shard fingerprints in ascending order; 0 is replaced by 1 (R280). -/
def formF (f : FpList) : Nat :=
  let c := crc64 ((fpShards f).flatMap fun x => toLE 8 x.fp)
  if c = 0 then 1 else c

/-- Where the context leaves UPDATE of its step, its lists of that step form F (R280). -/
def formFps (step : Nat) (x : Ctx) : Ctx :=
  { x with fps := x.fps.map fun f => if f.step = step then { f with f := formF f } else f }

/-! ### KRF.* commands (R284, R285) -/

/-- The body of a KRF command that names a context visible to its issuer; `ok` says that its rsvd flag bits are 0 (R13). -/
def krfStart (src : Src) (op : Nat) (c : Instr) (rsvd : List (Nat × Nat)) (ok : Bool) (p : Bytes) (body : Nat → State → State)
    (s : State) : State :=
  start ⟨src, op, c, false, rsvd, p⟩ (fun s =>
    if !ok then complete src sBadField [] s
    else match cmdCtx s src (getLE p 0 2) with
      | none => complete src sJobUnknown [] s
      | some _ => body (getLE p 0 2) s) s

/-- Write a result into an object the command names, of at least its size. -/
def krfWrite (src : Src) (h : Nat) (bs : Bytes) (s : State) : State :=
  match cmdObj s src h 2 with
  | .error st => complete src st [] s
  | .ok o => if o.size < bs.length then complete src sNoResource [] s else complete src sOk [] (writeObj h 0 bs false s)

def doKrfRead (src : Src) (p : Bytes) (s : State) : State :=
  krfStart src 0x0601 (.krfRead src p) [(2, 6), (0x10, 32)] true p (fun c s => krfWrite src (getLE p 8 8) (kerfSnapshotBytes s c) s) s

/-- What a KRF command that waits for the frame boundary does there. -/
def applyKrf (o : Outst) (s : State) : State :=
  match o.wait with
  | .krfClear c fl =>
    complete o.src sOk [] (setCtx c (fun x => let y := kerfClear fl x; if bit fl 2 then clearLoss y else y) s)
  | .krfHist c slot fl e0 =>
    complete o.src sOk [] (setCtx c (fun x => clearHist slot { x with histCfg := tset x.histCfg slot ⟨e0, bit fl 0⟩ }) s)
  | .krfLoss c k a w =>
    complete o.src sOk [] (setCtx c (fun x => { x with loss := { x.loss with k := k, alpha := a, warmup := w } }) s)
  | _ => s

/-- They take effect at the next frame boundary; with no active bank there is none to wait for (log entry 24). -/
def awaitFrame (src : Src) (w : Wait) (s : State) : State :=
  let s1 := await src w s
  if s.jig.running then s1
  else match s1.host.outst.find? (Outst.is src) with
    | some o => applyKrf o s1
    | none => s1

def doKrfClear (src : Src) (p : Bytes) (s : State) : State :=
  krfStart src 0x0602 (.krfClear src p) [(3, 45)] (getLE p 2 1 ≤ 7) p
    (fun c s => awaitFrame src (.krfClear c (getLE p 2 1)) s) s

def doKrfHistSet (src : Src) (p : Bytes) (s : State) : State :=
  krfStart src 0x0603 (.krfHistSet src p) [(6, 42)] (getLE p 3 1 ≤ 1) p (fun c s =>
    let slot := getLE p 2 1
    let e0 := signed 16 (getLE p 4 2)
    if slot = 0 || 16 < slot || e0 < -149 || 66 < e0 then complete src sBadField [] s
    else awaitFrame src (.krfHist c slot (getLE p 3 1) e0) s) s

def doKrfLossSet (src : Src) (p : Bytes) (s : State) : State :=
  krfStart src 0x0604 (.krfLossSet src p) [(2, 2), (0x10, 32)] true p (fun c s =>
    let k := getLE p 4 4
    let a := getLE p 8 4
    let w := getLE p 0x0C 4
    if !posF32 k || a = 0 || 0x3F80_0000 < a || 65535 < w then complete src sBadField [] s
    else awaitFrame src (.krfLoss c k a w) s) s

/-- F, the shard count and the list of a stage's step. -/
def fpBytes (f : FpList) : Bytes :=
  toLE 8 f.f ++ toLE 4 f.shards.length ++ toLE 4 0 ++ (fpShards f).flatMap fun x => toLE 8 x.fp

def doKrfFpRead (src : Src) (p : Bytes) (s : State) : State :=
  krfStart src 0x0605 (.krfFpRead src p) [(0x10, 32)] true p (fun c s =>
    match (ctxOf s c).fps.find? fun f => f.stage == getLE p 2 2 && f.step == getLE p 4 4 with
    | none => complete src 0x0601 [] s
    | some f => krfWrite src (getLE p 8 8) (fpBytes f) s) s

/-! ### Rows of the table -/

def execGradQ8 (r : OpRun) (d : Bytes) (s : State) : Host.Outcome State Fault Refusal := .next (settle s (doGradQ8 r d s))

def execOptAdamw (r : OpRun) (d : Bytes) (s : State) : Host.Outcome State Fault Refusal :=
  .next (settle s (doOptAdamw r d s))

def execTopkLogits (r : OpRun) (d : Bytes) (s : State) : Host.Outcome State Fault Refusal :=
  .next (settle s (doTopkLogits r d s))

def execSoftmaxXent (r : OpRun) (d : Bytes) (s : State) : Host.Outcome State Fault Refusal :=
  .next (settle s (doSoftmaxXent r d s))

def execDistillKl (r : OpRun) (d : Bytes) (s : State) : Host.Outcome State Fault Refusal :=
  .next (settle s (doDistillKl r d s))

def execKerfSnapshot (r : OpRun) (d : Bytes) (s : State) : Host.Outcome State Fault Refusal :=
  .next (settle s (doKerfSnapshot r d s))

def execFingerprint (r : OpRun) (d : Bytes) (s : State) : Host.Outcome State Fault Refusal :=
  .next (settle s (doFingerprint r d s))

def execKrfRead (src : Src) (p : Bytes) (s : State) : Host.Outcome State Fault Refusal := .next (settle s (doKrfRead src p s))

def execKrfClear (src : Src) (p : Bytes) (s : State) : Host.Outcome State Fault Refusal :=
  .next (settle s (doKrfClear src p s))

def execKrfHistSet (src : Src) (p : Bytes) (s : State) : Host.Outcome State Fault Refusal :=
  .next (settle s (doKrfHistSet src p s))

def execKrfLossSet (src : Src) (p : Bytes) (s : State) : Host.Outcome State Fault Refusal :=
  .next (settle s (doKrfLossSet src p s))

def execKrfFpRead (src : Src) (p : Bytes) (s : State) : Host.Outcome State Fault Refusal :=
  .next (settle s (doKrfFpRead src p s))

end Sys2Proof.Machine
end

