-- ==== Sys2Proof/Machine/Coll.lean ====
section
/-! DEFINITION. Fused collectives and glue-up queues (chapter 8): instances, signatures (R241), anchor agreement (R238),
contributions and their sums (R234, R235, R246), late members and the deferral ledger (R244, R247, R248), ABORT (R242) and
commit (R240). The wire form of a payload is the model's own (log entry 48). -/

namespace Sys2Proof.Machine

/-! ### The member (R228) -/

/-- The slot that carries a collective: its image, its entry and the ops of this member. -/
def collSlot (s : State) (coll : Nat) : Option (Bytes × Bytes × List (Nat × Bytes)) :=
  (bankImages (activeBank s)).findSome? fun b => (imgEntryList b).findSome? fun e =>
    let ops := (slotOps b e).filter fun m => isColl m.2 && cId (collExt m.2) == coll
    if ops.isEmpty then none else some (b, e, ops)

/-- The member table as the image holds it (R228): addresses in rank order; without an image the model has only this
module. -/
def rawTable (s : State) (d : Bytes) : List Nat :=
  let e := collExt d
  match collSlot s (cId e) with
  | some (b, _, _) => (List.range (cN e)).map fun i => getLE b (imgProgOff b + cTable e + 4 * i) 4 % 2 ^ 17
  | none => List.replicate (cN e) s.dvl.addr

/-- The member table as a context's rank map overlays it (R375). -/
def memberTable (s : State) (c : Nat) (d : Bytes) : List Nat :=
  let x := ctxOf s c
  (rawTable s d).filterMap fun a =>
    if x.removed.contains a then none else some (((x.replaced.find? fun r => r.1 == a).map (·.2)).getD a)

/-- This member's rank: removed ranks before it close up (R375). -/
def memberRank (s : State) (c : Nat) (d : Bytes) : Nat :=
  (((rawTable s d).take (cRank (collExt d))).filter fun a => !(ctxOf s c).removed.contains a).length

def tableBytes (t : List Nat) : Bytes := t.flatMap (toLE 4)

/-- The destination format of a collective (R241). -/
def collFmt (d : Bytes) : Nat :=
  match dKind d with
  | 0x16 => getLE d 0x18 1
  | 6 => aFo d
  | 7 => getLE (dExt d 1) 0x21 1
  | _ => gFc d

/-- Its mode byte, 0 for ATTN_FWD. -/
def collMode (d : Bytes) : Nat :=
  match dKind d with
  | 0x16 => getLE d 0x19 1
  | 6 => 0
  | 7 => getLE (dExt d 1) 0x22 1
  | _ => gMode d

/-- Its tensor ID for R62; dK of ATTN_BWD uses tensor_id + 1. -/
def collTensor (d : Bytes) : Nat :=
  match dKind d with
  | 0x16 => getLE d 0x1C 4
  | 7 => (getLE (dExt d 1) 0x24 4 + 1) % 2 ^ 32
  | _ => getLE d 0x34 4

/-- The signature of R241. -/
def signatureOf (d : Bytes) (table : List Nat) : Nat :=
  let e := collExt d
  crc32c (toLE 4 (cId e) ++ toLE 4 table.length ++ toLE 1 (dKind d) ++ toLE 1 (cType e) ++ toLE 1 (cOp e) ++ toLE 1 (cMode e) ++
    toLE 4 (cCount e) ++ (sha256 (tableBytes table)).take 8 ++ toLE 4 (collL d) ++ toLE 1 (collFmt d) ++
    toLE 1 (collMode d) ++ toLE 2 0)

/-! ### Traversal time (R240) -/

/-- Hops and metres of the first route candidates from one module to another, by the installation map alone. -/
def routeLen (m : Bytes) (t : List (Nat × Nat)) (d : Tab Nat) (dest : Nat) : Nat → Nat → Bool → Nat × Nat
  | 0, _, _ => (0, 0)
  | n + 1, a, down =>
    if a = dest then (0, 0)
    else
      let firsts := (mapLinks m).flatMap fun l => [(l.a, l.pa, l.b, l.len), (l.b, l.pb, l.a, l.len)]
      let cs := firsts.filterMap fun e =>
        let up := linkUp t e.1 e.2.2.1
        if e.1 != a || (down && up) then none
        else (d.find? fun x => x.1 == 2 * e.2.2.1 + b2n (down || !up)).map fun x => (x.2, e.2.1, e.2.2.1, e.2.2.2, down || !up)
      match sortBy (fun p q : Nat × Nat × Nat × Nat × Bool => decide (p.1 < q.1) || (p.1 == q.1 && decide (p.2.1 ≤ q.2.1))) cs with
      | [] => (0, 0)
      | c :: _ =>
        let r := routeLen m t d dest n c.2.2.1 c.2.2.2.2
        (r.1 + 1, r.2 + c.2.2.2.1)

def routeFrom (m : Bytes) (a dest : Nat) : Nat × Nat :=
  let t := rankTable m
  routeLen m t (relaxN t (mapEdges m) 64 [(2 * dest, 0), (2 * dest + 1, 0)]) dest 64 a false

/-- T_trav of a member table. -/
def travTime (m : Bytes) (table : List Nat) : Nat :=
  let n := table.length
  ((List.range n).map fun r =>
    let x := routeFrom m (table.getD r 0) (table.getD ((r + 1) % n) 0)
    200 + x.1 * 300 + x.2 * 5).foldl (· + ·) 0

/-! ### Instances -/

def instOf (s : State) (k : InstKey) : Option Inst := s.glu.insts.find? fun i => i.key == k

/-- Change the instance of a key. -/
def updInst (k : InstKey) (g : Inst → Inst) (s : State) : State :=
  { s with glu := { s.glu with insts := s.glu.insts.map fun i => if i.key = k then g i else i } }

/-- Rows of the chunk of rank j. -/
def chunkRows (i : Inst) (j : Nat) : List Nat :=
  let h := collH i.desc
  let a := chunkAt h i.members.length j
  (List.range (chunkAt h i.members.length (j + 1) - a)).map (· + a)

def instExt (i : Inst) : Bytes := collExt i.desc
def instN (i : Inst) : Nat := i.members.length
def instOp (i : Inst) : Nat := cOp (instExt i)
def isRing (d : Bytes) : Bool := dKind d == 6 || dKind d == 7
def isNative (i : Inst) : Bool := cNative (instExt i)

/-- Does the instance reduce (SUM, MAX, MIN), and does it absorb lateness (R244)? -/
def reduces (i : Inst) : Bool := instOp i != 3 && cCount (instExt i) != 0
def isWideSum (i : Inst) : Bool := reduces i && !isNative i
def absorbs (i : Inst) : Bool := reduces i && instOp i == 0 && !isRing i.desc

/-- The last step of the job, in which a DEFER collective waits for everyone (R246). -/
def finalStep (s : State) (i : Inst) : Bool := (ctxOf s i.ctx).steps == i.key.step + 1

def isReplay (x : Ctx) : Bool := bit x.flags 1

/-- Ranks that a REPLAY run treats as late for the own chunk (R248). -/
def forcedLate (s : State) (i : Inst) : List Nat :=
  if isReplay (ctxOf s i.ctx) then
    (ctxOf s i.ctx).replay.filterMap fun r =>
      if r.getD 0 0 = i.key.coll && r.getD 1 0 = i.key.step && r.getD 5 0 = i.rank then some (r.getD 2 0) else none
  else []

/-- Does the owner wait for every contribution that is not forced late: a REPLAY run, or the final step under DEFER? -/
def waitsAll (s : State) (i : Inst) : Bool :=
  isReplay (ctxOf s i.ctx) || (finalStep s i && !cDrop (instExt i)) || !absorbs i

/-- The lowest free glue-up queue of a die (R239). -/
def freeGlueQueue (s : State) (die : Nat) : Option Nat :=
  (List.range 64).map (· + 64 * die) |>.find? fun q => !(thas s.glu.queues q)

/-- A new instance, from the slot that carries it. Instances of the same collective more than one step old go. -/
def newInst (k : InstKey) (c tile : Nat) (d : Bytes) (s : State) : State :=
  let table := memberTable s c d
  let e := collExt d
  let slot := collSlot s k.coll
  let at_ := frameStart s s.jig.frame
  let times := match slot with
    | some (b, en, _) => (at_ + entStart en + entDur en + entGrace b en, at_ + entStart en + 16 * cWait e)
    | none => (s.now, s.now)
  let lead := match slot with
    | some (b, en, _) => (tsetTiles b (entTset en)).headD tile
    | none => tile
  let i : Inst := ⟨k, c, d, [], (match slot with
      | some (_, _, ops) => ops.length
      | none => 1), table, memberRank s c d, signatureOf d table, times.1, travTime (theMap s) table, times.2, none, false, [], [], [], [],
    [], [], [], [], [], false, false, false, false⟩
  let q := if (chunkRows i i.rank).isEmpty then none else freeGlueQueue s (lead / 64)
  let old := s.glu.insts.filter fun x => !(x.key == k) &&
    !(x.key.coll == k.coll && x.key.job == k.job && decide (x.key.step + 1 < k.step))
  { s with glu := { s.glu with
    insts := old ++ [{ i with queue := q }]
    queues := match q with
      | some q => tset s.glu.queues q ⟨k, c, false⟩
      | none => s.glu.queues } }

/-! ### Parts -/

/-- The part that holds a row, with the row's index in it. -/
def partOf (i : Inst) (r : Nat) : Option (CollPart × Nat) :=
  (i.parts.find? fun p => cOff (collExt p.desc) ≤ r && decide (r < cOff (collExt p.desc) + cLen (collExt p.desc))).map
    fun p => (p, r - cOff (collExt p.desc))

/-- The bytes an op reads when it runs, in a fixed order by kind. -/
def partOperands (s : State) (e : OpEnv) (d : Bytes) : Except Nat (List Bytes) :=
  if dKind d = 0x16 then
    let x := collExt d
    .ok [if cCount x = 0 then [] else rdField s e (getLE d 0x10 4) (vecBytes (cType x) (cLen x) (cLen x))]
  else if isRing d then
    match readKV s e d with
    | .error f => .error f
    | .ok kv => .ok ([kv.1, kv.2] ++
        (if dKind d = 7 then bwdReads s e d else [rdField s e (getLE d 0x10 4) (qBytes d (aFqk d))]))
  else
    let m := if dKind d = 4 then (partInChunk (collExt d) (collH d) (cRank (collExt d))).length else cLen (collExt d)
    let g := gemmIn s e d m
    .ok [g.a, g.sa, g.b, g.sb, g.bias.getD []]

/-- The product of a part: the bias enters with the last rank's K range alone (R82; log entry 49). -/
def partGemm (i : Inst) (p : CollPart) : GemmIn :=
  let d := p.desc
  ⟨gFa d, gFb d, gK d, gN d, p.operands.getD 0 [], p.operands.getD 1 [], p.operands.getD 2 [], p.operands.getD 3 [],
    if gEpi d != 0 && i.rank + 1 == instN i then some (p.operands.getD 4 []) else none⟩

/-! ### Contributions (R234, R235) -/

/-- Columns of a contributed row: dK and dV together for ATTN_BWD. -/
def contribCols (d : Bytes) : Nat := if dKind d = 7 then 2 * collL d else collL d

/-- The chunk of a ring that came from rank j, as (first position, K, V). -/
def ringChunk (i : Inst) (j : Nat) : Nat × Bytes × Bytes :=
  let b := tget [] i.res j
  let n := kvBytes i.desc (aFqk i.desc)
  (j * aKv i.desc, b.take n, b.drop n)

/-- What a part of an ATTN_BWD ring works on, with the chunks in rank order. -/
def ringIn (i : Inst) (p : CollPart) : BwdIn := bwdIn p.desc (p.operands.drop 2) ((List.range (instN i)).map (ringChunk i))

/-- What a ring member adds for a row and column of dK and dV together: the addends of its own query tokens (R118). -/
def ringAddends (i : Inst) (r c : Nat) : List Nat :=
  let d := i.desc
  let l := collL d
  let kv := max (aKv d) 1
  i.parts.flatMap fun p =>
    let a := ringIn i p
    dkvAddends a (bwdP a) (if c < l then 1 else 2) (r / kv) (r % kv) (c % l / aDim d) (c % aDim d)

/-- The code and the scale of the element a BARRIER part contributes at a row. -/
def barrierElem (i : Inst) (r : Nat) : Nat × Nat := match partOf i r with
  | some (p, k) =>
    let t := cType (instExt i)
    let b := p.operands.headD []
    (elemCode t b k, getLE b (align64 (fmtBytes t (cLen (collExt p.desc))) + k / 32) 1)
  | none => (0, 0)

def barrierCode (i : Inst) (r : Nat) : Nat := (barrierElem i r).1

/-- Anchor of the block of own contributions with these rows and columns (R238 step 1). -/
def ownAnchor (i : Inst) (rows cols : List Nat) : Int :=
  match dKind i.desc with
  | 0x16 => anchorOf (rows.filterMap fun r =>
      match fmtOf (cType (instExt i)) with
      | some f => shadowExp f (decodeVal f (barrierCode i r))
      | none => none)
  | 7 => anchorOf (rows.flatMap fun r => cols.flatMap fun c => (ringAddends i r c).filterMap fun x => shadowExp fp32 (f32 x))
  | _ => (i.parts.map fun p =>
      let mine := rows.filterMap fun r =>
        let k := r - cOff (collExt p.desc)
        if cOff (collExt p.desc) ≤ r && decide (k < cLen (collExt p.desc)) then some k else none
      if mine.isEmpty then -128 else blockAnchor (partGemm i p) mine cols).foldl max (-128)

/-- The blocks of a chunk: 128 rows of the chunk by 128 columns, column block by column block (R73; log entry 50). -/
def chunkBlocks (i : Inst) (j : Nat) : List (List Nat × List Nat) :=
  let rows := chunkRows i j
  (List.range ((contribCols i.desc + 127) / 128)).flatMap fun cb =>
    (List.range ((rows.length + 127) / 128)).map fun rb => ((rows.drop (128 * rb)).take 128, blockIx cb (contribCols i.desc))

/-- Own proposals for the chunk of owner j. -/
def proposeFor (i : Inst) (j : Nat) : List Int := (chunkBlocks i j).map fun b => ownAnchor i b.1 b.2

/-- The anchor at which this member sums the element in row k of owner j's chunk and column c: the agreed one, or its
own proposal where that is higher (R238 step 4). -/
def anchorAt (i : Inst) (j k c : Nat) : Int :=
  let nb := ((chunkRows i j).length + 127) / 128
  let ix := c / 128 * nb + k / 128
  max ((tget [] i.agreed j).getD ix (-128)) ((tget [] i.ownProposals j).getD ix (-128))

/-- One contributed row as WIDE elements. -/
def wideRow (i : Inst) (j k r : Nat) : List Elem :=
  let n := contribCols i.desc
  match dKind i.desc with
  | 0x16 =>
    let v := match fmtOf (cType (instExt i)) with
      | some f => decodeVal f (barrierCode i r)
      | none => .num false 0 0
    [(Elem.zero (anchorAt i j k 0)).add v]
  | 7 => (List.range n).map fun c => (ringAddends i r c).foldl (fun a x => a.add (f32 x)) (Elem.zero (anchorAt i j k c))
  | _ => match partOf i r with
    | none => []
    | some (p, x) =>
      let g := partGemm i p
      let row := g.aRow x
      (List.range n).map fun c =>
        gemmElem (anchorAt i j k c) row (g.bCol c) (g.bias.map fun b => getLE b (4 * c) 4)


/-- One row of a member's partial C drained to etype under NATIVE: element index r × L + c (R62, R234). -/
def nativeRow (s : State) (i : Inst) (r : Nat) : List Nat :=
  let t := cType (instExt i)
  let l := collL i.desc
  match dKind i.desc with
  | 0x16 => [barrierCode i r]
  | _ => match partOf i r with
    | none => []
    | some (p, x) =>
      let g := partGemm i p
      let m := cLen (collExt p.desc)
      let row := g.aRow x
      let es := (List.range l).map fun c =>
        gemmElem (gemmAnchor [g] m l (x / 128) (c / 128)) row (g.bCol c) (g.bias.map fun b => getLE b (4 * c) 4)
      let rnd := fun k => rndOf (collMode i.desc) (ctxOf s i.ctx).seed (collTensor i.desc) i.key.step (r * l + k)
      match fmtOf t with
      | some f => es.mapIdx fun c v => (convert f (rnd c) (modeNonsat (collMode i.desc)) false v.val).1
      | none => es.mapIdx fun c v => (convInt 32 (rnd c) v.val).1

/-- The bytes this member contributes to the chunk of owner j. -/
def contribution (s : State) (i : Inst) (j : Nat) : Bytes :=
  let rows := chunkRows i j
  if isNative i then packCodes (cType (instExt i)) (rows.flatMap (nativeRow s i))
  else (rows.mapIdx fun k r => wideRow i j k r).flatMap fun es => es.flatMap Elem.bytes

/-- Bytes of a contribution to the own chunk. -/
def contribBytes (i : Inst) : Nat :=
  let n := (chunkRows i i.rank).length * contribCols i.desc
  if isNative i then fmtBytes (cType (instExt i)) n else 16 * n

/-- A row of A with its scales, as AG_GEMM gathers it. -/
def agRowBytes (d : Bytes) : Nat := fmtBytes (gFa d) (gK d) + (if isMx (gFa d) then blocksOf (gK d) else 0)

/-- Bytes of the chunk of rank j as it is gathered (NONE) or returned reduced. -/
def chunkBytes (i : Inst) (j : Nat) : Nat :=
  let n := (chunkRows i j).length
  match dKind i.desc with
  | 4 => n * agRowBytes i.desc
  | 6 => kvBytes i.desc (aFqk i.desc) + kvBytes i.desc (aFv i.desc)
  | 7 => kvBytes i.desc (aFqk i.desc) + kvBytes i.desc (aFv i.desc)
  | 0x16 => if instOp i = 3 then fmtBytes (cType (instExt i)) n + (if isMx (cType (instExt i)) then n else 0)
      else fmtBytes (collFmt i.desc) n + (if isMx (collFmt i.desc) then blocksOf n else 0)
  | _ =>
    let l := collL i.desc
    n * (fmtBytes (collFmt i.desc) l + (if isMx (collFmt i.desc) then blocksOf l else 0))

/-- The own chunk of a collective that gathers; a vector in an MX format travels with the scale of every element (log entry
51). -/
def ownChunk (i : Inst) : Bytes :=
  match dKind i.desc with
  | 4 => (chunkRows i i.rank).flatMap fun r => match i.parts.find? fun p => (partInChunk (collExt p.desc) (collH p.desc) i.rank).contains r with
    | none => []
    | some p =>
      let g := partGemm i p
      let k := (partInChunk (collExt p.desc) (collH p.desc) i.rank).idxOf r
      g.rowBytes k ++ slice g.sa (k * blocksOf g.k) (if isMx g.fa then blocksOf g.k else 0)
  | 0x16 =>
    let es := (chunkRows i i.rank).map (barrierElem i)
    packCodes (cType (instExt i)) (es.map (·.1)) ++ (if isMx (cType (instExt i)) then es.map fun x => BitVec.ofNat 8 x.2 else [])
  | _ => match i.parts with
    | p :: _ => p.operands.getD 0 [] ++ p.operands.getD 1 []
    | [] => []

/-! ### Messages (R237) -/

/-- Is the member table of a collective that of the instance, by the first 8 bytes of its SHA-256? -/
def sameTable (s : State) (i : Inst) (coll : Nat) : Bool := match collSlot s coll with
  | some (_, _, (_, d) :: _) => (sha256 (tableBytes (memberTable s i.ctx d))).take 8 == (sha256 (tableBytes i.members)).take 8
  | _ => false

/-- The fingerprint list of the previous step whose fp_coll has the instance's member table (R280). -/
def fpFor (s : State) (i : Inst) : Option FpList :=
  (ctxOf s i.ctx).fps.find? fun f => f.step + 1 == i.key.step && f.f != 0 && sameTable s i f.coll

/-- F_s of the previous step for a first message. -/
def firstFp (s : State) (i : Inst) : Nat := ((fpFor s i).map (·.f)).getD 0

/-- The receiver's context ID through the peer map (R167). -/
def peerCtx (s : State) (i : Inst) (addr : Nat) : Nat :=
  (((ctxOf s i.ctx).peers.find? fun p => p.2.1 == addr).map (·.2.2)).getD i.ctx

/-- The 64 B header. Types: 1 DATA, 2 ANCHOR_PROPOSE, 3 ANCHOR_AGREE, 4 RESULT, 5 ABORT, 6 CREDIT. DATA that leaves past
close_t is marked late (log entry 48). -/
def collHdr (s : State) (i : Inst) (dst type : Nat) (first : Bool) (sig row len aux : Nat) : Bytes :=
  let h := toLE 4 i.key.coll ++ toLE 4 i.key.step ++ toLE 2 (peerCtx s i (i.members.getD dst 0)) ++
    toLE 2 (type + b2n first * 16 + b2n (type == 1 && decide (i.closeT < s.now)) * 32) ++ toLE 4 i.rank ++ toLE 4 sig ++ toLE 4 s.dvl.epoch ++ toLE 16 s.dvl.digest ++
    toLE 8 (if first then firstFp s i else 0) ++ toLE 4 row ++ toLE 4 len ++ toLE 4 aux
  h ++ toLE 4 (crc32c h)

/-- Send one message of an instance to a rank. A member in HOLD sends nothing (R243). A segment holds a page of its
receiver until a CREDIT message returns it (R239). -/
def collSend (k : InstKey) (dst type sig row : Nat) (payload : Bytes) (aux : Nat) (s : State) : State :=
  match instOf s k with
  | none => s
  | some i =>
    if s.dvl.hold || !activeCtx (ctxOf s i.ctx) then s
    else
      let first := !i.firstSent.contains dst
      let peer := i.members.getD dst 0
      let s1 := updInst k (fun i => if first then { i with firstSent := i.firstSent ++ [dst] } else i) s
      let s2 := if type = 1 && reduces i && !payload.isEmpty then
          { s1 with glu := { s1.glu with credits := tupd 0 s1.glu.credits peer (· + 1) } }
        else s1
      send peer (.coll (collHdr s i dst type first sig row payload.length aux) payload) s2

/-- Segments of at most 64 KiB; the row field names the first row of the chunk (log entry 48). -/
def segments : Nat → Bytes → List Bytes
  | 0, _ => []
  | n + 1, b => if b.length ≤ 65536 then [b] else b.take 65536 :: segments n (b.drop 65536)

def collSendAll (k : InstKey) (dst type sig row : Nat) (b : Bytes) (s : State) : State :=
  (segments (b.length / 65536 + 1) b).foldl (fun s x => collSend k dst type sig row x 0 s) s

def otherRanks (i : Inst) : List Nat := (List.range (instN i)).filter (· != i.rank)

/-! ### Completing ops -/

/-- The anchor of the block of row r and column c of a part of GEMM_RS or GEMM_AR: its own pre-scan under NATIVE, the
agreed one under WIDE. -/
def partAnchor (i : Inst) (p : CollPart) (rb cb : Nat) : Int :=
  if isNative i then gemmAnchor [partGemm i p] (cLen (collExt p.desc)) (collL i.desc) rb cb
  else
    let r := cOff (collExt p.desc) + 128 * rb
    match (List.range (instN i)).find? fun j => (chunkRows i j).contains r with
    | some j => anchorAt i j (r - chunkAt (collH i.desc) (instN i) j) (128 * cb)
    | none => -128

/-- What the passes of GEMM_RS and GEMM_AR leave in the grid of a part's tile (R89). -/
def partPasses (i : Inst) (p : CollPart) (s : State) : State :=
  if dKind i.desc = 3 ∨ dKind i.desc = 5 then
    afterPass (opEnvAt s p.tile p.mb p.desc i.ctx) (partGemm i p) (cLen (collExt p.desc)) 0 (partAnchor i p) s
  else s

/-- The ops of an instance end with a status; a program that ended with one of them goes on. -/
def endParts (i : Inst) (status : Nat) (s : State) : State :=
  i.parts.foldl (fun s p =>
    afterOp ⟨Fin.ofNat 256 p.tile, p.mb⟩ p.desc (setStatus p.tile status (partPasses i p s))) s

/-- Free the glue-up queue and its pages. -/
def closeQueue (i : Inst) (s : State) : State := match i.queue with
  | some q => { s with glu := { s.glu with queues := tdel s.glu.queues q } }
  | none => s

/-! ### Mismatch and ABORT (R242, R243) -/

/-- EV_COLL_MISMATCH and its counter. -/
def mismatchEvent (i : Inst) (sig1 sig2 rank1 rank2 : Nat) (s : State) : State :=
  raiseCtx 0x0501 8 i.ctx [(4, i.key.coll), (4, i.key.step), (4, sig1), (4, sig2), (4, rank1), (4, rank2)]
    { setCtx i.ctx (fun x => { x with mismatches := x.mismatches + 1 }) s with
      glu := { s.glu with mismatchCnt := satInc s.glu.mismatchCnt } }

/-- Stop an instance: staged results go, its ops complete with a status, no destination changes. -/
def stopWith (status : Nat) (k : InstKey) (s : State) : State := match instOf s k with
  | none => s
  | some i => closeQueue i (endParts i status (updInst k (fun i => { i with stopped := true, got := [], res := [], queue := none }) s))

/-- ... with S_COLL_MISMATCH (R242). -/
def stopInst (k : InstKey) (s : State) : State := stopWith 0x0501 k s

/-- A first message before close_t with another signature: ABORT to the next rank, and stop. -/
def mismatchFound (k : InstKey) (sender sig : Nat) (s : State) : State := match instOf s k with
  | none => s
  | some i =>
    let s1 := collSend k ((i.rank + 1) % max (instN i) 1) 5 sig 0 [] i.signature s
    mismatchEvent i i.signature sig i.rank sender (stopInst k s1)

/-! ### The ledger (R247) -/

def maxLedger : Nat := 1048576

/-- Set one field of the ledger record of a late pair: 3 policy, 4 applied. -/
def setLedger (c coll step rank owner field v : Nat) (s : State) : State :=
  let upd (r : List Nat) : List Nat :=
    if r.getD 0 0 = coll ∧ r.getD 1 0 = step ∧ r.getD 2 0 = rank ∧ r.getD 5 0 = owner then r.set field v else r
  setCtx c (fun x => { x with ledger := x.ledger.map upd }) s

/-- The policy recorded for a late pair: REPLAY keeps the loaded one. -/
def latePolicy (s : State) (i : Inst) (rank : Nat) : Nat :=
  if isReplay (ctxOf s i.ctx) then
    (((ctxOf s i.ctx).replay.find? fun r => r.getD 0 0 == i.key.coll && r.getD 1 0 == i.key.step && r.getD 2 0 == rank &&
      r.getD 5 0 == i.rank).map fun r => r.getD 3 0).getD (b2n (cDrop (instExt i)))
  else b2n (cDrop (instExt i))

/-- EV_COLL_LATE, at most once per frame per collective, with the lateness of the contribution. -/
def lateEvent (i : Inst) (rank : Nat) (s : State) : State :=
  if s.glu.lateEv.contains i.key.coll then s
  else raiseCtx 0x0502 8 i.ctx [(4, i.key.coll), (4, i.key.step), (4, rank), (4, i.rank), (1, latePolicy s i rank),
      (4, s.now - i.closeT)] { s with glu := { s.glu with lateEv := i.key.coll :: s.glu.lateEv } }

/-- A complete contribution of a late rank: kept for the next step, or dropped (R246). -/
def lateArrived (i : Inst) (rank : Nat) (data : Bytes) (s : State) : State :=
  let s1 := lateEvent i rank s
  if latePolicy s i rank = 1 then
    setCtx i.ctx (fun x => { x with drops := x.drops + 1 })
      { s1 with glu := { s1.glu with dropCnt := satInc s1.glu.dropCnt } }
  else { s1 with glu := { s1.glu with deferred := s1.glu.deferred ++ [⟨i.key, rank, data⟩] } }

/-! ### Reducing the own chunk (R234, R235, R246) -/

/-- One operation in a format of R234, rounded to nearest even, with its events; NaN rule of R65. -/
def nativeOp (t op a b : Nat) : Nat × List Nat :=
  if t = 0x0C then
    let x := signed 32 a
    let y := signed 32 b
    (match op with
      | 0 => (a + b) % 2 ^ 32
      | 1 => if x < y then b else a
      | _ => if y < x then b else a, [])
  else match fmtOf t with
    | none => (0, [])
    | some f =>
      let a32 := load32 t a 0
      let b32 := load32 t b 0
      if isNan32 a32 then (a ||| 2 ^ (f.man - 1), [])
      else if isNan32 b32 then (b ||| 2 ^ (f.man - 1), [])
      else match op with
        | 0 => convert f .rne false false (addVal (decodeVal f a) (decodeVal f b))
        | 1 => (if (max32 a32 b32).1 = a32 then a else b, [])
        | _ => (if (min32 a32 b32).1 = a32 then a else b, [])

def nativeCodes (t n : Nat) (b : Bytes) : List Nat := (List.range n).map (elemCode t b)
def wideElems (n : Nat) (b : Bytes) : List Elem := (List.range n).map fun k => Elem.ofBytes (slice b (16 * k) 16)

/-- A sum of one element in NATIVE precision, in the order given, with the events of its last operation. -/
def nativeFold (t op : Nat) : List Nat → Nat × List Nat
  | [] => (0, [])
  | x :: r => r.foldl (fun a b => nativeOp t op a.1 b) (x, [])

/-- Two WIDE elements added at the higher of their anchors, the lower one shifted right and rounded once (R246). -/
def addRaised (x y : Elem) : Elem :=
  let a := max x.anchor y.anchor
  ((x.raise a).combine (y.raise a)).getD x

/-- The contributions that enter the sum, in the order of R234: ascending ranks under FIXED, arrival order otherwise. -/
def sumOrder (s : State) (i : Inst) : List Nat :=
  let bad := i.late ++ forcedLate s i
  let here := i.order.filter fun r => !bad.contains r
  if isNative i && !cArrival (instExt i) then sortBy (fun a b : Nat => decide (a ≤ b)) here else here

/-- Deferred contributions of earlier steps of this collective and job, in ascending (step, rank). -/
def deferredFor (s : State) (i : Inst) : List Deferred :=
  sortBy (fun a b : Deferred => decide (a.key.step < b.key.step) || (a.key.step == b.key.step && decide (a.rank ≤ b.rank)))
    (s.glu.deferred.filter fun d => d.key.coll == i.key.coll && d.key.job == i.key.job && decide (d.key.step < i.key.step))

/-- The contribution of a rank. -/
def gotOf (i : Inst) (r : Nat) : Bytes := tget [] i.got r

/-- The WIDE contributions that meet at the agreed anchor, and those that meet them at the higher of two anchors: deferred
ones (R246), and one that missed the anchor deadline and that the owner waits for with a full ledger (R247). -/
def wideParts (s : State) (i : Inst) : List (List Elem) × List (List Elem) :=
  let n := (chunkRows i i.rank).length * contribCols i.desc
  let agreedTo (r : Nat) : Bool := i.proposals.any fun p => p.1 == r
  (((sumOrder s i).filter agreedTo).map fun r => wideElems n (gotOf i r),
   (((sumOrder s i).filter fun r => !agreedTo r).map fun r => wideElems n (gotOf i r)) ++
     (deferredFor s i).map fun d => wideElems n d.data)

/-- Does every element combine with the ones it meets (R57)? -/
def anchorsMeet : List (List Elem) → Bool
  | [] => true
  | x :: r => r.all fun y => (x.zip y).all fun p => p.1.anchor == p.2.anchor

/-- The reduced elements of the own chunk, ready to drain. -/
def reduceWide (s : State) (i : Inst) : List Elem :=
  let n := (chunkRows i i.rank).length * contribCols i.desc
  let ps := wideParts s i
  let at_ (k : Nat) (p : List Elem) : Elem := p.getD k (Elem.zero (-128))
  (List.range n).map fun k =>
    let base := match ps.1.map (at_ k) with
      | [] => Elem.zero (-128)
      | x :: r => r.foldl (fun a y => (a.combine y).getD a) x
    ps.2.foldl (fun a p => addRaised a (at_ k p)) base

/-- The reduced elements as codes of etype, each with the events of the operation that gave it. -/
def reduceNative (s : State) (i : Inst) : List (Nat × List Nat) :=
  let t := cType (instExt i)
  let n := (chunkRows i i.rank).length * contribCols i.desc
  let parts := ((sumOrder s i).map fun r => nativeCodes t n (gotOf i r)) ++
    (deferredFor s i).map fun d => nativeCodes t n d.data
  (List.range n).map fun k => nativeFold t (instOp i) (parts.map fun p => p.getD k 0)

/-- Rows of the own chunk as they are converted: C rows of L elements, or the chunk of a vector as one row. -/
def outRows {α : Type} (i : Inst) (l : List α) : List (List α) :=
  if dKind i.desc = 0x16 then [l] else rowsOf (collL i.desc) l (chunkRows i i.rank).length

/-- The reduced own chunk converted once to the destination format (R62: the index in the full tensor). Written in etype,
it counts the overflow and the flush of the last addition (R444). -/
def reducedOut (s : State) (i : Inst) : OutT :=
  let d := i.desc
  let fmt := collFmt d
  let first := chunkAt (collH d) (instN i) i.rank * collL d
  let rnd := fun e => rndOf (collMode d) (ctxOf s i.ctx).seed (collTensor d) i.key.step (first + e)
  let epi := if dKind d = 0x16 then 0 else gEpi d
  let len := if dKind d = 0x16 then (chunkRows i i.rank).length else collL d
  if isNative i then
    let t := cType (instExt i)
    let rs := reduceNative s i
    let vs := rs.map fun c => match fmtOf t with
      | some f => decodeVal f c.1
      | none => intVal 32 c.1
    if fmt = 0x0D then
      wideOut (outRows i (vs.map fun v => (Elem.zero (anchorOf ((shadowExp fp32 v).toList))).add v))
    else if epi = 2 then
      let gs := (outRows i vs).map fun r => r.map fun v => trans32 .gelu (to32 v).1
      if fmt = 1 then convF32 1 (modeNonsat (collMode d)) rnd len 0 gs
      else convRows fmt (modeNonsat (collMode d)) true rnd len 0 (gs.map fun r => r.map fun x => f32 x.1)
    else
      let o := convRows fmt (modeNonsat (collMode d)) true rnd len 0 (outRows i vs)
      if fmt = t then { o with evs := o.evs ++ rs.flatMap fun c => c.2.filter fun e => e == evOvf || e == evFlush } else o
  else drainRows fmt (collMode d) epi len rnd (outRows i (reduceWide s i))

/-- Result rows as they travel and are staged: each row's elements, then its scales. -/
def stageRows (i : Inst) (o : OutT) : Bytes :=
  let fmt := collFmt i.desc
  let n := (chunkRows i i.rank).length
  if dKind i.desc = 0x16 then o.elems ++ o.scales
  else
    let l := collL i.desc
    let sb := if isMx fmt then blocksOf l else 0
    (List.range n).flatMap fun k => slice o.elems (k * fmtBytes fmt l) (fmtBytes fmt l) ++ slice o.scales (k * sb) sb

/-- Does the kind return reduced rows to the other members (R246)? -/
def returns (i : Inst) : Bool := dKind i.desc == 5 || dKind i.desc == 0x16

/-- The owner completes the sum: deferred contributions are added and marked, late ones that have arrived are kept or
dropped, the chunk is converted and, where the kind returns it, sent to every member. Contributions of unequal anchors stop
the instance with S_BAD_FIELD, and no destination changes (R57). -/
def finishSum (k : InstKey) (s : State) : State := match instOf s k with
  | none => s
  | some i =>
    if isWideSum i && !anchorsMeet (wideParts s i).1 then stopWith sBadField k s else
    let defs := deferredFor s i
    let wide := dKind i.desc = 7
    let o : OutT := if wide then ⟨[], [], [], []⟩ else reducedOut s i
    let bytes := if wide then (reduceWide s i).flatMap Elem.bytes else stageRows i o
    let e : OpEnv := ⟨(i.parts.head?.map (·.tile)).getD 0, dKind i.desc, dSeq i.desc, i.ctx, 0, 0, k.step, 0, 0, (ctxOf s i.ctx).seed, none, none, none⟩
    let s1 := if wide then s else countOut e i.desc (collFmt i.desc) o s
    let s2 := defs.foldl (fun s d => setLedger i.ctx d.key.coll d.key.step d.rank i.rank 4 1 s) s1
    let s3 := setCtx i.ctx (fun x => { x with deferrals := x.deferrals + defs.length })
      { s2 with glu := { s2.glu with
        deferCnt := satInc s2.glu.deferCnt defs.length
        deferred := s2.glu.deferred.filter fun d => !defs.contains d } }
    let lates := i.order.filter fun r => (i.late ++ forcedLate s i).contains r
    let s4 := lates.foldl (fun s r => lateArrived i r (gotOf i r) s) s3
    let place := if wide then instN i else i.rank
    let s5 := updInst k (fun i => { i with summed := true, res := tset i.res place bytes, got := [] }) s4
    if returns i then
      (otherRanks i).foldl (fun s r => collSendAll k r 4 i.signature (chunkAt (collH i.desc) (instN i) i.rank) bytes s) s5
    else s5

/-- Has every contribution the owner waits for arrived, or has the instance closed (R246)? -/
def sumReady (s : State) (i : Inst) : Bool :=
  let forced := forcedLate s i
  let need := (List.range (instN i)).filter fun r =>
    !i.order.contains r && !forced.contains r && (waitsAll s i || !i.late.contains r)
  need.isEmpty || (i.closed && !waitsAll s i)

/-- Reduce the own chunk when it can be. -/
def tryReduce (k : InstKey) (s : State) : State := match instOf s k with
  | none => s
  | some i =>
    if i.summed || i.stopped || !reduces i || (chunkRows i i.rank).isEmpty || !sumReady s i then s else finishSum k s

/-! ### Contributions arriving -/

/-- A contribution segment of a rank for the own chunk (R246); one page credit returns with each segment of another
member (R239). -/
def contribAt (k : InstKey) (rank : Nat) (data : Bytes) (s : State) : State := match instOf s k with
  | none => s
  | some i =>
    let got := gotOf i rank ++ data
    let s1 := updInst k (fun i => { i with got := tset i.got rank got }) s
    let s2 := if rank = i.rank then s1 else collSend k rank 6 0 0 [] 0 s1
    if got.length < contribBytes i || i.order.contains rank then s2
    else if i.summed then
      lateArrived i rank got (updInst k (fun i => { i with got := tdel i.got rank, order := i.order ++ [rank] }) s2)
    else tryReduce k (updInst k (fun i => { i with order := i.order ++ [rank] }) s2)

/-- Contribute to the chunk of owner j. -/
def contributeTo (k : InstKey) (j : Nat) (s : State) : State := match instOf s k with
  | none => s
  | some i =>
    if (chunkRows i j).isEmpty then s
    else if j = i.rank then contribAt k i.rank (contribution s i j) s
    else collSendAll k j 1 i.signature (chunkAt (collH i.desc) (instN i) j) (contribution s i j) s

/-- Agreed anchors of an owner reach this member, and it sums and sends (R238). -/
def agreedAt (k : InstKey) (owner : Nat) (anchors : List Int) (s : State) : State := match instOf s k with
  | none => s
  | some i =>
    if i.agreed.any fun a => a.1 == owner then s
    else
      let s1 := updInst k (fun i => { i with agreed := i.agreed ++ [(owner, anchors)] }) s
      if i.ready then contributeTo k owner s1 else s1

/-- The owner agrees the anchors of its chunk from the proposals present: their maxima, clamped (R238 step 2). -/
def agree (k : InstKey) (s : State) : State := match instOf s k with
  | none => s
  | some i =>
    if i.agreed.any fun a => a.1 == i.rank then s
    else
      let n := (chunkBlocks i i.rank).length
      let as_ := (List.range n).map fun b => clampAnchor ((i.proposals.map fun p => p.2.getD b (-128)).foldl max (-128))
      let missed := (List.range (instN i)).filter fun r => !(i.proposals.any fun p => p.1 == r)
      let s1 := updInst k (fun i => { i with late := i.late ++ missed.filter fun r => !i.late.contains r }) s
      let payload := as_.flatMap fun a => toLE 1 (a % 256).toNat
      agreedAt k i.rank as_ ((otherRanks i).foldl (fun s r => collSend k r 3 i.signature 0 payload n s) s1)

/-- A proposal reaches the owner. -/
def proposalAt (k : InstKey) (rank : Nat) (as_ : List Int) (s : State) : State := match instOf s k with
  | none => s
  | some i =>
    if i.proposals.any fun p => p.1 == rank then s
    else
      let s1 := updInst k (fun i => { i with proposals := i.proposals ++ [(rank, as_)] }) s
      if i.proposals.length + 1 = instN i then agree k s1 else s1

/-- Start to reduce: proposals under WIDE (R238), contributions at once under NATIVE. -/
def startSum (k : InstKey) (s : State) : State := match instOf s k with
  | none => s
  | some i =>
    let owners := (List.range (instN i)).filter fun j => !(chunkRows i j).isEmpty
    if isNative i then owners.foldl (fun s j => contributeTo k j s) s
    else
      let s1 := updInst k (fun i => { i with ownProposals := owners.map fun j => (j, proposeFor i j) }) s
      owners.foldl (fun s j =>
        let as_ := proposeFor i j
        match instOf s k with
        | none => s
        | some x =>
          if j = i.rank then proposalAt k j as_ s
          else
            let s1 := collSend k j 2 i.signature (chunkAt (collH i.desc) (instN i) j) (as_.flatMap fun a => toLE 1 (a % 256).toNat)
              as_.length s
            if x.agreed.any fun a => a.1 == j then contributeTo k j s1 else s1) s1

/-- Are all gathered chunks here? -/
def gatheredAll (i : Inst) : Bool :=
  (List.range (instN i)).all fun j => decide (chunkBytes i j ≤ (tget [] i.res j).length)

/-- A ring member passes a complete chunk on, until it has gone round (R115). -/
def passOn (k : InstKey) (j : Nat) (s : State) : State := match instOf s k with
  | none => s
  | some i =>
    let next := (i.rank + 1) % max (instN i) 1
    let s1 := if next = j || instN i ≤ 1 then s
      else collSendAll k next 1 i.signature (chunkAt (collH i.desc) (instN i) j) (tget [] i.res j) s
    if dKind i.desc = 7 && gatheredAll i then startSum k s1 else s1

/-- A segment of a gathered or reduced chunk of owner j. -/
def chunkArrived (k : InstKey) (j : Nat) (data : Bytes) (s : State) : State := match instOf s k with
  | none => s
  | some i =>
    let b := tget [] i.res j ++ data
    let s1 := updInst k (fun i => { i with res := tset i.res j b }) s
    if isRing i.desc && i.ready && chunkBytes i j ≤ b.length && decide ((tget [] i.res j).length < chunkBytes i j) then
      passOn k j s1
    else s1

/-- Every part has run: the member starts (R232), and each peer gets a first message (R237, R240). -/
def startMember (k : InstKey) (s : State) : State := match instOf s k with
  | none => s
  | some i =>
    let s1 := updInst k (fun i => { i with ready := true }) s
    let first := chunkAt (collH i.desc) (instN i) i.rank
    let s2 :=
      if cCount (instExt i) = 0 then s1
      else if isRing i.desc then
        let s2 := chunkArrived k i.rank (ownChunk i) s1
        ((List.range (instN i)).filter fun j => j != i.rank && decide (chunkBytes i j ≤ (tget [] i.res j).length)).foldl
          (fun s j => passOn k j s) s2
      else if instOp i = 3 then
        (otherRanks i).foldl (fun s r => if (ownChunk i).isEmpty then s else collSendAll k r 1 i.signature first (ownChunk i) s)
          (chunkArrived k i.rank (ownChunk i) s1)
      else startSum k s1
    (otherRanks i).foldl (fun s r => match instOf s k with
      | some x => if x.firstSent.contains r then s else collSend k r 1 i.signature first [] 0 s
      | none => s) s2

/-- An op joins its member: one more part; the op completes when the member has committed (R232). -/
def joinColl (d : Bytes) (e : OpEnv) (s : State) : Except Nat State :=
  let x := ctxOf s e.ctx
  let k : InstKey := ⟨cId (collExt d), x.job, e.step⟩
  match partOperands s e d with
  | .error f => .error f
  | .ok ops =>
    let s1 := match instOf s k with
      | some i => if i.committed then newInst k e.ctx e.tile d s else s
      | none => newInst k e.ctx e.tile d s
    match instOf s1 k with
    | none => .ok s1
    | some i =>
      if i.stopped then .ok (afterOp ⟨Fin.ofNat 256 e.tile, e.mb⟩ d (setStatus e.tile 0x0501 s1))
      else
        let s2 := updInst k (fun i => { i with parts := i.parts ++ [⟨e.tile, e.mb, d, ops⟩] }) s1
        .ok (if i.parts.length + 1 = i.expected then startMember k s2 else s2)

/-! ### Commit (R232, R240) -/

/-- The row of a chunk as staged: its elements and its scales. -/
def stagedRow (i : Inst) (r : Nat) : Bytes × Bytes :=
  let fmt := collFmt i.desc
  let l := collL i.desc
  let sb := if isMx fmt then blocksOf l else 0
  let n := fmtBytes fmt l + sb
  match (List.range (instN i)).find? fun j => (chunkRows i j).contains r with
  | none => ([], [])
  | some j =>
    let b := slice (tget [] i.res j) ((r - chunkAt (collH i.desc) (instN i) j) * n) n
    (b.take (n - sb), b.drop (n - sb))

/-- Element r of a vector as staged: its code, and its scale, or its block's where it was reduced. -/
def stagedElem (i : Inst) (fmt r : Nat) : Nat × Nat :=
  match (List.range (instN i)).find? fun j => (chunkRows i j).contains r with
  | none => (0, 0)
  | some j =>
    let b := tget [] i.res j
    let k := r - chunkAt (collH i.desc) (instN i) j
    (elemCode fmt b k, getLE b (fmtBytes fmt (chunkRows i j).length + (if instOp i = 3 then k else k / 32)) 1)

/-- The gathered row of A: its elements and scales. -/
def gatheredRow (i : Inst) (r : Nat) : Bytes × Bytes :=
  let n := agRowBytes i.desc
  let m := fmtBytes (gFa i.desc) (gK i.desc)
  match (List.range (instN i)).find? fun j => (chunkRows i j).contains r with
  | none => ([], [])
  | some j =>
    let b := slice (tget [] i.res j) ((r - chunkAt (collH i.desc) (instN i) j) * n) n
    (b.take m, b.drop m)

/-- AG_GEMM: the gathered rows land at gather_dst, and the GEMM runs on them. -/
def commitAg (i : Inst) (p : CollPart) (e : OpEnv) (s : State) : State :=
  let d := p.desc
  let rows := (List.range (cLen (collExt d))).map fun x => gatheredRow i (cOff (collExt d) + x)
  let o : OutT := ⟨rows.flatMap (·.1), rows.flatMap (·.2), [], []⟩
  let s1 := wrTrailing e (cGather (collExt d)) (gFa d) o s
  let g : GemmIn := { partGemm i p with a := o.elems, sa := o.scales, bias := if gEpi d = 0 then none else some (p.operands.getD 4 []) }
  let m := cLen (collExt d)
  let anchor := gemmAnchor [g] m (gN d)
  gemmWrite e d (drainRows (gFc d) (gMode d) (gEpi d) (gN d)
    (fun x => opRnd e (gMode d) (getLE d 0x34 4) (cOff (collExt d) * gN d + x)) (gemmRows g m anchor))
    (afterPass e g m 0 anchor s1)

/-- GEMM_RS and GEMM_AR: reduced rows at c_dst, in row order. -/
def commitRows (i : Inst) (p : CollPart) (e : OpEnv) (s : State) : State :=
  let d := p.desc
  let x := collExt d
  let rows := if dKind d = 3 then partInChunk x (collH d) i.rank else (List.range (cLen x)).map (· + cOff x)
  let rs := rows.map (stagedRow i)
  let s1 := wrField e (getLE d 0x20 4) (rs.flatMap (·.1)) s
  if isMx (gFc d) then wrField e (getLE d 0x24 4) (rs.flatMap (·.2)) s1 else s1

/-- BARRIER: every row of the part at dst. NONE copies unchanged (R228); a destination block takes the scale of its first
element (log entry 51). -/
def commitBarrier (i : Inst) (p : CollPart) (e : OpEnv) (s : State) : State :=
  let d := p.desc
  let x := collExt d
  if cCount x = 0 then s
  else
    let fmt := if instOp i = 3 then cType x else collFmt d
    let es := (List.range (cLen x)).map fun k => stagedElem i fmt (cOff x + k)
    let o : OutT := ⟨packCodes fmt (es.map (·.1)),
      (List.range (blocksOf es.length)).map fun b => BitVec.ofNat 8 (es.getD (32 * b) (0, 0)).2, [], []⟩
    wrTrailing e (getLE d 0x14 4) fmt o s

/-- The chunks of a ring in the order n, n − 1, … (R115), as (first position, K, V). -/
def ringOrder (i : Inst) : List (Nat × Bytes × Bytes) :=
  let n := instN i
  (List.range n).map fun k => ringChunk i ((i.rank + n - k) % max n 1)

/-- dK or dV of the own chunk: positions by heads turned into [kv head][position][dim]. -/
def ringTensor (i : Inst) (v : Bool) : List Elem :=
  let d := i.desc
  let l := collL d
  let es := wideElems ((chunkRows i i.rank).length * (2 * l)) (tget [] i.res (instN i))
  (List.range (aHkv d)).flatMap fun h => (List.range (aKv d)).flatMap fun pos => (List.range (aDim d)).map fun x =>
    es.getD (pos * (2 * l) + (if v then l else 0) + h * aDim d + x) (Elem.zero (-128))

/-- Ring attention: what the chunks gave, in ring order, and dK and dV as they came back. -/
def commitRing (i : Inst) (p : CollPart) (e : OpEnv) (s : State) : State :=
  let d := p.desc
  let order := ringOrder i
  let s1 := afterAttn e d (order.map (·.1)) ((order.getLast?.map (·.2.2)).getD []) s
  if dKind d = 6 then attnWrite e d (attnFwd ⟨d, p.operands.getD 2 [], order⟩) s1
  else writeDkv e d (ringTensor i false) (ringTensor i true) (writeDq (ringIn i p) e s1)

/-- One part writes its destinations. A BARRIER shows its tile what others wrote before it (R108). -/
def commitPart (i : Inst) (p : CollPart) (s : State) : State :=
  let e := opEnvAt s p.tile p.mb p.desc i.ctx
  match dKind p.desc with
  | 4 => commitAg i p e s
  | 0x16 => showWrites p.tile (commitBarrier i p e s)
  | 6 => commitRing i p e s
  | 7 => commitRing i p e s
  | _ => commitRows i p e s

/-- Does the member hold its final results for every chunk and row it owns or receives (R240)? -/
def holdsResults (i : Inst) : Bool :=
  i.ready &&
  (if cCount (instExt i) = 0 then (otherRanks i).all fun r => i.firstSeen.any fun f => f.1 == r
   else if instOp i = 3 then gatheredAll i
   else if dKind i.desc = 7 then i.summed || (chunkRows i i.rank).isEmpty
   else (i.summed || (chunkRows i i.rank).isEmpty) && (dKind i.desc == 3 || gatheredAll i))

/-- Has it seen every other member's signature, equal to its own, or has close_t + T_trav passed? -/
def signaturesIn (s : State) (i : Inst) : Bool :=
  (otherRanks i).all (fun r => i.firstSeen.any fun f => f == (r, i.signature)) || decide (i.closeT + i.ttrav ≤ s.now)

def canCommit (s : State) (i : Inst) : Bool :=
  !i.committed && !i.stopped && activeCtx (ctxOf s i.ctx) && holdsResults i && signaturesIn s i

/-- COLL_COMMIT (R240): destinations are written and the ops complete; before both conditions hold nothing happens. -/
def doCollCommit (k : InstKey) (s : State) : State := match instOf s k with
  | none => s
  | some i =>
    if !canCommit s i then s
    else
      let s1 := i.parts.foldl (fun s p => keepLate p.tile s (commitPart i p s)) s
      let s2 := updInst k (fun i => { i with committed := true, queue := none, parts := [], res := [] }) s1
      closeQueue i (endParts i sOk s2)

/-! ### Messages arriving (R237) -/

def hColl (h : Bytes) : Nat := getLE h 0 4
def hStep (h : Bytes) : Nat := getLE h 4 4
def hCtx (h : Bytes) : Nat := getLE h 8 2 % 4096
def hType (h : Bytes) : Nat := getLE h 0x0A 2 % 16
def hFirst (h : Bytes) : Bool := bit (getLE h 0x0A 2) 4
def hRank (h : Bytes) : Nat := getLE h 0x0C 4 % 2 ^ 18
def hSig (h : Bytes) : Nat := getLE h 0x10 4
def hRow (h : Bytes) : Nat := getLE h 0x30 4
def hAux (h : Bytes) : Nat := getLE h 0x38 4

/-- The instance a message belongs to, opened if this member has not reached it yet: none where the context does not run
here or no loaded slot carries the collective. -/
def openFor (h : Bytes) (s : State) : Option InstKey × State :=
  let c := hCtx h
  let x := ctxOf s c
  let k : InstKey := ⟨hColl h, x.job, hStep h⟩
  if !activeCtx x then (none, s)
  else match instOf s k with
    | some _ => (some k, s)
    | none => match collSlot s (hColl h) with
      | some (_, _, (t, d) :: _) => (some k, newInst k c t d s)
      | _ => (none, s)

/-- A first message: its configuration (a mismatch excludes the sender as late), its signature, its fingerprint. -/
def firstMessage (k : InstKey) (src : Nat) (h : Bytes) (s : State) : State := match instOf s k with
  | none => s
  | some i =>
    let r := hRank h
    let bad := getLE h 0x14 4 != s.dvl.epoch || getLE h 0x18 16 != s.dvl.digest
    let s1 := updInst k (fun i => { i with
      firstSeen := if i.firstSeen.any fun f => f.1 == r then i.firstSeen else i.firstSeen ++ [(r, hSig h)]
      late := if bad && !i.late.contains r then i.late ++ [r] else i.late }) s
    let f := getLE h 0x28 8
    let s2 := match fpFor s i with
      | some l => if f != 0 && f != l.f then send src (.fpListReq k.job l.stage l.step) s1 else s1
      | none => s1
    if hSig h = i.signature || i.stopped || i.committed then s2
    else if s.now < i.closeT && !i.closed then mismatchFound k r (hSig h) s2
    else
      let s3 := setLedger i.ctx k.coll k.step r i.rank 3 1 s2
      mismatchEvent i i.signature (hSig h) i.rank r s3

/-- Discard a message whose rank is not its sender's (R237). -/
def badRank (src : Nat) (s : State) : State :=
  logEntry { code := 0x0B82, detail := [(1, 4), (1, 0), (4, src)] }
    { s with glu := { s.glu with mismatchCnt := satInc s.glu.mismatchCnt } }

/-- A message of an instance: header check, sender check, first-message checks, then its effect. -/
def collMsg (m : MsgHdr) (hdr : Bytes) (body : InstKey → Inst → State → State) (s : State) : State := once m (fun s =>
  let h := slice hdr 0 64
  if crc32c (slice h 0 0x3C) != getLE h 0x3C 4 then s
  else match openFor h s with
    | (none, s1) => s1
    | (some k, s1) => match instOf s1 k with
      | none => s1
      | some i =>
        if i.members[hRank h]? != some m.src then badRank m.src s1
        else
          let s2 := if hFirst h then firstMessage k m.src h s1 else s1
          match instOf s2 k with
          | some j => if j.stopped then s2 else body k j s2
          | none => s2) s

/-- The owner whose chunk starts at or holds a row. -/
def ownerOfRow (i : Inst) (r : Nat) : Nat :=
  ((List.range (instN i)).find? fun j => (chunkRows i j).contains r).getD 0

/-- COLL_DATA (R246): a contribution to the own chunk, or a gathered chunk. A contribution whose signature is not the
instance's is discarded. -/
def doCollData (m : MsgHdr) (hdr payload : Bytes) (s : State) : State :=
  collMsg m hdr (fun k i s =>
    let h := slice hdr 0 64
    let j := ownerOfRow i (hRow h)
    if payload.isEmpty || hSig h != i.signature then s
    else if reduces i && (dKind i.desc != 7 || (j == i.rank && gatheredAll i)) then contribAt k (hRank h) payload s
    else chunkArrived k j payload s) s

def anchorBytes (b : Bytes) : List Int := b.map fun x => signed 8 x.toNat

def doAnchorPropose (m : MsgHdr) (hdr payload : Bytes) (s : State) : State :=
  collMsg m hdr (fun k _ s => proposalAt k (hRank (slice hdr 0 64)) (anchorBytes payload) s) s

def doAnchorAgree (m : MsgHdr) (hdr payload : Bytes) (s : State) : State :=
  collMsg m hdr (fun k _ s => agreedAt k (hRank (slice hdr 0 64)) (anchorBytes payload) s) s

def doCollResult (m : MsgHdr) (hdr payload : Bytes) (s : State) : State :=
  collMsg m hdr (fun k _ s => chunkArrived k (hRank (slice hdr 0 64)) payload s) s

/-- COLL_ABORT (R242): the first one stops the instance and goes on to the next rank; a committed instance absorbs it. -/
def doCollAbort (m : MsgHdr) (hdr : Bytes) (s : State) : State :=
  collMsg m hdr (fun k i s =>
    let h := slice hdr 0 64
    if i.committed then s
    else
      let s1 := collSend k ((i.rank + 1) % max (instN i) 1) 5 (hSig h) 0 [] (hAux h) s
      mismatchEvent i (hAux h) (hSig h) i.rank (hRank h) (stopInst k s1)) s

/-- COLL_CREDIT (R239): a page credit returns. -/
def doCollCredit (m : MsgHdr) (hdr : Bytes) (s : State) : State :=
  collMsg m hdr (fun _ _ s => { s with glu := { s.glu with credits := tupd 0 s.glu.credits m.src (· - 1) } }) s

/-- ANCHOR_DEADLINE (R238): anchors are agreed from the proposals present; a member that waits for everyone waits for
every proposal too (R246, R248; log entry 52). -/
def doAnchorDeadline (k : InstKey) (s : State) : State := match instOf s k with
  | none => s
  | some i =>
    let s1 := advance i.anchorT s
    if i.stopped || !isWideSum i || (chunkRows i i.rank).isEmpty then s1
    else
      let forced := forcedLate s i
      let missing := (List.range (instN i)).filter fun r => !(i.proposals.any fun p => p.1 == r) && !forced.contains r
      if waitsAll s i && !missing.isEmpty then s1 else tryReduce k (agree k s1)

/-- CLOSE_T (R246, R247): the owner completes an absorbing sum and writes a ledger record for each late rank; a full
ledger makes it wait instead. -/
def doCloseT (k : InstKey) (s : State) : State := match instOf s k with
  | none => s
  | some i =>
    let s1 := advance i.closeT s
    if i.closed || i.stopped then s1
    else if !absorbs i || (chunkRows i i.rank).isEmpty then updInst k (fun i => { i with closed := true }) s1
    else
      let x := ctxOf s i.ctx
      let natural := (List.range (instN i)).filter fun r => !i.order.contains r || i.late.contains r
      let lates := if isReplay x then forcedLate s i else if waitsAll s i then [] else natural
      if maxLedger < x.ledger.length + lates.length then
        let s2 := updInst k (fun i => { i with late := [] }) s1
        if x.ledgerFull then s2
        else raiseCtx 0x0503 8 i.ctx [(4, x.ledger.length)] (setCtx i.ctx (fun x => { x with ledgerFull := true }) s2)
      else
        let recs := lates.map fun r => [k.coll, k.step, r, latePolicy s i r, 0, i.rank]
        let s2 := setCtx i.ctx (fun x => { x with ledger := x.ledger ++ recs })
          { s1 with glu := { s1.glu with lateCnt := satInc s1.glu.lateCnt lates.length } }
        let s3 := updInst k (fun i => { i with
          closed := true, late := i.late ++ lates.filter fun r => !i.late.contains r }) s2
        let s4 := match i.queue with
          | some q => { s3 with glu := { s3.glu with
              queues := tupd ⟨k, i.ctx, true⟩ s3.glu.queues q fun g => { g with closed := true } } }
          | none => s3
        tryReduce k s4

/-! ### GLU.QUERY (R251) -/

def doGluQuery (src : Src) (p : Bytes) (s : State) : State :=
  start ⟨src, 0x0501, .gluQuery src p, false, [(4, 44)], p⟩ (fun s =>
    match ctxOfJob s (getLE p 0 4) with
    | none => complete src sJobUnknown [] s
    | some c => match cmdCtx s src c with
      | none => complete src sJobUnknown [] s
      | some x => complete src sOk [x.deferrals % 2 ^ 32, x.drops % 2 ^ 32, x.mismatches % 2 ^ 32] s) s

/-! ### Ops -/

/-- An op that carries a collective joins its instance; without a ring, an attention op runs by itself. -/
def doCollOp (r : OpRun) (d : Bytes) (s : State) : State := runOpWith false r d (joinColl d) s

def doGemmRs (r : OpRun) (d : Bytes) (s : State) : State := doCollOp r d s
def doAgGemm (r : OpRun) (d : Bytes) (s : State) : State := doCollOp r d s
def doGemmAr (r : OpRun) (d : Bytes) (s : State) : State := doCollOp r d s
def doBarrier (r : OpRun) (d : Bytes) (s : State) : State := doCollOp r d s
def doAttnFwd (r : OpRun) (d : Bytes) (s : State) : State :=
  if attnRing d then doCollOp r d s else runOp r d (attnFwdBody d) s
def doAttnBwd (r : OpRun) (d : Bytes) (s : State) : State :=
  if attnRing d then doCollOp r d s else runOp r d (attnBwdBody d) s

/-! ### Rows of the table -/

def execGemmRs (r : OpRun) (d : Bytes) (s : State) : Host.Outcome State Fault Refusal := .next (settle s (doGemmRs r d s))

def execAgGemm (r : OpRun) (d : Bytes) (s : State) : Host.Outcome State Fault Refusal := .next (settle s (doAgGemm r d s))

def execGemmAr (r : OpRun) (d : Bytes) (s : State) : Host.Outcome State Fault Refusal := .next (settle s (doGemmAr r d s))

def execBarrier (r : OpRun) (d : Bytes) (s : State) : Host.Outcome State Fault Refusal := .next (settle s (doBarrier r d s))

def execAttnFwd (r : OpRun) (d : Bytes) (s : State) : Host.Outcome State Fault Refusal := .next (settle s (doAttnFwd r d s))

def execAttnBwd (r : OpRun) (d : Bytes) (s : State) : Host.Outcome State Fault Refusal := .next (settle s (doAttnBwd r d s))

def execCollData (h : MsgHdr) (hdr payload : Bytes) (s : State) : Host.Outcome State Fault Refusal :=
  .next (settle s (doCollData h hdr payload s))

def execAnchorPropose (h : MsgHdr) (hdr payload : Bytes) (s : State) : Host.Outcome State Fault Refusal :=
  .next (settle s (doAnchorPropose h hdr payload s))

def execAnchorAgree (h : MsgHdr) (hdr payload : Bytes) (s : State) : Host.Outcome State Fault Refusal :=
  .next (settle s (doAnchorAgree h hdr payload s))

def execCollResult (h : MsgHdr) (hdr payload : Bytes) (s : State) : Host.Outcome State Fault Refusal :=
  .next (settle s (doCollResult h hdr payload s))

def execCollAbort (h : MsgHdr) (hdr : Bytes) (s : State) : Host.Outcome State Fault Refusal :=
  .next (settle s (doCollAbort h hdr s))

def execCollCredit (h : MsgHdr) (hdr : Bytes) (s : State) : Host.Outcome State Fault Refusal :=
  .next (settle s (doCollCredit h hdr s))

def execAnchorDeadline (k : InstKey) (s : State) : Host.Outcome State Fault Refusal := .next (settle s (doAnchorDeadline k s))

def execCloseT (k : InstKey) (s : State) : Host.Outcome State Fault Refusal := .next (settle s (doCloseT k s))

def execCollCommit (k : InstKey) (s : State) : Host.Outcome State Fault Refusal := .next (settle s (doCollCommit k s))

def execGluQuery (src : Src) (p : Bytes) (s : State) : Host.Outcome State Fault Refusal := .next (settle s (doGluQuery src p s))

end Sys2Proof.Machine
end

