-- ==== Sys2Proof/Machine/JigLoad.lean ====
section
/-! DEFINITION. JIG.LOAD: the checks of R208 in their order, with the offset of the failing field, and the commands
JIG.DISCARD and JIG.QUERY (R223). -/

namespace Sys2Proof.Machine

/-- One check of an image: whether it holds, the status when it does not, and the offset of its field. -/
structure Chk where
  ok : Bool
  status : Nat
  off : Nat
  deriving DecidableEq, Repr

/-- The first failure. -/
def firstBad (cs : List Chk) : Option (Nat × Nat) := (cs.find? fun c => !c.ok).map fun c => (c.status, c.off)

/-- A check of a field, S_BAD_FIELD on failure. -/
def fieldChk (off : Nat) (ok : Bool) : Chk := ⟨ok, sBadField, off⟩

/-- A number within a range. -/
def within (a b v : Nat) : Bool := decide (a ≤ v) && decide (v ≤ b)

/-! ### Orders 1-3: header and tables (R197-R199) -/

def imageChks (b : Bytes) (size : Nat) : List Chk :=
  [⟨getLE b 0 4 == 0x474A_5855, 0x0201, 0⟩, ⟨getLE b 4 2 == 3, 0x0201, 4⟩,
   ⟨within 64 size (imgLen b), 0x0201, 0x38⟩,
   ⟨getLE b 0x3C 4 == crc32c (setLE (b.take (imgLen b)) 0x3C 4 0), 0x0201, 0x3C⟩]

def headerChks (b : Bytes) : List Chk :=
  [fieldChk 0x06 (decide (imgEntries b ≤ 4096)), fieldChk 0x08 (decide (imgPos b ≤ 3)), fieldChk 0x09 (within 1 15 (imgPhases b)),
   fieldChk 0x0A (decide (1 ≤ imgFrames b)), fieldChk 0x0C (within 100000 100000000 (imgFrameLen b)),
   fieldChk 0x10 (within 16 64 (imgFloor b)), fieldChk 0x11 (within 20 500 (imgGuardPm b)),
   fieldChk 0x12 (within 1 50 (imgGracePct b)), fieldChk 0x13 (within 25 100 (imgCurFloor b)),
   fieldChk 0x14 (within 5 200 (imgKeepThr b)), fieldChk 0x16 (decide (imgWindow b ≤ 64)),
   fieldChk 0x17 (within 1 8 (imgPartitions b)),
   fieldChk 0x18 (within 4 1024 (imgLookahead b)), fieldChk 0x1A (decide (imgNPipe b ≤ 8)),
   fieldChk 0x1B (decide (imgNStage b ≤ 8) && decide (imgNStage b ≤ imgPartitions b)), fieldChk 0x1C (within 1 256 (imgNTset b)), fieldChk 0x1E (zeroAt b [(0x1E, 2)]),
   fieldChk 0x20 (imgProgOff b % 64 == 0 && decide (entryOff b (imgEntries b) ≤ imgProgOff b)),
   fieldChk 0x24 (decide (imgProgOff b + imgProgLen b ≤ imgLen b)), fieldChk 0x28 (zeroAt b [(0x28, 16)])]

def pipeChks (b : Bytes) (i : Nat) : List Chk :=
  let o := pipeOff i
  if i < imgNPipe b then [fieldChk (o + 1) (zeroAt b [(o + 1, 1)])] else [fieldChk o (zeroAt b [(o, 16)])]

def stageChks (b : Bytes) (i : Nat) : List Chk :=
  let o := stageOff i
  if i < imgNStage b then
    [fieldChk o (decide (getLE b o 2 < 4096)), fieldChk (o + 3) (decide (getLE b (o + 3) 1 ≤ 7)),
     fieldChk (o + 0x0C) (decide (1 ≤ getLE b (o + 0x0C) 1)), fieldChk (o + 0x0F) (decide (getLE b (o + 0x0F) 1 < 4)),
     fieldChk (o + 0x10) (zeroAt b [(o + 0x10, 16)])]
  else [fieldChk o (zeroAt b [(o, 32)])]

def tableChks (b : Bytes) : List Chk :=
  (List.range 8).flatMap (pipeChks b) ++ (List.range 8).flatMap (stageChks b) ++
    (List.range (imgNTset b)).map fun i => fieldChk (tsetOff i) (getLE b (tsetOff i) 32 != 0)

/-- Order 3: what the images of one bank share, as (offset, size) of the header and the two tables. -/
def sharedFields : List (Nat × Nat) :=
  [(0x0C, 4), (0x10, 1), (0x11, 1), (0x12, 1), (0x13, 1), (0x14, 2), (0x16, 1), (0x17, 1), (0x18, 2)] ++
    (List.range 0x180).map fun i => (0x40 + i, 1)

def bankChks (bank : Tab Bytes) (b : Bytes) : List Chk :=
  (match bankImages bank with
    | [] => []
    | i :: _ => sharedFields.map fun f => ⟨getLE i f.1 f.2 == getLE b f.1 f.2, 0x0204, f.1⟩) ++
  [⟨!thas bank (imgPos b), 0x0204, 0x08⟩,
   ⟨(bankImages bank).all fun i => imgPhases i &&& imgPhases b == 0, 0x0204, 0x09⟩]

/-! ### Orders 4 and 5: entries (R200) -/

/-- Policies that a list of entries gives a tenant row. -/
def rowPolicyOk (es : List Bytes) (e : Bytes) : Bool :=
  es.all fun x => entRow x != entRow e || entPolicy x == entPolicy e

def entryChks (bank : Tab Bytes) (b : Bytes) (i : Nat) : List Chk :=
  let e := imgEntry b i
  let o := entryOff b i
  let prev := imgEntry b (i - 1)
  let seen := (bankImages bank).flatMap imgEntryList ++ (List.range i).map (imgEntry b)
  let dirLen := (4 * (tsetTiles b (entTset e)).length + 63) / 64 * 64
  let owners := (imgPipes b).filter fun p => p.rows.contains (entRow e)
  [fieldChk (o + 0x1E) (getLE e 0x1E 2 == crc32c (setLE e 0x1E 2 0) % 65536),
   fieldChk o (decide (entStart e + 250 ≤ imgFrameLen b) && (i == 0 || decide (entStart prev < entStart e) ||
     (entStart prev == entStart e && decide (entTset prev ≤ entTset e)))),
   fieldChk (o + 4) (getLE e 4 4 == entDur e && within 250 1000000 (entDur e) && decide (entStart e + entDur e ≤ imgFrameLen b)),
   fieldChk (o + 0x0C) (decide (entTset e < imgNTset b)),
   fieldChk (o + 8) (entProg e % 64 == 0 && decide (entProg e + dirLen ≤ imgProgLen b)),
   fieldChk (o + 0x0D) (decide (getLE e 0x0D 1 ≤ 64) && (entRow e == 0 || owners.length == 1)),
   fieldChk (o + 0x0E) (decide (getLE e 0x0E 1 < 3) && (entRow e != 0 || entPolicy e == 0) &&
     (entRow e == 0 || rowPolicyOk seen e)),
   fieldChk (o + 0x0F) (within 1 64 (entMb e)), fieldChk (o + 0x12) (decide (getLE e 0x12 1 < 8)),
   fieldChk (o + 0x13) (decide (getLE e 0x13 1 < 4) && bit (imgPhases b) (entPhase e)),
   fieldChk (o + 0x14) (bit (getLE e 0x12 1) 2 || zeroAt e [(0x14, 4)]), fieldChk (o + 0x1C) (zeroAt e [(0x1C, 2)])]

/-- Order 5: a slot's tiles are free of every earlier slot that has not ended when it starts. -/
def overlapChk (b : Bytes) (i : Nat) : Chk :=
  let e := imgEntry b i
  fieldChk (entryOff b i + 0x0C) ((List.range i).all fun k =>
    let x := imgEntry b k
    decide (entStart x + entDur x ≤ entStart e) ||
      (getLE b (tsetOff (entTset x)) 32 &&& getLE b (tsetOff (entTset e)) 32) == 0)

/-! ### Order 6: programs and descriptors -/

/-- The ops of a program with the offsets of their records in the image. -/
def placedOps (off : Nat) : List Bytes → List (Nat × Bytes)
  | [] => []
  | d :: r => (off, d) :: placedOps (off + opBytes d) r

/-- The RECV before op k of a program (R153). -/
def recvBefore (ops : List Bytes) (k : Nat) : Option Bytes := (ops.take k).reverse.find? fun d => dKind d == 0x12

/-- Static offsets of spaces 0x1 and 0x4 lie in the areas of the RECV before the op (R153). -/
def blockOpndOk (rv : Option Bytes) (o : Opnd) : Bool :=
  let off := o.field % 2 ^ 28
  match o.field / 2 ^ 28, rv with
  | 1, some v => decide (off + o.len ≤ getLE v 0x18 4)
  | 4, some v => decide (getLE v 0x2C 4 ≤ off) && decide (off + o.len ≤ getLE v 0x2C 4 + getLE v 0x28 4)
  | 1, none => false
  | 4, none => false
  | _, _ => true

/-- The bytes of a slice of a tile image that a slot may read (R172): the shortest of the READY versions that the contexts
of its stage have here, cut over the tiles of the stage in this image; with none, what a tile store holds. -/
def sliceLimit (s : State) (b e : Bytes) : Nat :=
  let st := entStage b e
  let tiles := ((imgEntryList b).flatMap fun x => if entStage b x = st then tsetTiles b (entTset x) else []).eraseDups
  let pipe := ((imgStages b).find? fun r => r.stage == st).map (·.pipeline)
  let sizes := s.vnr.ctxs.flatMap fun c => if some c.2.pipeline = pipe then (versAt c.2 st).filterMap fun v =>
      if v.state = 2 then (verObject v 0).map fun h => objSize s h / max tiles.length 1 else none
    else []
  sizes.foldl min (2 ^ 22)

/-- What R96, R153, R172 and R208 ask of an op beyond its own fields: its entry, the RECV before it, the slices. -/
def placeOk (slice : Nat) (e : Bytes) (rv : Option Bytes) (d : Bytes) : Bool :=
  (opnds d).all (fun o => o.field / 2 ^ 28 != 3 || decide (o.field % 2 ^ 28 + o.len ≤ slice)) &&
  (if dKind d = 0x12 then
    decide (getLE d 0x11 1 ≤ entMb e) && (!(dRow d && !bit (getLE d 0x12 1) 0) || entPolicy e == 2)
   else (opnds d).all (blockOpndOk rv)) &&
  (!isSend d || rv.isSome) &&
  (dKind d != 0x11 || decide (getLE d 0x18 4 ≤ ((rv.map fun v => getLE v 0x28 4).getD 0))) &&
  (!(dKind d == 1 || dKind d == 2) || decide ((getLE d 0x3A 2 + getLE d 0x3C 2) * 16 ≤ entDur e))

/-- The checks of a tile's program: its place in the program area, each record's check field, position and fields, and
the sum of its budgets (R104, R106, R201). A descriptor that fails on its fields names its record (log entry 53). -/
def programChks (s : State) (b e : Bytes) (tile : Nat) : List Chk := match progWord b e tile with
  | none => []
  | some w =>
    let ops := progOps b e tile
    let total := (ops.map opBytes).foldl (· + ·) 0
    let ended := (ops.getLast?.map dLast).getD false
    let base := imgProgOff b + w
    fieldChk (imgProgOff b + entProg e) (w % 64 == 0 && ended && decide (w + total ≤ imgProgLen b)) ::
    ((placedOps base ops).mapIdx fun k x =>
      [fieldChk (x.1 + 0x0E) (checksOk x.2), fieldChk (x.1 + 0x0C) (dSeq x.2 == (x.1 - base) / 64),
       fieldChk x.1 (descOk x.2 (imgWindow b * mib) && placeOk (sliceLimit s b e) e (recvBefore ops k) x.2)]).flatten ++
    [fieldChk (base + 8) (decide ((ops.map dBudget).foldl (· + ·) 0 ≤ entWork b e))]

/-- The fields in which the members of a take group agree (R150). -/
def takeKey (d : Bytes) : List Nat := [getLE d 0x11 1, getLE d 0x12 1, getLE d 0x34 2, getLE d 2 2]

/-- All elements of a list give the same key. -/
def allSame {α β : Type} [BEq β] (key : α → β) : List α → Bool
  | [] => true
  | x :: r => r.all fun y => key y == key x

/-- Take and send groups of a slot (R150). -/
def groupsOk (ops : List (Nat × Bytes)) : Bool :=
  let takes := (ops.map (·.2)).filter fun d => dKind d == 0x12
  let sends := (ops.map (·.2)).filter isSend
  takes.all (fun d => (takes.filter fun x => getLE x 0x10 1 == getLE d 0x10 1).all fun x => takeKey x == takeKey d) &&
  sends.all fun d =>
    let g := sends.filter fun x => sendWord x % 256 == sendWord d % 256
    let total := (g.map sendEnd).foldl max 0
    allSame sendRows g && g.all fun x => dKind x != 0x11 || sendEnd x == total

/-- Split-K groups of a slot, of GEMM and GEMM_SEND ops (R97): one anchor group on one die (R95, R53). -/
def splitOk (ops : List (Nat × Bytes)) : Bool :=
  let parts := ops.filter fun x => (dKind x.2 == 1 || dKind x.2 == 2) && gGroup x.2 != 0
  parts.all fun x =>
    let g := parts.filter fun y => y.1 / 64 == x.1 / 64 && gGroup y.2 == gGroup x.2
    allSame (fun y : Nat × Bytes => [gM y.2, gN y.2, gFa y.2, gFb y.2, gFc y.2]) g &&
      decide ((g.map fun y => gK y.2).foldl (· + ·) 0 + b2n (gEpi x.2 != 0) ≤ 8388608)

/-- The extension record of a collective without the fields in which parts may differ (R230). -/
def partKey (d : Bytes) : Bytes :=
  let e := collExt d
  setLE (setLE (setLE (slice e 0x10 48) 0x10 4 0) 0x14 4 0) 0x20 4 0

/-- The parts of one member: equal but for rows and gather_dst, covering every row once, with this module at its rank of
the member table (R228, R230), or in a slot of a standby stage, with the module whose stage the record stands for (R374;
log entry 81). -/
def memberOk (s : State) (b e : Bytes) (ds : List Bytes) : Bool := match ds with
  | [] => true
  | d :: _ =>
    let standby := (imgStages b).any fun r => r.stage == entStage b e && isStandby (imgStages b) r
    let e := collExt d
    let rows := ds.flatMap fun x => (List.range (cLen (collExt x))).map (· + cOff (collExt x))
    allSame (fun x => (dKind x, partKey x)) ds &&
      sortBy (fun a b : Nat => decide (a ≤ b)) rows == List.range (collH d) &&
      (cCount e != 0 || (cLen e == 0 && cOff e == 0)) &&
      decide (cTable e + 4 * cN e ≤ imgProgLen b) &&
      (List.range (cN e)).all (fun i => decide (getLE b (imgProgOff b + cTable e + 4 * i) 4 < 2 ^ 17)) &&
      (getLE b (imgProgOff b + cTable e + 4 * cRank e) 4 == s.dvl.addr || standby)

/-- Collectives of a slot, by ID, with the parts of each. -/
def slotColls (ops : List (Nat × Bytes)) : List (Nat × List Bytes) :=
  let ds := (ops.map (·.2)).filter isColl
  ((ds.map fun d => cId (collExt d)).eraseDups).map fun c => (c, ds.filter fun d => cId (collExt d) == c)

/-- Where the extension record of the first part of a collective lies in the image. -/
def collAt (b e : Bytes) (c : Nat) : Nat :=
  let placed := (tsetTiles b (entTset e)).flatMap fun t => match progWord b e t with
    | some w => placedOps (imgProgOff b + w) (progOps b e t)
    | none => []
  ((placed.find? fun x => isColl x.2 && cId (collExt x.2) == c).map fun x => x.1 + (if dKind x.2 = 7 then 128 else 64)).getD 0

/-- Collective IDs of a bank's images. -/
def bankColls (bank : Tab Bytes) : List Nat :=
  (bankImages bank).flatMap fun b => (imgEntryList b).flatMap fun e => (slotColls (slotOps b e)).map (·.1)

/-- The groups and collectives of slot i. A collective is in one entry of the bank's cycle (R228). -/
def slotChks (s : State) (bank : Tab Bytes) (b : Bytes) (i : Nat) : List Chk :=
  let e := imgEntry b i
  let o := entryOff b i
  let ops := slotOps b e
  let cs := slotColls ops
  let others := bankColls bank ++ (List.range i).flatMap fun k => (slotColls (slotOps b (imgEntry b k))).map (·.1)
  (tsetTiles b (entTset e)).flatMap (programChks s b e) ++
  [fieldChk (o + 0x10) (groupsOk ops), fieldChk (o + 8) (splitOk ops)] ++
  cs.map fun c => fieldChk (collAt b e c.1) (!others.contains c.1 && memberOk s b e c.2)

/-- Fingerprint collectives by stage (R279): every FINGERPRINT of a stage names the same one. -/
def fpColls (b : Bytes) : List (Nat × Nat) :=
  (imgEntryList b).flatMap fun e => (slotOps b e).filterMap fun m =>
    if dKind m.2 = 0x13 then some (entStage b e, getLE m.2 0x30 4) else none

def fpChk (bank : Tab Bytes) (b : Bytes) : Chk :=
  let l := (bankImages bank).flatMap fpColls ++ fpColls b
  fieldChk (imgProgOff b) (l.all fun x => l.all fun y => x.1 != y.1 || x.2 == y.2)

/-! ### Glue-up queues and pages (R239) -/

/-- A glue-up queue that a slot opens: its die, when it is open within the frame, its pages, and where the extension record
of its collective lies in the image. -/
structure GlueUse where
  die : Nat
  start : Nat
  stop : Nat
  pages : Nat
  at_ : Nat
  deriving DecidableEq, Repr

/-- Pages of a queue: 2 for arriving segments, and those of the staged result. -/
def gluePages (d : Bytes) : Nat :=
  let e := collExt d
  let rows := chunkAt (collH d) (cN e) (cRank e + 1) - chunkAt (collH d) (cN e) (cRank e)
  let bitsOf := if cNative e || cOp e != 0 then fmtBits (cType e) else 128
  2 + (rows * collL d * bitsOf + 524287) / 524288

/-- The queues an image opens each frame; one closes at the end of its slot's grace at the latest. -/
def glueUses (b : Bytes) : List GlueUse :=
  (imgEntryList b).flatMap fun e => (slotColls (slotOps b e)).filterMap fun c => match c.2 with
    | [] => none
    | d :: _ =>
      let x := collExt d
      if chunkAt (collH d) (cN x) (cRank x) < chunkAt (collH d) (cN x) (cRank x + 1) then
        some ⟨(tsetTiles b (entTset e)).headD 0 / 64, entStart e, entStart e + entDur e + entGrace b e, gluePages d, collAt b e c.1⟩
      else none

/-- The images whose frames come before a frame of image b in a cycle: b itself where its visit has several frames, and the
image of the position before. -/
def framesBefore (images : List Bytes) (b : Bytes) : List Bytes :=
  let i := (images.idxOf? b).getD 0
  (if 1 < imgFrames b || images.length ≤ 1 then [b] else []) ++
    (images[(i + images.length - 1) % max images.length 1]?).toList.filter fun x => x != b

/-- Queues and pages fit at every instant of the cycle at which one opens: with those open since earlier in the frame, and
those of the frame before that are open still. -/
def glueChks (images : List Bytes) : List Chk :=
  images.flatMap fun b => (glueUses b).flatMap fun u =>
    (([] : Bytes) :: framesBefore images b).map fun before =>
      let now := ((glueUses b).filter fun g => g.die == u.die && decide (g.start ≤ u.start) && decide (u.start < g.stop)) ++
        (if before.isEmpty then [] else (glueUses before).filter fun g => g.die == u.die && decide (u.start + imgFrameLen b < g.stop))
      ⟨decide (now.length ≤ 64) && decide (((now.map fun g => g.pages).foldl (fun (a c : Nat) => a + c) 0) ≤ 254),
        sNoResource, u.at_⟩

/-! ### Orders 7-10 -/

/-- p of a pipeline, from two of its stages here: stage s is virtual stage s div p (R136; log entry 54). -/
def pipeP (b : Bytes) (pipe : Nat) : Option Nat :=
  let rs := (imgStages b).filter fun r => r.pipeline == pipe
  match rs.find? fun r => r.vstage == 0, rs.find? fun r => r.vstage != 0 with
  | some a, some c => some ((c.stage - a.stage) / max c.vstage 1)
  | _, _ => none

/-- Micro-batches in flight at a stage after each entry of a frame, from a count (R138). -/
def flightFrame (b : Bytes) (r : StageRec) (n : Nat) : Nat × Nat :=
  (imgEntryList b).foldl (fun (acc : Nat × Nat) e =>
    let v := if (entInQ e).isSome && entInQ e == r.fwdQ then acc.1 + entMb e
      else if (entInQ e).isSome && entInQ e == r.bwdQ then acc.1 - entMb e else acc.1
    (v, max acc.2 v)) (n, n)

/-- ... over the frames of a visit, stopping when a frame leaves the count as it was, or above 64. -/
def flightVisit (b : Bytes) (r : StageRec) : Nat → Nat → Nat × Nat
  | 0, n => (n, n)
  | k + 1, n =>
    let x := flightFrame b r n
    if x.1 = n || 64 < x.2 then x else
      let y := flightVisit b r k x.1
      (y.1, max x.2 y.2)

/-- The peak over one cycle of a bank. -/
def flightPeak (images : List Bytes) (r : StageRec) : Nat :=
  (images.foldl (fun (acc : Nat × Nat) b =>
    let x := flightVisit b r (imgFrames b) acc.1
    (x.1, max acc.2 x.2)) (0, 0)).2

/-- The images of a bank with one more, in cycle order. -/
def cycleWith (bank : Tab Bytes) (b : Bytes) : List Bytes := bankImages (tset bank (imgPos b) b)

def pipelineChks (bank : Tab Bytes) (b : Bytes) : List Chk :=
  ((List.range (imgNPipe b)).map fun i =>
    let r := pipeRec b i
    fieldChk (pipeOff i + 2) (match pipeP b r.pipeline with
      | some p => p != 0 && r.m % p == 0
      | none => true)) ++
  (List.range (imgNStage b)).map fun i =>
    let r := stageRec b i
    fieldChk (stageOff i) (r.fwdQ.isNone || r.bwdQ.isNone || decide (flightPeak (cycleWith bank b) r ≤ 64))

/-- Order 8, with the room that pinned and SCRATCH objects need (R297). -/
def footprintChks (s : State) (b : Bytes) : List Chk :=
  let part := partitionBytes s (imgPartitions b)
  let held := ((liveObjs s).filter fun e => resident e.2 && (e.2.scratch || isPinned s (mkHandle e.1 e.2.gen) e.2) &&
    (match e.2.role with
      | .version _ _ | .training _ _ | .queueBuf _ => false
      | _ => true)).map fun e => gddrBytes e.2
  ((List.range (imgNStage b)).map fun i =>
    ⟨decide (footprint s (stageRec b i) ≤ part), sNoResource, stageOff i⟩) ++
  [⟨decide (held.foldl (· + ·) 0 ≤ slackOf s (some b)), sNoResource, 0x17⟩]

/-- An exact sum of fractions (numerator, denominator). -/
def sumFrac : List (Nat × Nat) → Nat × Nat
  | [] => (0, 1)
  | (a, b) :: r =>
    let x := sumFrac r
    (a * x.2 + x.1 * b, b * x.2)

def covers (b e : Bytes) (t : Nat) : Bool := decide (entStart e ≤ t) && decide (t < entStart e + entWork b e)

/-- Order 9 (R207): the sums change for the worse only where a slot starts; entries are sorted by start, so those before
it are the others that can cover that instant. -/
def bandwidthChks (b : Bytes) (i : Nat) : List Chk :=
  let e := imgEntry b i
  let now := ((imgEntryList b).take (i + 1)).filter fun x => covers b x (entStart e)
  let fab := sumFrac (now.map fun x => (entFab x * 4096, entWork b x))
  let mem := sumFrac (now.map fun x => (entMem x * 65536, entWork b x))
  [⟨decide (fab.1 ≤ 90 * fab.2), 0x0203, entryOff b i + 0x18⟩, ⟨decide (mem.1 ≤ 8192 * mem.2), 0x0203, entryOff b i + 0x1A⟩]

/-- Stretches of a frame in which no slot is in its working time, as (start, end), from entries sorted by start. -/
def gapsFrom (b : Bytes) : Nat → List Bytes → List (Nat × Nat)
  | t, [] => if t < imgFrameLen b then [(t, imgFrameLen b)] else []
  | t, e :: r =>
    let stop := entStart e + entWork b e
    (if t < entStart e then [(t, entStart e)] else []) ++ gapsFrom b (max t stop) r

/-- Join gaps that meet, as at a frame boundary. -/
def joinGaps : List (Nat × Nat) → List (Nat × Nat)
  | [] => []
  | (a, b) :: r => match joinGaps r with
    | (c, d) :: q => if b = c then (a, d) :: q else (a, b) :: (c, d) :: q
    | [] => [(a, b)]

/-- Frames of a cycle to look at: two of each image show every pair of neighbouring gaps; an image with no quiet interval
of its own is looked at over its whole visit. Each frame is (its offset, its image). -/
def sampleFrames : Nat → List Bytes → List (Nat × Bytes) × Nat
  | t, [] => ([], t)
  | t, b :: r =>
    let fl := imgFrameLen b
    let gs := gapsFrom b 0 (imgEntryList b)
    let edge : Nat := ((gs.filter fun g => g.1 == 0 || g.2 == fl).map fun g => g.2 - g.1).foldl (fun (a c : Nat) => a + c) 0
    let quiet := (gs.any fun g => decide (220 ≤ g.2 - g.1)) || (1 < imgFrames b && decide (220 ≤ edge))
    let offs := if imgFrames b ≤ 1 then [0] else if quiet then [0, fl] else [0, (imgFrames b - 1) * fl]
    let span := if imgFrames b ≤ 1 then fl else if quiet then 2 * fl else imgFrames b * fl
    let x := sampleFrames (t + span) r
    (offs.map (fun o => (t + o, b)) ++ x.1, x.2)

/-- Order 10 (R206): every stretch of 1,000 µs of the cycle holds a quiet interval of at least 220 ns. -/
def quietOk (images : List Bytes) : Bool :=
  let x := sampleFrames 0 images
  let gs := joinGaps (x.1.flatMap fun f => (gapsFrom f.2 0 (imgEntryList f.2)).map fun g => (f.1 + g.1, f.1 + g.2))
  let twice := joinGaps (gs ++ gs.map fun g => (g.1 + x.2, g.2 + x.2))
  let quiet := twice.filter fun g => decide (220 ≤ g.2 - g.1)
  !quiet.isEmpty &&
    (decide (2 * x.2 ≤ (quiet.headD (0, 0)).2) ||
      (quiet.zip (quiet.drop 1)).all fun p => decide (p.2.1 - p.1.2 + 440 ≤ 1000000)) &&
    (1 < quiet.length || decide ((quiet.headD (0, 0)).1 + x.2 - (quiet.headD (0, 0)).2 + 440 ≤ 1000000))

/-- All checks of R208 in order. An image with no entry passes those of its schedule (log entry 110). -/
def loadChks (s : State) (bank : Tab Bytes) (b : Bytes) : List (List Chk) :=
  let es := List.range (imgEntries b)
  [headerChks b, tableChks b, bankChks bank b] ++
  if es.isEmpty then []
  else
    [es.flatMap (entryChks bank b), es.map (overlapChk b), es.flatMap (slotChks s bank b),
     fpChk bank b :: glueChks (cycleWith bank b), pipelineChks bank b, footprintChks s b, es.flatMap (bandwidthChks b),
     [⟨quietOk (cycleWith bank b), 0x0202, 0⟩]]

/-- The first failure of the checks, in order: a later group is looked at only when those before it hold. -/
def loadFault (s : State) (bank : Tab Bytes) (b : Bytes) (size : Nat) : Option (Nat × Nat) :=
  match firstBad (imageChks b size) with
  | some x => some x
  | none => (loadChks s bank b).findSome? firstBad

/-! ### Loading and discarding -/

/-- Handles that the descriptors of an image name (R302). -/
def opHandles (d : Bytes) : List Nat :=
  (match dKind d with
    | 6 => [aHandle d]
    | 7 => [aHandle d]
    | 0x0C => [getLE d 0x10 8]
    | 0x0F => [getLE d 0x10 8, getLE d 0x18 8]
    | 0x10 => [getLE d 0x10 8]
    | 0x13 => [getLE d 0x10 8]
    | 0x14 => [getLE d 0x10 8]
    | _ => []).filter (· != 0)

def imageHandles (b : Bytes) : List Nat := ((imgEntryList b).flatMap fun e => (slotOps b e).flatMap fun m => opHandles m.2).eraseDups

/-- Pin the objects that an image names; one that is not resident is promoted (R302). -/
def pinImage (b : Bytes) (s : State) : State :=
  (imageHandles b).foldl (fun s h => beginPromotion h (setObj h (fun o => { o with sysPins := o.sysPins + 1 }) s)) s

def unpinImage (b : Bytes) (s : State) : State :=
  (imageHandles b).foldl (fun s h => setObj h (fun o => { o with sysPins := o.sysPins - 1 }) s) s

/-- Empty the shadow bank. -/
def discardShadow (s : State) : State := setShadow [] ((bankImages (shadowBank s)).foldl (fun s b => unpinImage b s) s)

/-- The record of a stage whose footprint exceeds its partition: stage ID and both figures (R141). The spec gives the
record no code; its number is free (log entry 55). -/
def logFootprint (st off : Nat) (b : Bytes) (s : State) : State :=
  if st = sNoResource && 0xC0 ≤ off && off < 0x1C0 then
    let r := stageRec b ((off - 0xC0) / 32)
    let f := fresh s
    logEntry { code := 0x0280 + f.1 % 128, detail := [(2, r.stage), (8, footprint s r), (8, partitionBytes s (imgPartitions b))] } f.2
  else s

def doJigLoad (src : Src) (p : Bytes) (s : State) : State :=
  start ⟨src, 0x0201, .jigLoad src p, true, [(9, 39)], p⟩ (fun s =>
    if 1 < getLE p 8 1 then complete src sBadField [] s
    else if s.jig.pend.isSome then complete src 0x0207 [] s
    else match cmdObj s src (getLE p 0 8) 1 with
      | .error st => complete src st [] s
      | .ok o =>
        let s1 := if bit (getLE p 8 1) 0 then discardShadow s else s
        let b := objRead o 0 o.size
        match loadFault s1 (shadowBank s1) b o.size with
        | some (st, off) => complete src st [0, off] (logFootprint st off b s1)
        | none =>
          let img := b.take (imgLen b)
          let s2 := setShadow (tset (shadowBank s1) (imgPos b) img) s1
          complete src sOk [imgEntries b, 0] (pinImage img (fitSlack s2))) s

def doJigDiscard (src : Src) (p : Bytes) (s : State) : State :=
  start ⟨src, 0x0203, .jigDiscard src p, true, [(0, 48)], p⟩ (fun s =>
    if s.jig.pend.isSome then complete src 0x0207 [] s else complete src sOk [] (discardShadow s)) s

def doJigQuery (src : Src) (p : Bytes) (s : State) : State :=
  start ⟨src, 0x0204, .jigQuery src p, false, [(0, 48)], p⟩ (fun s =>
    complete src sOk (jigStatus s :: words64 (if s.jig.running then bankDigest (activeBank s) else 0)) s) s

/-! ### Rows of the table -/

def execJigLoad (src : Src) (p : Bytes) (s : State) : Host.Outcome State Fault Refusal :=
  .next (settle s (doJigLoad src p s))

def execJigDiscard (src : Src) (p : Bytes) (s : State) : Host.Outcome State Fault Refusal :=
  .next (settle s (doJigDiscard src p s))

def execJigQuery (src : Src) (p : Bytes) (s : State) : Host.Outcome State Fault Refusal :=
  .next (settle s (doJigQuery src p s))

end Sys2Proof.Machine
end

