-- ==== Sys2Proof/Machine/JigRun.lean ====
section
/-! DEFINITION. The jig at run time (chapter 7): tenant rows, their plans, readiness reports and commits (R209-R217), the
deadline-risk test (R218), the bank switch (R220), and slots with their lateness (R202-R205). The frame boundary itself
is in Machine/Boundary.lean. -/

namespace Sys2Proof.Machine

/-! ### Which bank runs at a frame (R196, R220) -/

/-- The first cycle boundary, as a frame of the active bank, at or after T and after the frame that runs. -/
def switchFrame (s : State) (t : Nat) : Nat :=
  let b := activeBank s
  let need := max (s.jig.frame + 1) ((t - s.jig.ts + bankFrameLen b - 1) / max (bankFrameLen b) 1)
  let c := max (cycleFrames b) 1
  (need + c - 1) / c * c

/-- The bank in force at frame f, counted as the active bank counts frames, and its own number for that frame. -/
def bankAtFrame (s : State) (f : Nat) : Tab Bytes × Nat := match s.jig.pend with
  | some p => if switchFrame s p.t ≤ f then (if p.idle then [] else shadowBank s, f - switchFrame s p.t) else (activeBank s, f)
  | none => (activeBank s, f)

/-- The image that runs in frame f. -/
def imageOfFrame (s : State) (f : Nat) : Option Bytes :=
  let x := bankAtFrame s f
  (imageAt x.1 x.2).map (·.1)

/-- Tenant rows of a pipeline in an image, ascending, with their policy (R198, R200). -/
def pipeRows (b : Bytes) (pipe : Nat) : List (Nat × Nat) := match imgPipe b pipe with
  | none => []
  | some r =>
    let es := imgEntryList b
    (sortBy (fun a c : Nat => decide (a ≤ c)) r.rows).filterMap fun k =>
      (es.find? fun e => entRow e == k).map fun e => (k, entPolicy e)

abbrev polSticky : Nat := 1
abbrev polArrival : Nat := 2

/-! ### Eligibility and progress (R210, R212, R216) -/

/-- R210, on the module that decides: a context of the pipeline, in a phase that the image covers. -/
def eligibleIn (img : Bytes) (pipe : Nat) (x : Ctx) : Bool :=
  (x.state == .admitted || x.state == .running) && x.pipeline == pipe && bit (imgPhases img) x.phase

/-- The phases a bank covers. -/
def bankPhases (b : Tab Bytes) : Nat := (bankImages b).foldl (fun m i => m ||| imgPhases i) 0

/-- Does an image of the bank cover FWD and not BWD? Where one image interleaves them, a context goes through both as one
phase, FWD (R195). -/
def splitBwd (b : Tab Bytes) : Bool := (bankImages b).any fun i => bit (imgPhases i) 0 && !bit (imgPhases i) 1

/-- The phase after a phase (R216): after FWD, BWD where it has an image of its own; then REDUCE, or UPDATE where there is
no REDUCE image; then FWD of the next step. -/
def nextPhase (b : Tab Bytes) (p : Nat) : Nat :=
  if p = 0 && splitBwd b then 1
  else if p ≤ 1 && bit (bankPhases b) 2 then 2
  else if p ≤ 2 && bit (bankPhases b) 3 then 3 else 0

/-- The phases of a step that a context goes through in a bank, in order. -/
def stepPhases (b : Tab Bytes) : List Nat := (List.range 4).filter fun p =>
  p == 0 || (p == 1 && splitBwd b) || (1 < p && bit (bankPhases b) p)

/-- A context's share of an image's row-frames for one phase (R198): the phases that the image covers, an interleaved FWD
and BWD counted as one, share them evenly, the earlier one more where they do not divide (log entry 57). -/
def phaseShare (img : Bytes) (phase rf : Nat) : Nat :=
  let ps := (List.range 4).filter fun p => bit (imgPhases img) p && !(p == 1 && bit (imgPhases img) 0)
  match ps.idxOf? phase with
  | none => 0
  | some i =>
    let upTo (k : Nat) : Nat := (k * rf + ps.length - 1) / ps.length
    max (upTo (i + 1) - upTo i) (min rf 1)

/-- Row-frames that a context's phase needs in a bank (R198, R212). -/
def phaseNeed (b : Tab Bytes) (x : Ctx) : Nat :=
  ((bankImages b).map fun i => phaseShare i x.phase (((imgPipe i x.pipeline).map (·.rowFrames)).getD 0)).foldl (· + ·) 0

/-- Has this member done the context's work of its phase? -/
def phaseWorkDone (s : State) (x : Ctx) : Bool := decide (phaseNeed (activeBank s) x ≤ x.rowFramesIn)

/-- The code with which ROW_READY reports a phase as completed: 0 FWD, 1 BWD, 2 REDUCE, 3 UPDATE. -/
def doneAs (b : Tab Bytes) (phase : Nat) : Nat := if phase = 0 && !splitBwd b then 1 else phase

/-- The last phase a context has completed here (R212): its own once its work is done, else the one before it, across the
step's start the last of the bank. With no other phase to report, 0 stands for none (log entry 57). -/
def doneCode (s : State) (x : Ctx) : Nat :=
  let b := activeBank s
  let ps := stepPhases b
  if phaseWorkDone s x then doneAs b x.phase
  else if ps.length ≤ 1 then 0
  else doneAs b (((ps.filter fun p => decide (p < x.phase)).getLast?.orElse fun _ => ps.getLast?).getD 0)

/-- The data extents of a context's next rows (R186, R298): those of its step's micro-batches not yet posted, and once all
are posted those of the step after it. -/
def stepExtents (x : Ctx) : List Nat :=
  let n := if x.nextMb < x.mbPerStep then x.mbPerStep - x.nextMb else if x.step + 1 < x.steps then x.mbPerStep else 0
  (((manifestExt x.manifest).drop x.extent).take n).map (·.1)

/-- Objects a context needs here (R298): its own, the prefix cache that the manifest names, and the data extents of its
next step; the last two where the manifest stands, with the job's lead. -/
def neededObjs (s : State) (c : Nat) : List Nat :=
  let x := ctxOf s c
  ((liveObjs s).filterMap (fun e => if e.2.ownerCtx = some c then some (mkHandle e.1 e.2.gen) else none) ++
    (if x.prefixObj = 0 then [] else [x.prefixObj]) ++ stepExtents x).eraseDups

def bytesLeft (s : State) (hs : List Nat) : Nat :=
  (hs.map fun h => match findObj s h with
    | some o => if inFlash o then o.size else 0
    | none => 0).foldl (· + ·) 0

/-- The contexts of a pipeline that are not DONE, by deadline, ties by job: as many of them are kept resident as a stage's
limit lets (R142; log entry 109). -/
def byDeadline (s : State) (pipe : Nat) : List Nat :=
  let l := s.vnr.ctxs.filter fun e => e.2.pipeline == pipe && (activeCtx e.2 || e.2.state == .faulted)
  (sortBy (fun a b : Nat × Ctx => decide (a.2.deadline < b.2.deadline) ||
    (a.2.deadline == b.2.deadline && decide (a.2.job ≤ b.2.job))) l).map (·.1)

/-- Is a context above the resident-context limit of one of its stages? -/
def aboveLimit (s : State) (c : Nat) : Bool :=
  let p := (ctxOf s c).pipeline
  (pipeStages s p).any fun r => !((byDeadline s p).take r.resLimit).contains c

/-- Will the context's state be resident by frame f, by the engine's estimate of 256 GB/s (R212, R299)? A REPLAY context
waits for its ledger (R248); one above the limit is not resident (R142). -/
def readyFor (s : State) (c f : Nat) : Bool :=
  let x := ctxOf s c
  (!isReplay x || x.replayLoaded) && !aboveLimit s c &&
    decide (bytesLeft s (neededObjs s c) ≤ 256 * (f - s.jig.frame) * bankFrameLen (activeBank s))

/-- Promote what a context needs (R211, R303). -/
def promoteCtx (c : Nat) (s : State) : State :=
  if aboveLimit s c then s
  else (neededObjs s c).foldl (fun s h => beginPromotion h (setObj h (fun o => { o with planned := true }) s)) s

/-- At a boundary, what no context of a plan or commit to come needs is planned no more, and promotions that waited for room
are tried again (R298, R301). -/
def refreshPlanned (s : State) : State :=
  let hs := (plannedCtxs s).flatMap (neededObjs s)
  let s1 := { s with mem := { s.mem with objs := s.mem.objs.map fun e =>
    (e.1, { e.2 with planned := e.2.planned && hs.contains (mkHandle e.1 e.2.gen) }) } }
  retryPromotions 0 s1

/-- The engine takes out of GDDR7 the stage objects of contexts above the limit, and of DONE ones where the pipeline has
more contexts than it (R142), as far as R301 lets it. -/
def keepLimits (s : State) : State :=
  s.vnr.ctxs.foldl (fun s e =>
    let n := (s.vnr.ctxs.filter fun k => k.2.pipeline == e.2.pipeline && k.2.state != .free).length
    let crowded := (pipeStages s e.2.pipeline).any fun r => decide (r.resLimit < n)
    if (activeCtx e.2 && aboveLimit s e.1) || (e.2.state == .done && crowded) then
      (liveObjs s).foldl (fun s o =>
        let h := mkHandle o.1 o.2.gen
        let stageObj := match o.2.role with
          | .version _ _ | .training _ _ => true
          | _ => false
        if o.2.ownerCtx == some e.1 && stageObj && canEvict s h o.2 then beginDemotion h o.2 s else s) s
    else s) s

/-- Protect a reported context's objects until the end of frame f, and promote them (R299). -/
def protectCtx (c f : Nat) (s : State) : State :=
  let s1 := if bytesLeft s (neededObjs s c) = 0 then s
    else setCtx c (fun x => { x with readyBy := some (x.readyBy.getD f) }) s
  (neededObjs s c).foldl (fun s h => beginPromotion h (setObj h (fun o => { o with
    protectedTo := some (max f (o.protectedTo.getD 0)) }) s)) s1

/-! ### The row coordinator (R211, R213, R217) -/

/-- Modules that host a pipeline, as far as this module can tell: members of the map's groups; of this module, whether its
bank has a stage of it; of another, whether the configuration set in force lets it run a bank (R353; log entry 16). -/
def pipeHosts (s : State) (pipe : Nat) : List Nat := ((mapGroups s).flatMap (·.2)).filter fun a =>
  if a = s.dvl.addr then (hostedStages s).any fun r => r.pipeline == pipe
  else s.dvl.epoch == 0 || (bankRecord s.dvl.set a).isSome

/-- The coordinator of a pipeline: the module with the lowest address among its hosts that is not lost (R373). -/
def coordinator (s : State) (pipe : Nat) : Nat :=
  match sortBy (fun a b : Nat => decide (a ≤ b)) ((pipeHosts s pipe).filter fun a => !s.ckp.lost.contains a) with
  | a :: _ => a
  | [] => s.dvl.addr

/-- Pipelines that a bank declares. -/
def bankPipes (b : Tab Bytes) : List Nat := ((bankImages b).flatMap fun i => (imgPipes i).map (·.pipeline)).eraseDups

/-- What the coordinator knows of a context it may plan: job, deadline, function, the context's ID at each member, its
own context where it hosts one, its phase, the frame of its last move, its row-frames remaining, when it was admitted,
and whether a hold, a fault or a cancel keeps it from being selected (R210). -/
structure Cand where
  job : Nat
  deadline : Nat
  fn : Nat
  ids : List (Nat × Nat)
  own : Option Nat
  phase : Nat
  movedAt : Option Nat
  left : Nat
  since : Nat
  barred : Bool
  deriving DecidableEq, Repr

/-- A candidate of this module's own group: a context it hosts. -/
def ownCand (s : State) (c : Nat) (x : Ctx) : Cand :=
  ⟨x.job, x.deadline, x.fn, (s.dvl.addr, c) :: x.peers.map fun p => (p.2.1, p.2.2), some c, x.phase, x.movedAt, remaining x,
    x.admittedAt, !(x.state == .admitted || x.state == .running)⟩

/-- A candidate of another group: a job this module leads there, with the phase it has announced last (R216). -/
def jobCand (s : State) (j : Job) : Cand :=
  let p := s.jig.phases.find? fun p => p.1 == j.id
  ⟨j.id, j.deadline, j.fn, j.memberCtx.map fun m => (m.1, m.2.1), none, (p.map (·.2.1)).getD 0, p.map (·.2.2),
    (j.steps - j.stepsDone) * rowFramesPerStep (activeBank s) j.pipeline, j.admittedAt,
    !j.holds.isEmpty || !j.fullAt.isEmpty || j.cause != 0 || j.cancelling⟩

/-- Candidates of a group: of its own group the contexts it hosts, of another the jobs it leads there (log entry 56). -/
def candsOf (s : State) (pipe : Nat) (g : Nat × List Nat) : List Cand :=
  if g.2.contains s.dvl.addr then
    s.vnr.ctxs.filterMap fun e =>
      if e.2.pipeline = pipe && activeCtx e.2 && ofGroup s g e.2 then some (ownCand s e.1 e.2) else none
  else (ledJobs s pipe g.1).map (jobCand s)

/-- R210, at the coordinator. -/
def candEligible (img : Bytes) (c : Cand) : Bool := !c.barred && bit (imgPhases img) c.phase

/-- Tenant row-frames counted in the last frames under the keys that a test admits. -/
def usageSum (u : List (List (Nat × Nat))) (p : Nat → Bool) : Nat :=
  (u.map fun l => (l.map fun e => if p e.1 then e.2 else 0).foldl (· + ·) 0).foldl (· + ·) 0

/-- The key of a function's row-frames in a pipeline's rows of a replica group. -/
def usageKey (group pipe fn : Nat) : Nat := (group * 256 + pipe) * 64 + fn

/-- Has a function taken at least its permille of a pipeline's tenant row-frames (R217)? -/
def overShare (s : State) (pipe fn : Nat) : Bool :=
  let all := usageSum s.jig.usage fun k => k / 64 % 256 == pipe
  let own := usageSum s.jig.usage fun k => k / 64 % 256 == pipe && k % 64 == fn
  all != 0 && decide ((fnOf s fn).permille * all ≤ 1000 * own)

/-- The list of R211: by deadline, ties by job ID, functions over their share behind. -/
def candLe (s : State) (pipe : Nat) (a b : Cand) : Bool :=
  let oa := overShare s pipe a.fn
  let ob := overShare s pipe b.fn
  if oa != ob then ob
  else if a.deadline != b.deadline then decide (a.deadline < b.deadline) else decide (a.job ≤ b.job)

def candList (s : State) (pipe : Nat) (g : Nat × List Nat) (img : Bytes) : List Cand :=
  sortBy (candLe s pipe) ((candsOf s pipe g).filter (candEligible img))

/-- One primary per row, alternates dealt in turn (R211). -/
def dealRows (rows : List Nat) (l : List Nat) : List (Nat × List Nat) :=
  rows.mapIdx fun i r => (r, (List.range 4).filterMap fun j => l[j * rows.length + i]?)

/-- The ID under which a member's report names a candidate: the coordinator's own, or where it hosts none, the member's
(log entry 56). -/
def reportId (c : Cand) (a : Nat) : Option Nat := c.own.orElse fun _ => (c.ids.find? fun i => i.1 == a).map (·.2)

/-- Do the reports that a test admits show from every member that a candidate has completed its phase? -/
def allDone (s : State) (pipe : Nat) (g : List Nat) (c : Cand) (which : Nat → Bool) : Bool :=
  g.all fun a => s.jig.readies.any fun r => r.1 == a && r.2.pipeline == pipe && which r.2.frame &&
    ((reportId c a).map fun k => r.2.phaseDone.contains (k, doneAs (activeBank s) c.phase)).getD false

/-- The context a STICKY row keeps: the primary that the plan of the frame before gave it, while it has not completed its
step (log entry 59). -/
def stickyJob (s : State) (pipe : Nat) (ms : List Nat) (prev : List (Nat × List Nat)) (l : List Cand) (r : Nat) :
    Option Nat := do
  let x ← prev.find? fun x => x.1 == r
  let j ← x.2.head?
  let c ← l.find? fun c => c.job == j
  let done := match c.own with
    | some k => phaseWorkDone s (ctxOf s k)
    | none => allDone s pipe ms c fun _ => true
  if nextPhase (activeBank s) c.phase = 0 && done then none else some j

def keepSticky (s : State) (pipe : Nat) (ms : List Nat) (prev : List (Nat × List Nat)) (l : List Cand)
    (plan : List (Nat × List Nat)) (r : Nat) : List (Nat × List Nat) := match stickyJob s pipe ms prev l r with
  | none => plan
  | some j => plan.map fun x =>
      let rest := x.2.filter (· != j)
      if x.1 = r then (r, (j :: rest).take 4) else (x.1, rest)

/-- The plan of one group, contexts by job ID. -/
def planGroup (s : State) (pipe f : Nat) (g : Nat × List Nat) : List (Nat × List Nat) := match imageOfFrame s f with
  | none => []
  | some img =>
    let rows := (pipeRows img pipe).filter fun r => r.2 != polArrival
    let l := candList s pipe g img
    let plan := dealRows (rows.map (·.1)) (l.map (·.job))
    let prev := ((s.jig.groupPlans.find? fun p => p.1 == g.1 && p.2.pipeline == pipe && p.2.frame + 1 == f).map fun p => p.2.rows).getD []
    (rows.filter fun r => r.2 == polSticky).foldl (fun p r => keepSticky s pipe g.2 prev l p r.1) plan

/-- A list by job ID as a member knows it (R214). -/
def forMember (cs : List Cand) (m : Nat) (rows : List (Nat × List Nat)) : List (Nat × List Nat) :=
  rows.map fun r => (r.1, r.2.filterMap fun j =>
    (cs.find? fun c => c.job == j).bind fun c => (c.ids.find? fun i => i.1 == m).map (·.2))

/-- The place of a group among the groups of the map. -/
def groupIndex (s : State) (g : Nat) : Nat := (mapGroups s).findIdx fun x => x.1 == g

/-- A member takes a plan (R211): the primary contexts are promoted. -/
def takePlan (m : RowMsg) (s : State) : State :=
  if m.frame ≤ s.jig.frame then s
  else
    let s1 := { s with jig := { s.jig with plans := m :: s.jig.plans.filter fun p => !(p.pipeline == m.pipeline && p.frame == m.frame) } }
    (m.rows.filterMap fun r => r.2.head?).foldl (fun s c => promoteCtx c s) s1

/-- A member takes a commit; one that comes after its frame's boundary is discarded (R222). -/
def takeCommit (m : RowMsg) (s : State) : State :=
  if m.frame ≤ s.jig.frame then s
  else { s with jig := { s.jig with
    commits := m :: s.jig.commits.filter fun p => !(p.pipeline == m.pipeline && p.frame == m.frame) } }

/-- The coordinator takes a report; one that comes after the boundary of f − 2 counts as nothing ready (R212). -/
def takeReady (sender : Nat) (m : ReadyMsg) (s : State) : State :=
  if m.frame < s.jig.frame + 3 then s
  else { s with jig := { s.jig with
    readies := (sender, m) :: s.jig.readies.filter fun r =>
      !(r.1 == sender && r.2.pipeline == m.pipeline && r.2.frame == m.frame) } }

/-- Send a plan or commit to each member of a group; to itself the coordinator hands it over. -/
def sendRowMsg (plan : Bool) (cs : List Cand) (g : List Nat) (m : RowMsg) (moves : List Nat) (s : State) : State :=
  g.foldl (fun s a =>
    let x := { m with
      rows := forMember cs a m.rows
      moves := moves.filterMap fun j => (cs.find? fun c => c.job == j).bind fun c => (c.ids.find? fun i => i.1 == a).map (·.2) }
    if a = s.dvl.addr then (if plan then takePlan x s else takeCommit x s)
    else send a (if plan then .rowPlan x else .rowCommit x) s) s

/-- Draw and send the plans of a pipeline for frame f (R211). -/
def drawPlans (pipe f : Nat) (s : State) : State :=
  (mapGroups s).foldl (fun s g =>
    let m : RowMsg := ⟨pipe, f, planGroup s pipe f g, [], groupIndex s g.1, (mapGroups s).length⟩
    let s1 := { s with jig := { s.jig with groupPlans := (g.1, m) :: s.jig.groupPlans } }
    sendRowMsg true (candsOf s pipe g) g.2 m [] s1) s

/-- Is a candidate reported ready by every member for frame f? -/
def readyEverywhere (s : State) (pipe f : Nat) (g : List Nat) (c : Cand) : Bool :=
  g.all fun a => s.jig.readies.any fun r => r.1 == a && r.2.pipeline == pipe && r.2.frame == f &&
    ((reportId c a).map r.2.ready.contains).getD false

/-- Fill an empty row's list (R213): the next eligible, ready everywhere, first in no other row. -/
def fillEmpty (spare : List Nat) (l : List (Nat × List Nat)) (r : Nat) : List (Nat × List Nat) :=
  l.map fun x =>
    if x.1 = r && x.2.isEmpty then
      let firsts := l.filterMap fun y => if y.1 = r then none else y.2.head?
      (r, (spare.filter fun j => !firsts.contains j).take 4)
    else x

/-- The commit lists of one group for frame f, contexts by job ID. -/
def commitGroup (s : State) (pipe f : Nat) (g : Nat × List Nat) : List (Nat × List Nat) := match imageOfFrame s f with
  | none => []
  | some img =>
    let rows := (pipeRows img pipe).filter fun r => r.2 != polArrival
    let cs := candsOf s pipe g
    let plan := ((s.jig.groupPlans.find? fun p => p.1 == g.1 && p.2.pipeline == pipe && p.2.frame == f).map fun p => p.2.rows).getD []
    let ok (j : Nat) : Bool := (cs.find? fun c => c.job == j).elim false (readyEverywhere s pipe f g.2)
    let first := rows.map fun r => (r.1, (((plan.find? fun x => x.1 == r.1).map (·.2)).getD []).filter ok)
    let spare := ((candList s pipe g img).filter (readyEverywhere s pipe f g.2)).map (·.job)
    rows.foldl (fun l r => fillEmpty spare l r.1) first

/-- Contexts whose phase every member has reported complete move on (R216): once per completion, since reports sent
before the move still show the old phase. -/
def movesOf (s : State) (pipe f : Nat) (g : Nat × List Nat) : List Nat :=
  (candsOf s pipe g).filterMap fun c =>
    let fresh := (c.movedAt.map fun m => decide (m + 4 ≤ f)).getD true
    let queued := (c.own.map fun k => s.jig.commits.any fun m => m.pipeline == pipe && m.moves.contains k).getD false
    if fresh && !queued && allDone s pipe g.2 c (· == f) then some c.job else none

/-- The coordinator notes the phase that the jobs of another group move to. -/
def notePhases (cs : List Cand) (f : Nat) (moves : List Nat) (s : State) : State :=
  let far := cs.filter fun c => c.own.isNone && moves.contains c.job
  { s with jig := { s.jig with phases := far.foldl (fun l c =>
      (c.job, nextPhase (activeBank s) c.phase, f) :: l.filter fun p => p.1 != c.job) s.jig.phases } }

/-- Commit the rows of a pipeline for frame f, and send the commits (R213). -/
def drawCommits (pipe f : Nat) (s : State) : State :=
  (mapGroups s).foldl (fun s g =>
    let cs := candsOf s pipe g
    let m : RowMsg := ⟨pipe, f, commitGroup s pipe f g, [], groupIndex s g.1, (mapGroups s).length⟩
    let moves := movesOf s pipe f g
    let s1 := { s with jig := { s.jig with groupCommits := (g.1, m) :: s.jig.groupCommits } }
    sendRowMsg false cs g.2 m moves (notePhases cs f moves s1)) s

/-- What the coordinator of a pipeline does at the boundary of frame k: plans frame k + L, commits frame k + 2. -/
def coordinate (s : State) : State :=
  let k := s.jig.frame
  let look := ((bankImages (activeBank s)).head?.map imgLookahead).getD 0
  let mine (s : State) (f : Nat) : List Nat :=
    (bankPipes (bankAtFrame s f).1).filter fun p => coordinator s p == s.dvl.addr
  let s1 := (mine s (k + look)).foldl (fun s p => drawPlans p (k + look) s) s
  let s2 := (mine s1 (k + 2)).foldl (fun s p => drawCommits p (k + 2) s) s1
  { s2 with jig := { s2.jig with
    groupPlans := s2.jig.groupPlans.filter fun p => decide (k + 2 ≤ p.2.frame)
    groupCommits := s2.jig.groupCommits.filter fun p => decide (k ≤ p.2.frame)
    phases := s2.jig.phases.filter fun p => (jobOf s2 p.1).isSome
    readies := s2.jig.readies.filter fun r => decide (k + 2 < r.2.frame) } }

/-! ### A member at a boundary (R212, R213) -/

/-- Contexts of a pipeline here. -/
def pipeCtxs (s : State) (pipe : Nat) : List Nat :=
  s.vnr.ctxs.filterMap fun e => if e.2.pipeline = pipe && activeCtx e.2 then some e.1 else none

/-- Context IDs as the coordinator knows them: its own, or where it hosts none, this member's (log entry 56). -/
def idAt (s : State) (dst c : Nat) : Nat :=
  if dst = s.dvl.addr then c else (((ctxOf s c).peers.find? fun p => p.2.1 == dst).map (·.2.2)).getD c

/-- ROW_READY for frame f, of one pipeline. -/
def sendReady (pipe f : Nat) (s : State) : State :=
  let cs := pipeCtxs s pipe
  let ready := cs.filter fun c => readyFor s c f
  let dst := coordinator s pipe
  let m : ReadyMsg := ⟨pipe, f, ready.map (idAt s dst), cs.map fun c => (idAt s dst c, doneCode s (ctxOf s c))⟩
  let s1 := ready.foldl (fun s c => protectCtx c f s) s
  if dst = s.dvl.addr then takeReady s.dvl.addr m s1 else send dst (.rowReady m) s1

/-- The first entry of a commit list that may take the row. -/
def pickCtx (s : State) (img : Bytes) (pipe : Nat) (given l : List Nat) : Option Nat :=
  l.find? fun c => !given.contains c && eligibleIn img pipe (ctxOf s c)

/-- Give a context its row: ADMITTED becomes RUNNING (R166), and its row-frames count. -/
def giveRow (r pipe c : Nat) (s : State) : State :=
  let s1 := setCtx c (fun x => { x with
    state := if x.state == .admitted then .running else x.state, rowFramesIn := x.rowFramesIn + 1 }) s
  { s1 with jig := { s1.jig with rows := tset s1.jig.rows r ⟨some c, false, pipe⟩ } }

/-- The replica group of this module. -/
def ownGroup (s : State) : Nat := ((mapGroups s).find? fun g => g.2.contains s.dvl.addr).elim 0 (·.1)

/-- Fill the rows of a pipeline in the frame that begins: contexts given so far are listed. -/
def fillPipe (img : Bytes) (pipe : Nat) (acc : List Nat × State) : List Nat × State :=
  let s := acc.2
  let rows := pipeRows img pipe
  match s.jig.commits.find? fun m => m.pipeline == pipe && m.frame == s.jig.frame with
  | none =>
    let n := (rows.filter fun r => r.2 != polArrival).length
    let s1 := rows.foldl (fun s r => { s with jig := { s.jig with
      rows := tset s.jig.rows r.1 ⟨none, r.2 == polArrival, pipe⟩ } }) s
    let s2 := { s1 with jig := { s1.jig with idleRows := satInc s1.jig.idleRows n } }
    if n = 0 || s2.jig.noCommit then (acc.1, s2)
    else
      (acc.1, raise { code := 0x0204, detail := [(2, pipe), (4, ownGroup s2), (8, s.jig.frame)] }
        { s2 with jig := { s2.jig with noCommit := true } })
  | some m => rows.foldl (fun (acc : List Nat × State) r =>
      if r.2 = polArrival then
        (acc.1, { acc.2 with jig := { acc.2.jig with rows := tset acc.2.jig.rows r.1 ⟨none, true, pipe⟩ } })
      else match pickCtx acc.2 img pipe acc.1 (((m.rows.find? fun x => x.1 == r.1).map (·.2)).getD []) with
        | some c => (c :: acc.1, giveRow r.1 pipe c acc.2)
        | none => (acc.1, { acc.2 with jig := { acc.2.jig with rows := tset acc.2.jig.rows r.1 ⟨none, false, pipe⟩ } })) acc

/-- Fill every tenant row of the frame that begins (R213), in ascending pipeline order within the frame. -/
def fillRows (s : State) : State :=
  let s1 := { s with jig := { s.jig with rows := [], noCommit := false } }
  match runningImage s1 with
  | none => s1
  | some img =>
    let s2 := ((imgPipes img).map (·.pipeline)).foldl (fun acc p => fillPipe img p acc) (([] : List Nat), s1)
    { s2.2 with jig := { s2.2.jig with
      plans := s2.2.jig.plans.filter fun m => decide (s2.2.jig.frame < m.frame)
      commits := s2.2.jig.commits.filter fun m => decide (s2.2.jig.frame < m.frame) } }

/-- Record which functions' contexts ran the rows of the frame that ends (R217): the module's own rows, and at a
coordinator the rows it committed for other groups. -/
def noteUsage (s : State) : State :=
  let own := s.jig.rows.filterMap fun r => r.2.ctx.map fun c => usageKey (ownGroup s) r.2.pipe (ctxOf s c).fn
  let far := (s.jig.groupCommits.filter fun m => m.2.frame == s.jig.frame && m.1 != ownGroup s).flatMap fun m =>
    m.2.rows.filterMap fun r => (r.2.head?.bind (jobOf s)).map fun j => usageKey m.1 m.2.pipeline j.fn
  let u := (own ++ far).foldl (fun (u : Tab Nat) k => tupd 0 u k (· + 1)) []
  { s with jig := { s.jig with usage := (u :: s.jig.usage).take 1024 } }

/-! ### Row messages -/

def doRowPlan (h : MsgHdr) (m : RowMsg) (s : State) : State := once h (takePlan m) s
def doRowReady (h : MsgHdr) (m : ReadyMsg) (s : State) : State := once h (takeReady h.src m) s
def doRowCommit (h : MsgHdr) (m : RowMsg) (s : State) : State := once h (takeCommit m) s

/-! ### Deadline risk (R218) -/

/-- The lead takes a projected finish: EV_DEADLINE_AT_RISK when the risk becomes true, re-armed after 4 calm tests. -/
def takeFinish (job time : Nat) (risk : Bool) (s : State) : State := match jobOf s job with
  | none => s
  | some j =>
    let s1 := setJob job (fun j => { j with
      finish := some time
      risk := if risk then true else if 4 ≤ j.calmTests + 1 then false else j.risk
      calmTests := if risk then 0 else j.calmTests + 1 }) s
    if risk && !j.risk then
      raise { code := 0x0201, fn := some j.fn, ctx := ctxOfJob s job, tenant := j.tenant, job := job,
              detail := [(8, j.deadline), (8, time)] } s1
    else s1

/-- The jobs on a pipeline's rows of a group, in the order of the test. -/
def riskList (s : State) (pipe : Nat) (g : Nat × List Nat) : List Cand :=
  sortBy (fun a b : Cand => decide (a.deadline < b.deadline) || (a.deadline == b.deadline && decide (a.job ≤ b.job)))
    (candsOf s pipe g)

/-- u_eff of a group as (rows, frames): the mean over the frames run since the switch, at most 1,024; U of R184 if none. -/
def uEff (s : State) (pipe g : Nat) : Nat × Nat :=
  let u := s.jig.usage.take (min s.jig.frame 1024)
  if u.isEmpty then (rowFramesPerCycle (activeBank s) pipe, cycleFrames (activeBank s))
  else (usageSum u fun k => k / 64 == g * 256 + pipe, u.length)

/-- finish_j, and risk_j: a finish after the deadline less the larger of 60 s and a twentieth of the job's time. -/
def finishOf (s : State) (u : Nat × Nat) (cum deadline admitted : Nat) : Nat × Bool :=
  if u.1 = 0 then (2 ^ 64 - 1, true)
  else
    let num := cum * bankFrameLen (activeBank s) * u.2
    let span := deadline - admitted
    (s.now + num / u.1,
      decide ((deadline : Int) * 20 * u.1 - max (1200000000000 : Int) span * u.1 < (s.now : Int) * 20 * u.1 + 20 * num))

/-- Test one group's jobs on a pipeline, reporting each to its lead. Each group has rows of its own (R211), and its jobs
add up against those (log entry 108). -/
def riskGroup (pipe : Nat) (g : Nat × List Nat) (s : State) : State :=
  ((riskList s pipe g).foldl (fun (acc : Nat × State) x =>
    let cum := acc.1 + x.left
    let r := finishOf acc.2 (uEff acc.2 pipe g.1) cum x.deadline x.since
    (cum, if leadAt acc.2 x.job = acc.2.dvl.addr then takeFinish x.job r.1 r.2 acc.2
      else send (leadAt acc.2 x.job) (.jobCtl (.finish x.job r.1 r.2)) acc.2)) (0, s)).2

def riskPipe (pipe : Nat) (s : State) : State := (mapGroups s).foldl (fun s g => riskGroup pipe g s) s

/-- Is the test due at this boundary: every 256th, or the first after a change of a job? -/
def riskDue (s : State) : Bool := s.jig.running && (s.jig.frame % 256 == 0 || s.jig.retest)

def doDeadlineRiskTest (s : State) : State :=
  if riskDue s then
    ((bankPipes (activeBank s)).filter fun p => coordinator s p == s.dvl.addr).foldl (fun s p => riskPipe p s)
      { s with jig := { s.jig with retest := false } }
  else s

/-! ### JIG.SWITCH and the switch itself (R220) -/

/-- A pipeline as a bank declares it here: m and its (stage, virtual stage) pairs. -/
def pipeShape (b : Tab Bytes) (pipe : Nat) : Option (Nat × List (Nat × Nat)) := match bankImages b with
  | [] => none
  | i :: _ => (imgPipe i pipe).map fun r =>
      (r.m, sortBy (fun a c : Nat × Nat => decide (a.1 ≤ c.1)) ((imgStages i).filterMap fun t =>
        if t.pipeline = pipe then some (t.stage, t.vstage) else none))

/-- The checks of JIG.SWITCH: the status of the first that fails. -/
def switchFault (s : State) (t : Nat) (idle : Bool) : Option Nat :=
  let b := shadowBank s
  let n := (bankImages b).length
  let live := (s.vnr.ctxs.filter fun e => e.2.state != .free && e.2.state != .done).map fun e => e.2.pipeline
  if idle then (if s.jig.running then none else if t < s.now then some 0x0208 else none)
  else if n = 0 || !((List.range n).all (thas b)) || bankPhases b % 4 != 3 then some 0x0205
  else if !quietOk (bankImages b) then some 0x0202
  else if live.any fun p => (pipeShape b p).isNone || (!(bankImages (activeBank s)).isEmpty &&
      pipeShape b p != pipeShape (activeBank s) p) then some 0x0206
  else if !s.jig.running && decide (t < s.now) then some 0x0208
  else none

def doJigSwitch (src : Src) (p : Bytes) (s : State) : State :=
  start ⟨src, 0x0202, .jigSwitch src p, true, [(9, 39)], p⟩ (fun s =>
    let t := getLE p 0 8
    let idle := bit (getLE p 8 1) 0
    if 1 < getLE p 8 1 then complete src sBadField [] s
    else if s.jig.pend.isSome then complete src 0x0207 [] s
    else match switchFault s t idle with
      | some st => complete src st [] s
      | none => await src .jigSwitch { s with jig := { s.jig with pend := some ⟨t, idle, some src⟩ } }) s

/-- Renumber a row message from the old bank's frames to the new bank's. -/
def shiftMsg (k : Nat) (m : RowMsg) : RowMsg := { m with frame := m.frame - k }

/-- The switch takes effect at the instant `s.now` (R220): the shadow becomes active and the old active bank the shadow;
an idle switch leaves both banks as they are and none active (log entry 58). Frames count from 0. -/
def switchBank (p : JigPend) (k : Nat) (s : State) : State :=
  let later (f : Nat) : Bool := decide (k ≤ f)
  let j := s.jig
  let no := if p.idle then j.activeNo else 1 - j.activeNo
  let plans := (j.plans.filter fun m => later m.frame).map (shiftMsg k)
  let commits := (j.commits.filter fun m => later m.frame).map (shiftMsg k)
  let groupPlans := (j.groupPlans.filter fun m => later m.2.frame).map fun m => (m.1, shiftMsg k m.2)
  let readies := (j.readies.filter fun m => later m.2.frame).map fun m => (m.1, { m.2 with frame := m.2.frame - k })
  let groupCommits := (j.groupCommits.filter fun m => later m.2.frame).map fun m => (m.1, shiftMsg k m.2)
  let s1 := { s with jig := { j with
    pend := none, running := !p.idle, activeNo := no, ts := s.now, frame := 0, pos := 0, visit := 0, rows := []
    plans := plans, commits := commits, groupPlans := groupPlans, groupCommits := groupCommits, readies := readies
    phases := j.phases.map fun x => (x.1, x.2.1, 0) } }
  let redo (x : Ctx) : Ctx := { x with
    movedAt := none, readyBy := x.readyBy.map (· - k), rowFrames := if p.idle then x.rowFrames else rowFramesPerStep (activeBank s1) x.pipeline
    vers := x.vers.map fun e => if stageTiles s1 e.1 = stageTiles s e.1 then e else (e.1, e.2.map fun v => { v with copies := [] }) }
  let s2 := { s1 with vnr := { s1.vnr with ctxs := s1.vnr.ctxs.map fun e => (e.1, redo e.2) } }
  let s3 := mapObjs (fun o => { o with protectedTo := o.protectedTo.map (· - k) }) s2
  let d := if p.idle then 0 else bankDigest (activeBank s3)
  completeWaits (· == .jigSwitch) sOk (words64 s3.now)
    (raise { code := 0x0203, detail := [(1, no), (8, d % 2 ^ 64)] } s3)

/-! ### Slots (R202-R205) -/

/-- The slot of an entry as tiles meet it at its nominal start: what begins later begins it so (R203, R222). -/
def slotDue (s : State) (b : Bytes) (entry : Nat) : SlotDue :=
  let e := imgEntry b entry
  ⟨entry, frameStart s s.jig.frame + entStart e, e, entGrace b e, slotOps b e,
    if entRow e = 0 || (rowAt s (entRow e)).arrival then none else (rowAt s (entRow e)).ctx⟩

/-- A die in NAP has restarted its PLLs by the nominal start of its next program (R413). -/
def wakeDie (d : Nat) (s : State) : State := if (dieOf s d).nap then setDie d (fun x => { x with nap := false }) s else s

/-- A tile begins a program: its L1 holds nothing (R102), it sees all that was written before, a tenant row selects anew,
but for what another tile of the slot has selected (R152, R215), and its slices are in place (R172). -/
def beginProgram (t : Nat) (x : SlotDue) (s : State) : State :=
  let prog := (x.entry, x.start, x.desc)
  let sel := s.tile.tiles.findSome? fun e => if e.1 != t && e.2.prog == some prog then e.2.sel else none
  placeSlices t (setTile t (fun y => { y with
    prog := some prog, lateSeen := false, grace := x.grace, turns := [], slotOps := x.ops, rowHeld := x.row, ended := false
    take := none, sel := sel, l1 := [], unseen := [], running := none }) (wakeDie (t / 64) s))

/-- Does the module run slots now (R221)? -/
def runsSlots (s : State) : Bool := s.jig.running && !s.dvl.hold && s.pwr.state == .active && s.pwr.entering.isNone && !s.jig.paused

/-- SLOT_START: at the nominal start a free tile begins its program; a tile still running begins it later (R203). A tile
of the slot with no program in it has a gap (R201). -/
def doSlotStart (entry t : Nat) (s : State) : State :=
  if !runsSlots s then s
  else match runningImage s with
    | none => s
    | some b =>
      let x := slotDue s b entry
      if imgEntries b ≤ entry || !(tsetTiles b (entTset x.desc)).contains t then s
      else
        let s1 := advance x.start s
        if (progWord b x.desc t).isNone then (if (tileOf s1 t).prog.isNone then fillGap t s1 else s1)
        else match (tileOf s1 t).prog with
          | none => beginProgram t x s1
          | some _ => setTile t (fun y => { y with next := y.next ++ [x] }) s1

/-- DEFERRED_SLOT_START: the earlier program has completed. A module that runs no slots starts none (R221); what waits goes
on waiting, since no work is dropped (R203). -/
def doDeferredSlotStart (t : Nat) (s : State) : State := match (tileOf s t).prog, (tileOf s t).next with
  | none, x :: r => if runsSlots s then beginProgram t x (setTile t (fun y => { y with next := r }) s) else s
  | _, _ => s

/-- PROGRAM_LATE (R204): counted once per program, at nominal start + duration + grace; a SEND late for want of a credit
raises EV_MQ_CREDIT_STALL (R155). -/
def doProgramLate (t lateness : Nat) (creditWait : Bool) (s : State) : State := match (tileOf s t).prog with
  | none => s
  | some (n, start, e) =>
    if (tileOf s t).lateSeen then s
    else
      let s1 := setTile t (fun y => { y with lateSeen := true }) (advance (start + entDur e + (tileOf s t).grace) s)
      let s2 := { s1 with jig := { s1.jig with
        lateCnt := satInc s1.jig.lateCnt, late := true, latest := (n, t, lateness) } }
      if creditWait then
        raise { code := 0x0303, source := tileSource t } { s2 with mq := { s2.mq with stallCnt := satInc s2.mq.stallCnt } }
      else s2

/-- The frame's lateness joins the last 64, and EV_THROTTLE_LATE is judged (R204). -/
def throttleWindow (s : State) : State :=
  let h := (s.jig.late :: s.jig.lateHist).take 64
  let armed := s.jig.throttleArmed || (h.length == 64 && h.all (!·))
  let s1 := { s with jig := { s.jig with late := false, lateHist := h, throttleArmed := armed } }
  if armed && decide (16 ≤ (h.filter id).length) then
    let x := s.jig.latest
    let clk := (dieOf s (x.2.1 / 64)).clock
    raise { code := 0x0202, source := tileSource x.2.1, detail := [(2, x.1), (1, x.2.1), (4, x.2.2), (1, clk)] }
      { s1 with jig := { s1.jig with throttleArmed := false } }
  else s1

/-- Quiet stretches of the frame that runs and the next, counted from this frame's boundary. -/
def quietNow (s : State) (b : Bytes) : List (Nat × Nat) :=
  let next := (imageOfFrame s (s.jig.frame + 1)).getD b
  joinGaps (gapsFrom b 0 (imgEntryList b) ++ (gapsFrom next 0 (imgEntryList next)).map fun g =>
    (g.1 + imgFrameLen b, g.2 + imgFrameLen b))

/-- Do 200 ns from now lie in a quiet interval, with 20 ns after them for the jitter of the next start? Where no slot
runs, every instant is quiet. -/
def quietHere (s : State) : Bool := match runningImage s with
  | none => true
  | some b =>
    let o := s.now - frameStart s s.jig.frame
    !runsSlots s || (quietNow s b).any fun g => decide (g.1 ≤ o) && decide (o + 220 ≤ g.2)

/-- Has a program overrun its working time? -/
def overruns (s : State) : Bool := s.tile.tiles.any fun e => match e.2.prog, runningImage s with
  | some (_, start, d), some b => decide (start + entWork b d ≤ s.now)
  | _, _ => false

/-- CAL_WINDOW (R206): all channels calibrate for 200 ns, in a quiet interval; nothing else happens meanwhile. A program
that overran into the interval puts the windows off to the next one. -/
def doCalWindow (s : State) : State :=
  if !quietHere s || overruns s then s
  else
    let s1 := advance (s.now + 200) s
    { s1 with mem := { s1.mem with nextCal := s.now + s.pwr.plan.calPeriodMs * 1000000 } }

/-! ### Rows of the table -/

def execJigSwitch (src : Src) (p : Bytes) (s : State) : Host.Outcome State Fault Refusal :=
  .next (settle s (doJigSwitch src p s))

def execRowPlan (h : MsgHdr) (m : RowMsg) (s : State) : Host.Outcome State Fault Refusal := .next (settle s (doRowPlan h m s))

def execRowReady (h : MsgHdr) (m : ReadyMsg) (s : State) : Host.Outcome State Fault Refusal :=
  .next (settle s (doRowReady h m s))

def execRowCommit (h : MsgHdr) (m : RowMsg) (s : State) : Host.Outcome State Fault Refusal :=
  .next (settle s (doRowCommit h m s))

def execDeadlineRiskTest (s : State) : Host.Outcome State Fault Refusal := .next (settle s (doDeadlineRiskTest s))

def execSlotStart (entry : Nat) (tile : Fin 256) (s : State) : Host.Outcome State Fault Refusal :=
  .next (settle s (doSlotStart entry tile.val s))

def execDeferredSlotStart (tile : Fin 256) (s : State) : Host.Outcome State Fault Refusal :=
  .next (settle s (doDeferredSlotStart tile.val s))

def execProgramLate (tile : Fin 256) (lateness : Nat) (creditWait : Bool) (s : State) : Host.Outcome State Fault Refusal :=
  .next (settle s (doProgramLate tile.val lateness creditWait s))

def execCalWindow (s : State) : Host.Outcome State Fault Refusal := .next (settle s (doCalWindow s))

end Sys2Proof.Machine
end

