-- ==== Sys2Proof/Machine/Reset.lean ====
section
/-! DEFINITION. What survives a module reset, a DEEP state and a loss of power (R190, R318, R401, R410, R430), the
persistent summary (R437), and the commands and events of a firmware change (R402). -/

namespace Sys2Proof.Machine

/-! ### The persistent summary (R437) -/

/-- Hours in ACTIVE are counted up to now. -/
def countActive (s : State) : State :=
  let ns := if s.pwr.state == .active then s.now - s.pwr.activeFrom else 0
  { s with
    pwr := { s.pwr with activeFrom := s.now }
    dbg := { s.dbg with live := { s.dbg.live with activeNs := s.dbg.live.activeNs + ns } } }

/-- The summary is written as record type 0x0005, to the bank that does not hold the valid copy (R316). -/
def writeSummary (s : State) : State :=
  let s0 := countActive s
  let s1 := writeRecord 0x0005 (summaryBytes s0.dbg.live) s0
  { s1 with dbg := { s1.dbg with
    saved := s1.dbg.live, summaryDue := false, summarySeq := recSeq s1 0x0005, lastSummary := s1.now } }

/-! ### Objects after a loss of GDDR7 (R318) -/

/-- A PERSISTENT object returns in FLASH with its durable content, under its handle, with owner, home and grants; every
pin ends. A SCRATCH object and its handle are gone. -/
def lostObj (keepCtx : Bool) (o : Obj) : Obj :=
  if !o.live || o.scratch then { Obj.free with gen := o.gen }
  else { o with
    state := .flash, mem := o.durable, dirty := false, lostLines := []
    poisoned := if inFlash o then o.poisoned else o.lostLines
    pinRefs := 0, sysPins := 0, protectedTo := none
    planned := false, oldGrants := [], access := 0, lastAccess := 0
    ownerCtx := if keepCtx then o.ownerCtx else none
    role := match o.role with
      | .catalogue j => .catalogue j
      | .result j => if keepCtx then .result j else .plain
      | r => if keepCtx then r else .plain }

/-- The memory tiers after GDDR7 has lost its contents; the block map, the record banks and the failed dies stay. -/
def lostMem (keepCtx : Bool) (m : MemSt) : MemSt :=
  { State.reset.mem with
    objs := m.objs.map fun e => (e.1, lostObj keepCtx e.2)
    gddrSyms := m.gddrSyms, flashFailed := m.flashFailed, rebuilding := m.rebuilding, maxRetry := m.maxRetry
    blocks := m.blocks, wearRaised := m.wearRaised, spareRaised := m.spareRaised, spareLostGiB := m.spareLostGiB
    records := m.records, journalSeq := m.journalSeq, lastMapWrite := m.lastMapWrite }

/-- Retained captures that stand in the local checkpoint record (R371); parts held for others are lost with GDDR7. -/
def lostCkp (c : CkpSt) : CkpSt :=
  { State.reset.ckp with
    localSeq := c.localSeq
    retained := c.retained.filter (·.inRecord) }

/-! ### Module reset (R401) -/

/-- Abort every outstanding command but the MODULE.RESET itself, which completes with S_OK, and write every completion
whose ring and link allow it. -/
def abortAll (by_ : Option Src) (s : State) : State :=
  let kept (o : Outst) : Bool := match by_ with
    | some k => o.src.issuer == k.issuer && o.src.tag == k.tag
    | none => false
  let hit := s.host.outst.filter fun o => !kept o && o.wait != .done
  let s1 := hit.foldl (fun s o => complete o.src sAborted [] (logAborted o 0 s)) s
  let s2 := match by_ with
    | some k => complete k sOk [] s1
    | none => s1
  allFns.foldl (fun s f => ((fnOf s f).pairs.map (·.1)).foldl (fun s p => writeHeld f p s) s) s2

/-- A protective entry outlives a module reset, which does not reset the always-on domain (R22, R33); an entry on command
ends with its command. -/
def protective (e : Option (PowerState × Bool)) : Option (PowerState × Bool) := e.filter fun x => !x.2

/-- The state a module reset leaves: every register at its reset value but what R401, R415 and R430 keep. The log ring
stays (R445); the epoch in force stays (R359: the module rejoins at E); the shim plan is read back from its record. The
reset releases WAKEn# (R22). -/
def rebooted (s : State) : State :=
  { State.reset with
    pending := s.pending, now := s.now, freeCtr := s.freeCtr
    out := s.pkg.wakePins.map (fun h => .wakePin h false) ++ s.out
    host := { s.host with
      fns := s.host.fns.map fun e => (e.1, { resetBlock e.2 with wakePending := false })
      outst := [], ready := false, fwAct := none }
    dbg := { State.reset.dbg with
      log := s.dbg.log, nextSeq := s.dbg.nextSeq, live := s.dbg.live, saved := s.dbg.saved, summaryDue := s.dbg.summaryDue
      summarySeq := s.dbg.summarySeq, lastSummary := s.dbg.lastSummary, lanes := s.dbg.lanes }
    pkg := { s.pkg with resetDue := false, selfTested := false, wakePins := [] }
    pwr := { State.reset.pwr with
      entryDue := protective s.pwr.entryDue, entering := protective s.pwr.entering
      entryCause := if ((protective s.pwr.entryDue).orElse fun _ => protective s.pwr.entering).isSome then s.pwr.entryCause else none
      wakeEn := s.pwr.wakeEn, lastWake := s.pwr.lastWake, rtc := s.pwr.rtc, alarm := s.pwr.alarm, shimSeq := s.pwr.shimSeq
      plan := s.pwr.nextPlan.getD s.pwr.plan, inputCut := s.pwr.inputCut, volts := s.pwr.volts, amps := s.pwr.amps
      inlet := s.pwr.inlet, flow := s.pwr.flow, dark := s.pwr.dark, activeFrom := s.pwr.activeFrom }
    mem := lostMem false s.mem
    dvl := { State.reset.dvl with
      step := 1, epoch := s.dvl.epoch, digest := s.dvl.digest, set := s.dvl.set, map := s.dvl.map, serial := s.dvl.serial
      install := s.dvl.install }
    ckp := lostCkp s.ckp }

/-- MODULE.RESET: the summary is written, every command aborted, and the start sequence runs from step 1. -/
def moduleReset (by_ : Option Src) (s : State) : State := rebooted (abortAll by_ (writeSummary s))

def doModuleReset (src : Src) (p : Bytes) (s : State) : State :=
  start ⟨src, 0x0104, .moduleReset src p, true, [(0, 48)], p⟩ (fun s => moduleReset (some src) s) s

/-! ### Ending every context (R402 IMMEDIATE, R411 force) -/

/-- End the jobs this module leads: their JOB.WAIT commands complete with S_ABORTED_RESET and the last retained
checkpoint. -/
def abortJobs (s : State) : State :=
  s.vnr.jobs.foldl (fun s e =>
    if e.2.status.isSome then s
    else completeWaits (· == .job e.1) sAborted (words64 e.2.lastCkp)
      (setJob e.1 (fun j => { j with status := some sAborted }) s)) s

/-- Every context of the module ends as under MODULE.RESET. -/
def endAllCtxs (s : State) : State :=
  abortJobs ((activeCtxs s).foldl (fun s e => endCtx e.1 s) s)

/-! ### DEEP and loss of power (R318, R410) -/

/-- The tiles hold nothing once their dies are unpowered. -/
def deepTiles : TilesSt := ⟨[], [], [], []⟩

/-- DONE contexts stay through DEEP; every other context has ended (R410, R318). -/
def deepVnr (planned : Bool) (v : VnrSt) : VnrSt :=
  { v with
    ctxs := v.ctxs.filterMap fun e =>
      if e.2.state == .done then some (e.1, { e.2 with vers := if planned then e.2.vers else [] }) else none
    jobs := v.jobs.filter fun e => e.2.status.isSome }

/-- What DEEP leaves: GDDR7 contents, SCRATCH objects, jig banks and the time lock are lost (R410). After an entry on
command every PERSISTENT object keeps its owning context; after a protective one it is cleared (R318). A module that is
OUT stays OUT (R17, R346), and one whose start sequence has not passed the self-test has it still to run. -/
def deepState (planned : Bool) (s : State) : State :=
  { s with
    host := { s.host with ready := false }
    pkg := { s.pkg with rails := false, holding := s.pkg.holding.filter (· != .junctionTrip) }
    pwr := { s.pwr with
      state := .deep, entering := none, entryDue := none, waking := false, dies := [], otherBudget := [], draw := 0
      plan := s.pwr.nextPlan.getD s.pwr.plan, nextPlan := none }
    mem := lostMem planned s.mem
    mq := { s.mq with queues := [], bindings := [] }
    vnr := deepVnr planned s.vnr
    jig := { State.reset.jig with events := s.jig.events, lateCnt := s.jig.lateCnt, idleRows := s.jig.idleRows }
    tile := deepTiles
    glu := { s.glu with queues := [], insts := [], deferred := [], credits := [] }
    dvl := { s.dvl with
      step := if s.dvl.step = 15 then 15 else min s.dvl.step 1
      locked := false, closed := false, parent := none, fleetReady := false, offsets := [], staged := none
      ports := s.dvl.ports.map fun e => (e.1, { PortSt.reset with
        state := if e.2.state = 0 then 0 else 1, litLow := e.2.litLow, litHigh := e.2.litHigh, laser := e.2.laser }) }
    ckp := { lostCkp s.ckp with events := s.ckp.events, reserveGiB := s.ckp.reserveGiB, failCnt := s.ckp.failCnt
                                shrinkCnt := s.ckp.shrinkCnt, policy := s.ckp.policy } }

/-- What a loss of the 48 V input leaves: NOR records and the context store, and nothing else (R410 OFF). The input
voltage is what the always-on domain will find again. -/
def offState (s : State) : State :=
  let s1 := rebooted s
  { s1 with
    host := { State.reset.host with fwVersion := s.host.fwVersion, fwCommitted := s.host.fwCommitted }
    dbg := { State.reset.dbg with
      live := s.dbg.saved, saved := s.dbg.saved, summarySeq := s.dbg.summarySeq, lastSummary := s.dbg.lastSummary
      lanes := s.dbg.lanes }
    pkg := { State.reset.pkg with
      pwrGood := false, aonValid := false, uvArmed := false, causesDue := s.pkg.causesDue }
    pwr := { State.reset.pwr with
      state := .off, plan := s1.pwr.plan, shimSeq := s.pwr.shimSeq, volts := s.pwr.volts, activeFrom := s.now }
    dvl := { s1.dvl with step := 0, epoch := 0, digest := 0, set := [] } }

/-! ### Firmware (R402) -/

/-- FW.COMMIT: check the image and write it to NOR; it runs at the next activation or boot. -/
def doFwCommit (src : Src) (p : Bytes) (s : State) : State :=
  start ⟨src, 0x0107, .fwCommit src p, true, [(8, 40)], p⟩ (fun s =>
    let h := getLE p 0 8
    if s.host.fwAct.isSome then complete src sBusy [] s
    else match cmdObj s src h 1 with
    | .error st => complete src st [] s
    | .ok o =>
      let b := objRead o 0 o.size
      match Config.fwImage b with
      | none => complete src sFwImage [] s
      | some v =>
        if getLE b 0 4 != 0x5746_5855 then complete src sFwImage [] s
        else
          let s1 := writeRecord 0x0001 b s
          complete src sOk [] { s1 with host := { s1.host with fwCommitted := some (0x0003_0000 + v.toNat) } }) s

/-- The switch itself: the committed image runs, the hold ends, FW.ACTIVATE completes and EV_FW_ACTIVATED is raised. In
mode IMMEDIATE every context ends first. Held commands start next (`runHeld` in Machine/Run.lean). -/
def switchFirmware (s : State) : State := match s.host.fwAct with
  | none => s
  | some a =>
    let s1 := if a.mode = 1 then endAllCtxs s else s
    let new := s1.host.fwCommitted.getD s1.host.fwVersion
    let s2 := raise { code := 0x0104, detail := [(4, s1.host.fwVersion), (4, new)] }
      { s1 with host := { s1.host with fwAct := none, fwVersion := new, fwCommitted := none } }
    match a.src with
    | some k => complete k sOk [] s2
    | none => s2

/-- FW.ACTIVATE: modes STEP and IMMEDIATE hold commands from its fetch, AT_T from T. With no active bank the switch
happens at once. -/
def doFwActivate (src : Src) (p : Bytes) (s : State) : State :=
  start ⟨src, 0x0108, .fwActivate src p, true, [(1, 7), (0x10, 32)], p⟩ (fun s =>
    let mode := getLE p 0 1
    if 2 < mode then complete src sBadField [] s
    else if s.host.fwAct.isSome then complete src sBusy [] s
    else
      let a : FwAct := ⟨mode, if mode = 2 then getLE p 8 8 else 0, if mode = 2 then none else some s.now, some src⟩
      let s1 := await src .fwSwitch { s with host := { s.host with fwAct := some a } }
      if s.jig.running || mode = 2 then s1 else switchFirmware s1) s

/-- FW_HOLD_AT_T: in mode AT_T the hold begins at T. -/
def doFwHoldAtT (s : State) : State := match s.host.fwAct with
  | none => s
  | some a =>
    if a.mode != 2 || a.holdFrom.isSome then s
    else
      let s1 := advance a.t s
      { s1 with host := { s1.host with fwAct := some { a with holdFrom := some a.t } } }

/-- 30 s after the hold began without a switch: it ends with S_FW_TIMEOUT, and the old firmware continues. -/
def timeoutFirmware (s : State) : State := match s.host.fwAct with
  | none => s
  | some a => match a.holdFrom with
    | none => s
    | some t =>
      let s1 := advance (t + 30000000000) s
      let new := s1.host.fwCommitted.getD s1.host.fwVersion
      let s2 := raise { code := 0x0105, detail := [(4, new), (1, 0)] } { s1 with host := { s1.host with fwAct := none } }
      match a.src with
      | some k => complete k sFwTimeout [] s2
      | none => s2

def execModuleReset (src : Src) (p : Bytes) (s : State) : Host.Outcome State Fault Refusal :=
  .next (settle s (doModuleReset src p s))

def execFwCommit (src : Src) (p : Bytes) (s : State) : Host.Outcome State Fault Refusal :=
  .next (settle s (doFwCommit src p s))

def execFwActivate (src : Src) (p : Bytes) (s : State) : Host.Outcome State Fault Refusal :=
  .next (settle s (doFwActivate src p s))

def execFwHoldAtT (s : State) : Host.Outcome State Fault Refusal := .next (settle s (doFwHoldAtT s))

end Sys2Proof.Machine
end

