-- ==== Sys2Proof/Machine/Power.lean ====
section
/-! DEFINITION. Power states, wake sources, clocks, budgets, throttling and the shim planner (chapter 14). -/

namespace Sys2Proof.Machine

abbrev sPwrState : Nat := 0x0A01
abbrev sPwrLatched : Nat := 0x0A02

/-- The number of a row of R33. -/
def rowIx : ProtectRow → Nat
  | .inletHigh => 0
  | .inletTooHigh => 1
  | .flowLow => 2
  | .flowTooLow => 3
  | .flowLost => 4
  | .leak => 5
  | .junctionTrip => 6
  | .undervoltage => 7
  | .emergencyOff => 8

/-- Is the cause latched (R33)? -/
def latched : ProtectRow → Bool
  | .leak | .junctionTrip | .emergencyOff => true
  | _ => false

/-- EV_PWR_STATE: old and new state, and the cause: 0 on command or by a wake, else 1 + the row of R33 (log entry 70). -/
def raiseState (old : Nat) (cause : Nat) (s : State) : State :=
  raise { code := 0x0A01, source := 9, detail := [(1, old), (1, pwrCode s), (1, cause)] } s

/-- The row that caused the entry, as EV_PWR_STATE gives it. -/
def causeCode (c : Option ProtectRow) : Nat := match c with
  | some r => 1 + rowIx r
  | none => 0

/-! ### Entering SLEEP and DEEP (R411) -/

/-- Ports go dark: an enabled port keeps its laser settings and falls back to DARK. -/
def darkPorts (s : State) : State :=
  { s with dvl := { s.dvl with ports := s.dvl.ports.map fun e => (e.1, { PortSt.reset with
    state := if e.2.state = 0 then 0 else 1, litLow := e.2.litLow, litHigh := e.2.litHigh, laser := e.2.laser
    failedLanes := e.2.failedLanes, fecCorr := e.2.fecCorr, fecUncorr := e.2.fecUncorr, downs := e.2.downs
    margin := e.2.margin, marginLane := e.2.marginLane }) } }

/-- Tiles ramp down and are clock-gated (R90). -/
def rampDown (s : State) : State :=
  { s with tile := { s.tile with tiles := s.tile.tiles.map fun e => (e.1, { e.2 with level := 0, gated := true, lastCurrent := 0 }) } }

/-- The frame boundary of an entry: no slots from here on, tiles ramp down, ports go dark. The jobs of the contexts here
count the module as lost (R33, R411); on command, contexts that are neither FREE nor DONE end (R411 force). An entry ends
a wake that is in progress. -/
def stopSlots (p : PowerState) (planned : Bool) (s : State) : State :=
  let s1 := if planned then endAllCtxs (announceLeaving s) else announceLeaving s
  darkPorts (rampDown { s1 with pwr := { s1.pwr with entering := some (p, planned), entryDue := none, waking := false } })

/-- Ask for an entry: at the next frame boundary, or at once with no active bank. -/
def requestEntry (p : PowerState) (planned : Bool) (cause : Option ProtectRow) (s : State) : State :=
  let s1 := { s with pwr := { s.pwr with entryCause := cause } }
  if s.jig.running && s.pwr.state == .active then { s1 with pwr := { s1.pwr with entryDue := some (p, planned) } }
  else stopSlots p planned s1

/-- What the fabric loses in SLEEP: time lock and port training (R410). Contexts, banks and GDDR7 stay. -/
def sleepState (s : State) : State :=
  { s with
    pwr := { s.pwr with state := .sleep, entering := none, entryDue := none, waking := false }
    jig := { s.jig with paused := s.jig.running }
    dvl := { s.dvl with
      step := if s.dvl.step = 15 then 15 else min s.dvl.step 6
      locked := false, closed := false, parent := none, fleetReady := false, offsets := [], unlockedAt := none } }

/-- The entry ends: a planned one writes the block map and the summary, and for DEEP every dirty PERSISTENT range; a
protective one writes nothing (R411, R437). -/
def reachState (s : State) : State := match s.pwr.entering with
  | none => s
  | some (p, planned) =>
    let old := pwrCode s
    let s1 := if planned then
        let w := writeRecord 0x0007 (blockMapBytes s) (if p == .deep then mapObjs (makeDurable (slcRoom s) s.now) s else s)
        writeSummary { w with mem := { w.mem with lastMapWrite := w.now } }
      else countActive s
    let s2 := if p == .deep then deepState planned s1 else sleepState s1
    let s3 := raiseState old (causeCode s.pwr.entryCause) s2
    completeWaits (fun w => match w with
      | .pwrState t => t != 0
      | _ => false) sOk [] s3

def doPowerStateReached (s : State) : State :=
  reachState (match s.pwr.entryDue with
    | some (p, planned) => if s.pwr.entering.isNone && !s.jig.running then stopSlots p planned s else s
    | none => s)

/-! ### Waking (R416, R417) -/

/-- Do the conditions of DEEP allow a wake: without a latch, the flow must have stayed at 4.0 L/min or more for 2 s (R34)? -/
def flowBack (s : State) : Bool := s.pwr.state != .deep || s.pkg.flowOk

/-- Has every latched condition cleared (R34)? -/
def latchClear (s : State) : Bool := !(s.pkg.latches.any fun r => s.pkg.holding.contains r)

/-- Begin a wake from a source with its cause bit: each function's latch takes the bit, and functions in D3 with PME
enabled are asked to wake for the sources that are not a host's own (R417). A source that comes while an entry is under
way finds no state to wake from (log entry 74). -/
def beginWake (causeBits : Nat) (s : State) : State :=
  if s.pwr.state == .active || s.pwr.state == .off || s.pwr.entering.isSome then s
  else
    let first := !s.pwr.waking
    let last := if first then causeBits else s.pwr.lastWake ||| causeBits
    let s1 := { s with pwr := { s.pwr with waking := true, lastWake := last } }
    let s2 := if first then raise { code := 0x0A06, source := 9, detail := [(4, causeBits)] } s1 else s1
    allFns.foldl (fun s f =>
      if !fnExists s f then s
      else
        let own := causeBits / 16 % 256 != 0
        let mine := (causeBits >>> (4 + fnPort f)) % 2 == 1 || (causeBits >>> (8 + fnPort f)) % 2 == 1
        let s1 := if own && !mine then s else setFn f (fun x => { x with wakeCause := x.wakeCause ||| word causeBits }) s
        if own || causeBits = 0 then s1 else requestWake f causeBits s1) s2

/-- A wake source acts only while its enable bit is set; a latch blocks every source but the sideband (R34, R416). -/
def wakeSource (n : Nat) (s : State) : State :=
  if !bit s.pwr.wakeEn.toNat n || !s.pkg.latches.isEmpty || !flowBack s then s else beginWake (2 ^ n) s

/-- The sideband wake: with a latch it succeeds once every latched condition has cleared, and clears the latches. R34 states
the condition on the flow for a module without a latch; that a latched module in DEEP waits for the flow too is the
model's choice (DESIGN CHOICE, log entry 94). -/
def sidebandWake (s : State) : Bool × State :=
  if s.pwr.state == .off || !latchClear s || !flowBack s then (false, s)
  else
    let s1 := { s with pkg := { s.pkg with latches := [] } }
    (true, beginWake 2 s1)

/-- The RTC tick at or after an instant: ticks of 1/32,768 s (R415). -/
def rtcTick (t : Nat) : Nat := (t * 32768 + 999999999) / 1000000000 * 1000000000 / 32768

/-- RTC_ALARM: the alarm fires once, clears itself and is a wake source. -/
def doRtcAlarm (s : State) : State :=
  if s.pwr.alarm = 0 then s
  else
    let due := rtcTick s.pwr.alarm
    let s1 := advance (s.now + (due - s.pwr.rtc)) s
    wakeSource 0 { s1 with pwr := { s1.pwr with alarm := 0 } }

/-- A satisfied wake request: WAKEn# deasserts; the latch keeps its bits (R417). -/
def satisfyWake (f : Nat) (s : State) : State :=
  let x := fnOf s f
  let s1 := if x.wakePending && x.dstate == .d3cold then emit (.wakePin (fnPort f) false) s else s
  setFn f (fun x => { x with wakePending := false }) s1

/-- PERST_DEASSERT: the port's functions leave D3cold with their requests satisfied, the link trains, and PERST# is a
wake source. Before PWR_GOOD the pin acts on nothing (R22); PCIE_LINK_UP brings the link up later. -/
def doPerstDeassert (h : Nat) (o : LinkOffer) (s : State) : State :=
  let l := linkOf s h
  let s1 := { s with host := { s.host with links := tset s.host.links h { l with perst := false } } }
  if !s.pkg.pwrGood then s1 else
  let s2 := (List.range 16).foldl (fun s i =>
    setFn (16 * h + i) (fun x => { x with dstate := if x.dstate == .d3cold then .d0 else x.dstate })
      (satisfyWake (16 * h + i) s)) s1
  doLinkUp h o (wakeSource (4 + h) s2)

/-- D_STATE_CHANGE: a write of D0 satisfies a pending request and is an in-band wake. -/
def doDStateChange (f : Nat) (d : DState) (pme : Bool) (s : State) : State :=
  let s1 := if d == .d0 then satisfyWake f s else s
  let s2 := setFn f (fun x => { x with dstate := d, pmeOn := pme }) s1
  if d == .d0 then wakeSource (8 + fnPort f) s2 else s2

def doL1Exit (h : Nat) (s : State) : State := wakeSource (8 + h) s

/-- PME_REWAKE_TIMER: a function back in D3 with a non-zero latch is asked again. -/
def doPmeRewake (f : Nat) (s : State) : State :=
  if (fnOf s f).wakeCause = 0 then s else requestWake f 0 s

/-- Take over the causes of protective entries into the summary and the log (R437): LOG_PROTECT names the row, its
reading and the action, numbered in the order of R34 (log entry 71). -/
def protectAction : ProtectRow → Nat
  | .inletHigh | .flowLow => 0
  | .inletTooHigh | .flowTooLow => 1
  | .flowLost | .leak | .junctionTrip => 2
  | .undervoltage | .emergencyOff => 3

def logProtect (r : ProtectRow) (reading : Nat) (s : State) : State :=
  let s1 := logEntry { code := 0x0B84, source := 9, detail := [(1, rowIx r), (4, reading), (1, protectAction r)] } s
  { s1 with dbg := { s1.dbg with live := { s1.dbg.live with causes := rowIx r :: s1.dbg.live.causes } } }

def copyCauses (s : State) : State :=
  s.pkg.causesDue.foldl (fun s c => logProtect c.1 c.2 s) { s with pkg := { s.pkg with causesDue := [] } }

/-- The step of the start sequence after a wake (R412): LOCAL_READY again; a module that is OUT stays so (R346); one whose
self-test has not passed since power-up or module reset runs the start sequence (R17, R29). -/
def wakeStep (deep : Bool) (s : State) : Nat :=
  if s.dvl.step = 15 then 15 else if deep && !s.pkg.selfTested then 1 else if deep then 6 else min s.dvl.step 6

/-- A wake has reached ACTIVE (R412): clocks and ports start, and the start sequence goes on from LOCAL_READY. Held
commands start next (Machine/Run.lean). After DEEP the firmware has booted, wires and GDDR7 have been checked. After SLEEP
every enabled port starts in TRAINING; after DEEP those with light do. -/
def reachActive (s : State) : State :=
  if !s.pwr.waking || s.pwr.entering.isSome then s
  else
    let old := pwrCode s
    let deep := s.pwr.state == .deep
    let s1 := { s with
      pwr := { s.pwr with
        state := .active, waking := false, entering := none, entryDue := none, entryCause := none, planAtWake := true
        activeFrom := s.now }
      pkg := { s.pkg with rails := true } }
    let s2 := if deep && s.pkg.selfTested then
        copyCauses { s1 with
          host := { s1.host with ready := true, fwVersion := s1.host.fwCommitted.getD s1.host.fwVersion, fwCommitted := none }
          mem := { s1.mem with gddrReady := true } }
      else s1
    let s3 := { s2 with dvl := { s2.dvl with
      step := wakeStep deep s2
      ports := s2.dvl.ports.map fun e => (e.1, { e.2 with
        state := if e.2.state != 1 then e.2.state else if !deep || e.2.litLow || e.2.litHigh then 2 else 1 }) } }
    let s4 := raiseState old 0 s3
    completeWaits (· == .pwrState 0) sOk [] s4

/-! ### Commands (R426) -/

/-- PWR.STATE (R411, R426). -/
def doPwrState (src : Src) (p : Bytes) (s : State) : State :=
  start ⟨src, 0x0A01, .pwrState src p, true, [(2, 2), (8, 40)], p⟩ (fun s =>
    let target := getLE p 0 1
    let flags := getLE p 1 1
    let limit := getLE p 4 4
    if 2 < target || 1 < flags || (limit != 0 && (limit < 1500 || 3600 < limit)) then complete src sBadField [] s
    else
      let s1 := if limit = 0 then s else { s with pwr := { s.pwr with limit := limit } }
      let busy := !(activeCtxs s).isEmpty
      match target, s.pwr.state with
      | 0, .active => complete src sOk [] s1
      | 0, _ =>
        if !s.pkg.latches.isEmpty && (src.issuer != .sideband || !latchClear s) then complete src sPwrLatched [] s1
        else if !flowBack s then complete src sPwrState [] s1
        else await src (.pwrState 0) (beginWake 0 { s1 with pkg := { s1.pkg with latches := [] } })
      | 1, .sleep => complete src sOk [] s1
      | 2, .deep => complete src sOk [] s1
      | 1, .deep => complete src sPwrState [] s1
      | t, _ =>
        if busy && !bit flags 0 then complete src sPwrState [] s1
        else requestEntry (if t = 1 then .sleep else .deep) true none (await src (.pwrState t) s1)) s

/-- PWR.ALARM: a fabric time in the future, or 0 to clear. -/
def doPwrAlarm (src : Src) (p : Bytes) (s : State) : State :=
  start ⟨src, 0x0A02, .pwrAlarm src p, true, [(8, 40)], p⟩ (fun s =>
    let t := getLE p 0 8
    if t != 0 && t ≤ logTime s then complete src sBadField [] s
    else complete src sOk [] { s with pwr := { s.pwr with alarm := t } }) s

def doPwrQuery (src : Src) (p : Bytes) (s : State) : State :=
  start ⟨src, 0x0A03, .pwrQuery src p, false, [(0, 48)], p⟩ (fun s =>
    complete src sOk [pwrStatus s, s.pwr.lastWake, s.pwr.draw, s.pwr.limit, latchBits s] s) s

/-! ### Budgets (R418, R419, R421) -/

/-- PWR_LIMIT, or less while the input is below 41 V (R421). -/
def effectiveLimit (s : State) : Nat := match s.pwr.inputCut with
  | some c => min s.pwr.limit c
  | none => s.pwr.limit

/-- Each compute die's budget from what is left of the limit (R418): floors first, then the remainder in proportion to
the demand above the floor, up to that demand; where the floors do not fit, the same fraction of each. Watts round
down, so that the budgets never sum above the limit. -/
def shareBudgets (pool : Nat) (rs : List (Nat × Nat × Nat)) : List (Nat × Nat) :=
  let floors := (rs.map fun r => r.2.2).foldl (· + ·) 0
  if pool < floors then rs.map fun r => (r.1, pool * r.2.2 / floors)
  else
    let rest := pool - floors
    let above := (rs.map fun r => r.2.1 - r.2.2).foldl (· + ·) 0
    rs.map fun r => (r.1, r.2.2 + min (r.2.1 - r.2.2) (rest * (r.2.1 - r.2.2) / max above 1))

/-- Estimated power of a die at a step, linear between the points of the plan's power table (R419, R421 example). -/
def stepPower (tbl : Tab Nat) (d step : Nat) : Option Nat :=
  let pts := tbl.filter fun e => e.1 / 64 == d
  let below := (pts.filter fun e => decide (e.1 % 64 ≤ step)).getLast?
  let above := pts.find? fun e => decide (step ≤ e.1 % 64)
  match below, above with
  | some a, some b =>
    let x := a.1 % 64
    let y := b.1 % 64
    if x = y then some a.2 else some ((a.2 * (y - step) + b.2 * (step - x) + (y - x) - 1) / (y - x))
  | _, _ => none

/-- The highest 25 MHz step, 0.40-1.60 GHz, whose estimated power is within the budget (R414, R419); the lowest step
where none is. A die whose power table the spec does not give (the factory table) takes a free value. -/
def chooseStep (tbl : Tab Nat) (d budget free : Nat) : Nat :=
  if (tbl.filter fun e => e.1 / 64 == d).isEmpty then 16 + free % 49
  else match ((List.range 49).reverse.map (· + 16)).find? fun k => match stepPower tbl d k with
      | some w => decide (w ≤ budget)
      | none => false with
    | some k => k
    | none => 16

/-- Move a die to a step: its voltage is the minimum measured at that clock plus the guard band, in steps of 5 mV within
0.60-0.85 V (R414, R423); the measured minimum is a free value. -/
def moveClock (d step : Nat) (s : State) : State :=
  let (m, s1) := fresh s
  let mv := (m % 1000 + s.pwr.plan.guardBand.getD d 0 + 4) / 5 * 5
  setDie d (fun x => { x with clock := step, vk := max 600 (min 850 mv) }) s1

/-- The active bank's floor clock (R205); none binds while no bank is active. -/
def floorClock (s : State) : Nat := if s.jig.running then bankFloor (activeBank s) else 0

/-- A compute die follows its budget; while it throttles for heat it does not step up by more than its throttle lets it
(R420). It stays at or above the floor clock unless it throttles or its budget lies below its floor power, as where the
limit does not fit the floor powers (R205, R421). -/
def followBudget (d : Nat) (s : State) : State :=
  let (f, s1) := fresh s
  let x := dieOf s1 d
  let k := chooseStep s1.pwr.plan.powerTable d x.budget f
  let k0 := if x.floorW ≤ x.budget then max k (floorClock s1) else k
  let k1 := if x.held then min k x.clock else k0
  if x.nap || k1 = x.clock then s1 else moveClock d k1 s1

/-- A bank with a higher floor raises the clock of every die below it that R421 does not hold below the floor. -/
def raiseToFloor (s : State) : State :=
  (List.range 4).foldl (fun s d =>
    let x := dieOf s d
    if x.clock < floorClock s && !x.held && !x.nap && x.floorW ≤ x.budget then moveClock d (floorClock s) s else s) s

/-- Count an interval with a die below the floor, and raise EV_PWR_THROTTLE at most once per second (R421). Reasons:
0 thermal, 1 PWR_LIMIT, 2 input voltage (log entry 72). -/
def belowFloor (s : State) : State :=
  let floor := bankFloor (activeBank s)
  if !s.jig.running then s
  else match (List.range 4).find? fun d => decide ((dieOf s d).clock < floor) with
    | none => s
    | some d =>
      let s1 := { s with pwr := { s.pwr with throttleCnt := satInc s.pwr.throttleCnt } }
      if s.pwr.lastThrottleEv != 0 && s.now < s.pwr.lastThrottleEv + 1000000000 then s1
      else
        let x := dieOf s d
        let why := if x.hot || x.held then 0 else if s.pwr.inputCut.isSome then 2 else 1
        raise { code := 0x0A03, source := d, detail := [(1, d), (1, x.clock), (1, floor), (1, why)] }
          { s1 with pwr := { s1.pwr with lastThrottleEv := s.now } }

/-- The memory dies and C0 receive their demand, as far as the limit goes (R418). -/
def demandBudgets (limit : Nat) : List (Nat × Nat) → List (Nat × Nat)
  | [] => []
  | (d, w) :: rest => (d, min w limit) :: demandBudgets (limit - min w limit) rest

/-- A die takes its new budget; a compute die follows it with its clock. -/
def giveBudget (s : State) (n : Nat × Nat) : State :=
  let s1 := setDie n.1 (fun x => { x with budget := n.2, lastBudget := s.now }) s
  if n.1 < 4 then followBudget n.1 s1 else s1

/-- BUDGET_CYCLE: every die reports and the arbiter assigns. Decreases go first; increases only once every die whose
budget falls draws at or below its new budget (R419). The regulation losses set aside are a free value. -/
def doBudgetCycle (reports : List DieReport) (s : State) : State :=
  let s0 := advance (s.now + 50000) s
  let s1 := reports.foldl (fun s r => setDie r.die.val (fun x => { x with
    draw := r.draw, demand := r.demand, floorW := r.floorW, tj := r.tj }) s) s0
  let (loss, s2) := fresh s1
  let limit := effectiveLimit s2
  let others := demandBudgets limit ((List.range 5).map fun i => (i + 4, (dieOf s2 (i + 4)).demand))
  let pool := limit - (others.map (·.2)).foldl (· + ·) 0 - loss
  let new := others ++ shareBudgets pool ((List.range 4).map fun d => (d, (dieOf s2 d).demand, (dieOf s2 d).floorW))
  let calm := new.all fun n => decide ((dieOf s2 n.1).budget ≤ n.2) || decide ((dieOf s2 n.1).draw ≤ n.2)
  let s4 := (new.filter fun n => decide (n.2 ≤ (dieOf s2 n.1).budget)).foldl giveBudget s2
  let rise := new.filter fun n => decide ((dieOf s2 n.1).budget < n.2)
  let s5 := if calm then rise.foldl giveBudget s4 else s4
  let total := ((List.range 9).map fun d => (dieOf s5 d).draw).foldl (· + ·) 0
  belowFloor { s5 with pwr := { s5.pwr with draw := total } }

/-- BUDGET_TIMEOUT: 150 µs without a budget: the lower of the last budget and the floor power (R419). -/
def doBudgetTimeout (d : Nat) (s : State) : State :=
  let s1 := setDie d (fun x => { x with budget := min x.budget x.floorW }) (advance ((dieOf s d).lastBudget + 150000) s)
  if d < 4 then belowFloor (followBudget d s1) else s1

/-- THERMAL_THROTTLE_STEP (R420), temperatures in 0.1 °C: at 102 °C one step down every 50 µs until 100 °C, then one
step up as the budget allows. -/
def doThermalStep (d tj : Nat) (s : State) : State :=
  let (f, s1) := fresh (setDie d (fun x => { x with tj := tj }) s)
  let x := dieOf s1 d
  if 1020 ≤ tj || (x.hot && 1000 < tj) then
    let s2 := setDie d (fun x => { x with hot := true, held := true }) s1
    if 16 < x.clock then moveClock d (x.clock - 1) s2 else s2
  else
    let s2 := setDie d (fun x => { x with hot := false }) s1
    let k := chooseStep s2.pwr.plan.powerTable d x.budget f
    if !x.held then s2
    else if x.clock + 1 < k then moveClock d (x.clock + 1) s2
    else
      let s3 := setDie d (fun x => { x with held := false }) s2
      if x.clock < k then moveClock d k s3 else s3

/-- Does the jig place a program on die d that starts within 200 µs from now (R413)? -/
def programSoon (d : Nat) (s : State) : Bool :=
  if !s.jig.running then false
  else
    let b := activeBank s
    (List.range (200000 / max (bankFrameLen b) 1 + 2)).any fun k => match imageAt b (s.jig.frame + k) with
      | none => false
      | some (img, _) => (imgEntryList img).any fun e =>
        let t := frameStart s (s.jig.frame + k) + entStart e
        decide (s.now ≤ t) && decide (t < s.now + 200000) &&
          (tsetTiles img (entTset e)).any fun n => n / 64 == d && (progWord img e n).isSome

/-- DIE_NAP_ENTRY (R413): a die idle for 1 ms, with no program for 200 µs, turns its grid PLLs off. -/
def doDieNap (d : Nat) (s : State) : State :=
  let busy := s.tile.tiles.any fun e => e.1 / 64 == d && e.2.prog.isSome
  if busy || programSoon d s || s.pwr.state != .active then s else setDie d (fun x => { x with nap := true }) s

def doDieWake (d : Nat) (s : State) : State := setDie d (fun x => { x with nap := false }) s

/-- INPUT_BELOW_41V (R421): 3,600 W less 10 % per volt below 41.0 V. -/
def doInputBelow41 (cv : Nat) (s : State) : State :=
  { s with pwr := { s.pwr with
    volts := cv, inputCut := if cv < 4100 then some (3600 - 360 * (4100 - cv) / 100) else none } }

/-! ### The shim planner (R422, R423) -/

def clampTo (lo hi v : Nat) : Nat := max lo (min hi v)

/-- The plan a run writes: each value within its limits; a run in ACTIVE may only raise voltages and tighten flash
limits. -/
def planFrom (m : ShimMeasure) (wake : Bool) (old : ShimPlan) : ShimPlan :=
  let tighter (lo hi new o : Nat) : Nat := if wake then clampTo lo hi new else min o (clampTo lo hi new)
  let gb (d : Nat) : Nat :=
    let v := clampTo 15 60 (m.guardBand.getD d 0)
    if wake then v else max v (old.guardBand.getD d 0)
  let tbl := sortBy (fun a b : Nat × Nat => decide (a.1 ≤ b.1)) (m.powerTable.map fun e => (64 * e.1 + e.2.1 % 64, e.2.2))
  { guardBand := (List.range 4).map gb
    powerTable := if tbl.isEmpty then old.powerTable else tbl
    corrBits := tighter 48 96 m.corrBits old.corrBits
    retryLevel := tighter 2 5 m.retryLevel old.retryLevel
    retentionDays := tighter 30 90 m.retentionDays old.retentionDays
    calPeriodMs := clampTo 1 4 m.calPeriodMs
    laserCeil := m.laserCeil.foldl (fun t e => tset t e.1 (clampTo 100 130 e.2)) old.laserCeil
    eyeMargin := clampTo 20 50 m.eyeMargin
    gridCal := if m.gridCal.isEmpty then old.gridCal else m.gridCal }

/-- The values that need to go beyond their limits, as (row of R423, die, channel or lane). -/
def beyond (m : ShimMeasure) : List (Nat × Nat) :=
  let out (row lo hi v : Nat) : List (Nat × Nat) := if v < lo || hi < v then [(row, 0)] else []
  ((List.range 4).flatMap fun d =>
    if m.guardBand.getD d 0 < 15 || 60 < m.guardBand.getD d 0 then [(0, d)] else []) ++
  out 2 48 96 m.corrBits ++ out 3 2 5 m.retryLevel ++ out 4 30 90 m.retentionDays ++ out 5 1 4 m.calPeriodMs ++
  (m.laserCeil.flatMap fun e => if e.2 < 100 || 130 < e.2 then [(6, e.1)] else []) ++ out 7 20 50 m.eyeMargin

/-- Guard bands of a plan as EV_MARGIN_REPLANNED gives them: one byte per compute die, K0 first (R434). -/
def guardWord (p : ShimPlan) : Nat :=
  ((List.range 4).map fun d => p.guardBand.getD d 0 % 256 * 256 ^ d).foldl (· + ·) 0

/-- The plan sets VKn of every die whose clock runs (R30, R423); a run in ACTIVE may only raise it. -/
def setVoltages (wake : Bool) (s : State) : State :=
  (List.range 4).foldl (fun s d =>
    let x := dieOf s d
    if x.clock = 0 then s
    else
      let s1 := moveClock d x.clock s
      if wake then s1 else setDie d (fun y => { y with vk := max x.vk y.vk }) s1) s

/-- The plan takes effect: at the next cycle boundary, or at once with no active bank. -/
def applyPlan (s : State) : State := match s.pwr.nextPlan with
  | none => s
  | some p =>
    raise { code := 0x0A04, detail := [(8, s.pwr.nextPlanSeq), (4, guardWord p)] }
      (setVoltages s.pwr.nextPlanWake { s with pwr := { s.pwr with plan := p, nextPlan := none } })

/-- The payload of the shim plan's record (R315, R423), which the spec does not lay out. -/
def planBytes (p : ShimPlan) : Bytes :=
  Config.layout 0x14 (p.guardBand ++ (p.powerTable.flatMap fun e => [e.1, e.2]) ++
    [p.corrBits, p.retryLevel, p.retentionDays, p.calPeriodMs, p.eyeMargin] ++ (p.laserCeil.flatMap fun e => [e.1, e.2]) ++
    p.gridCal.flatMap fun g => [g.1, g.2.1, g.2.2])

/-- A planner run: the plan is written as its record before it is used (R423). -/
def runPlanner (m : ShimMeasure) (s : State) : State :=
  let p := planFrom m s.pwr.planAtWake (s.pwr.nextPlan.getD s.pwr.plan)
  let s1 := writeRecord 0x0004 (planBytes p) s
  let seq := recSeq s1 0x0004
  let s2 := { s1 with pwr := { s1.pwr with
    nextPlan := some p, nextPlanSeq := seq, nextPlanWake := s1.pwr.planAtWake, shimSeq := seq, planAtWake := false } }
  let s3 := (beyond m).foldl (fun s e => raise { code := 0x0A05, detail := [(1, e.1), (1, e.2)] } s) s2
  if s3.jig.running then s3 else applyPlan s3

def doShimPlannerRun (m : ShimMeasure) (s : State) : State := if s.pwr.state == .active then runPlanner m s else s

def doPwrReplan (src : Src) (p : Bytes) (m : ShimMeasure) (s : State) : State :=
  start ⟨src, 0x0A04, .pwrReplan src p m, true, [(0, 48)], p⟩ (fun s =>
    if s.pwr.state != .active then complete src sPwrState [] s
    else
      let s1 := runPlanner m s
      complete src sOk (words64 s1.pwr.shimSeq) s1) s

/-! ### Rows of the table -/

def execPwrState (src : Src) (p : Bytes) (s : State) : Host.Outcome State Fault Refusal :=
  .next (settle s (doPwrState src p s))

def execPwrAlarm (src : Src) (p : Bytes) (s : State) : Host.Outcome State Fault Refusal :=
  .next (settle s (doPwrAlarm src p s))

def execPwrQuery (src : Src) (p : Bytes) (s : State) : Host.Outcome State Fault Refusal :=
  .next (settle s (doPwrQuery src p s))

def execPwrReplan (src : Src) (p : Bytes) (m : ShimMeasure) (s : State) : Host.Outcome State Fault Refusal :=
  .next (settle s (doPwrReplan src p m s))

def execPerstDeassert (h : Fin 4) (offer : LinkOffer) (s : State) : Host.Outcome State Fault Refusal :=
  .next (settle s (doPerstDeassert h.val offer s))

def execDStateChange (f : Fin 64) (d : DState) (pme : Bool) (s : State) : Host.Outcome State Fault Refusal :=
  .next (settle s (doDStateChange f.val d pme s))

def execL1Exit (h : Fin 4) (s : State) : Host.Outcome State Fault Refusal := .next (settle s (doL1Exit h.val s))

def execPmeRewakeTimer (f : Fin 64) (s : State) : Host.Outcome State Fault Refusal :=
  .next (settle s (doPmeRewake f.val s))

def execPowerStateReached (s : State) : Host.Outcome State Fault Refusal := .next (settle s (doPowerStateReached s))

def execRtcAlarm (s : State) : Host.Outcome State Fault Refusal := .next (settle s (doRtcAlarm s))

def execBudgetCycle (reports : List DieReport) (s : State) : Host.Outcome State Fault Refusal :=
  .next (settle s (doBudgetCycle reports s))

def execBudgetTimeout (die : Fin 9) (s : State) : Host.Outcome State Fault Refusal :=
  .next (settle s (doBudgetTimeout die.val s))

def execThermalThrottleStep (die : Fin 4) (tj : Nat) (s : State) : Host.Outcome State Fault Refusal :=
  .next (settle s (doThermalStep die.val tj s))

def execDieNapEntry (die : Fin 4) (s : State) : Host.Outcome State Fault Refusal := .next (settle s (doDieNap die.val s))

def execDieWake (die : Fin 4) (s : State) : Host.Outcome State Fault Refusal := .next (settle s (doDieWake die.val s))

def execInputBelow41v (centivolts : Nat) (s : State) : Host.Outcome State Fault Refusal :=
  .next (settle s (doInputBelow41 centivolts s))

def execShimPlannerRun (m : ShimMeasure) (s : State) : Host.Outcome State Fault Refusal :=
  .next (settle s (doShimPlannerRun m s))

end Sys2Proof.Machine
end

