-- ==== Sys2Proof/Machine/Package.lean ====
section
/-! DEFINITION. The package (chapter 1): power good, the protective actions of R33, ALERT#, spare wavelengths, the first
steps of the start sequence (R346), and the management sideband (R23, R424, R425). -/

namespace Sys2Proof.Machine

/-! ### Power good (R25, R29) -/

/-- POWER_GOOD: the rails come up and the start sequence begins; a module that a protective condition holds in DEEP stays
there, and runs its start sequence after the wake (R27, R33, R34). -/
def doPowerGood (s : State) : State :=
  if s.pkg.pwrGood || !s.pkg.uvArmed then s
  else
    let live := { s.dbg.live with powerUps := s.dbg.live.powerUps + 1 }
    if s.pwr.state == .deep || s.pwr.entering.isSome then
      { s with pkg := { s.pkg with pwrGood := true }, dbg := { s.dbg with live := live } }
    else
    { s with
      pkg := { s.pkg with pwrGood := true, rails := true }
      pwr := { s.pwr with state := .active, activeFrom := s.now }
      dvl := { s.dvl with step := 1 }
      dbg := { s.dbg with live := live } }

/-- UNDERVOLTAGE_TRIP: PWR_GOOD deasserts and every rail but the always-on rails is removed; what lives on is in NOR and
the context store. The cause is due for the summary (R34); a reading of the row is a free value. -/
def doUndervoltage (s : State) : State :=
  let (v, s1) := fresh s
  offState { s1 with pkg := { s1.pkg with causesDue := s1.pkg.causesDue ++ [(.undervoltage, v)] } }

/-- UNDERVOLTAGE_REARM: the comparator re-arms and the always-on domain comes up: the module is no longer in OFF (R410), and
its monitors act before PWR_GOOD as they do from reset on (R22). -/
def doRearm (s : State) : State :=
  { s with
    pkg := { s.pkg with uvArmed := true, aonValid := true }
    pwr := { s.pwr with state := if s.pwr.state == .off then .active else s.pwr.state } }

/-! ### Protective actions (R33-R35) -/

def addRow (r : ProtectRow) (l : List ProtectRow) : List ProtectRow := if l.contains r then l else l ++ [r]

/-- A platform event for the event receiver (R424). -/
def queueIbi (code : Nat) (s : State) : State :=
  if s.pkg.eventReceiver.isSome then { s with pkg := { s.pkg with ibiQueue := s.pkg.ibiQueue ++ [code] } } else s

/-- A flow below 4.0 L/min ends the time for which it has stayed there (R34). -/
def flowRow (r : ProtectRow) : Bool := r == .flowLow || r == .flowTooLow || r == .flowLost

/-- A condition holds: ALERT# follows in `settle`, a latched cause is latched. -/
def holdRow (r : ProtectRow) (s : State) : State :=
  { s with pkg := { s.pkg with
    flowOk := s.pkg.flowOk && !flowRow r
    holding := addRow r s.pkg.holding, alertStatus := addRow r s.pkg.alertStatus
    latches := if latched r then addRow r s.pkg.latches else s.pkg.latches } }

/-- Is firmware running, so that it can log: it has booted, and its core is powered? -/
def firmwareRuns (s : State) : Bool := s.host.ready && (s.pwr.state == .active || s.pwr.state == .sleep)

/-- Record the cause: in log and summary at once while firmware runs on, else by the next boot (R34, R437). -/
def noteCause (r : ProtectRow) (reading : Nat) (now : Bool) (s : State) : State :=
  if now && firmwareRuns s then logProtect r reading s
  else { s with pkg := { s.pkg with causesDue := s.pkg.causesDue ++ [(r, reading)] } }

/-- ALERT# and an event: inlet temperature high, flow low. Readings are FP32 (R434). -/
def alertRow (r : ProtectRow) (reading : Nat) (s : State) : State :=
  if s.pwr.state == .off then s
  else
    let s1 := noteCause r reading true (holdRow r s)
    if firmwareRuns s then
      queueIbi 0x0A02 (raise { code := 0x0A02, source := 9, detail := [(1, rowIx r), (4, reading)] } s1)
    else s1

/-- Leave the fleet: enter SLEEP at the next frame boundary, unless something more severe is under way (R34). -/
def leaveRow (r : ProtectRow) (reading : Nat) (s : State) : State :=
  if s.pwr.state == .off then s
  else
    let s1 := queueIbi 0x0A02 (noteCause r reading true (holdRow r s))
    if s.pwr.state != .active || s.pwr.entering.isSome || (s.pwr.entryDue.map (·.1)) == some .deep then s1
    else requestEntry .sleep false (some r) s1

/-- A wake in progress that a row of R33 stops: the module stays in DEEP, and a PWR.STATE that waits for the wake is
answered as one that the row blocks (R34, R426). -/
def stopWake (r : ProtectRow) (s : State) : State :=
  if !s.pwr.waking then s
  else completeWaits (· == .pwrState 0) (if latched r then sPwrLatched else sPwrState) []
    { s with pwr := { s.pwr with waking := false, entryCause := some r }, pkg := { s.pkg with rails := false } }

/-- Enter DEEP, at once: a protective entry does not wait for the frame boundary (R411), and writes nothing. A wake under
way ends. -/
def deepRow (r : ProtectRow) (reading : Nat) (s : State) : State :=
  if s.pwr.state == .off then s
  else
    let s1 := stopWake r (queueIbi 0x0A02 (noteCause r reading false (holdRow r s)))
    if s.pwr.state == .deep || (s.pwr.entering.map (·.1)) == some .deep then s1
    else stopSlots .deep false { s1 with pwr := { s1.pwr with entryCause := some r } }

def setInlet (v : Nat) (s : State) : State := { s with pwr := { s.pwr with inlet := v } }
def setFlow (v : Nat) (s : State) : State := { s with pwr := { s.pwr with flow := v } }

/-- Readings: inlet in units of 0.5 °C and flow in 0.1 L/min (R428 PWR_COMP), junction in 0.1 °C. -/
def doInletHigh (v : Nat) (s : State) : State := alertRow .inletHigh (rat32 v 2) (setInlet v s)
def doInletTooHigh (v : Nat) (s : State) : State := leaveRow .inletTooHigh (rat32 v 2) (setInlet v s)
def doFlowLow (v : Nat) (s : State) : State := alertRow .flowLow (rat32 v 10) (setFlow v s)
def doFlowTooLow (v : Nat) (s : State) : State := leaveRow .flowTooLow (rat32 v 10) (setFlow v s)
def doFlowLost (v : Nat) (s : State) : State := deepRow .flowLost (rat32 v 10) (setFlow v s)

/-- LEAK: a reading of the row is a free value. -/
def doLeak (s : State) : State :=
  let (v, s1) := fresh s
  deepRow .leak v { s1 with pkg := { s1.pkg with leakWet := true } }

/-- JUNCTION_TRIP: the sensors act only while the compute dies are powered, which they are not in SLEEP (R410). -/
def doJunctionTrip (d v : Nat) (s : State) : State :=
  if !s.pkg.rails || s.pwr.state != .active then s else deepRow .junctionTrip (rat32 v 10) (setDie d (fun x => { x with tj := v }) s)

/-- EMERG_OFF (R27): all rails but the always-on ones go within 100 µs, and the module is in DEEP. -/
def doEmergOff (s : State) : State :=
  let (v, s1) := fresh s
  let s2 := deepRow .emergencyOff v { s1 with pkg := { s1.pkg with emergOffLow := true } }
  reachState s2

/-- LEAVE_FLEET: the frame boundary of a protective entry to SLEEP. -/
def doLeaveFleet (s : State) : State := match s.pwr.entryDue with
  | some (p, planned) => stopSlots p planned s
  | none => if s.pwr.state == .active && s.pwr.entering.isNone then stopSlots .sleep false s else s

def coolantRow (r : ProtectRow) : Bool :=
  r == .inletHigh || r == .inletTooHigh || r == .flowLow || r == .flowTooLow || r == .flowLost

/-- COMPARATOR_CLEAR (R34, R416): what flow and inlet have been for 2 s. Each at its limit or better clears its conditions;
with both, the condition that caused the entry wakes the module. -/
def doComparatorClear (inlet flow : Nat) (s : State) : State :=
  let s0 := setFlow flow (setInlet inlet s)
  let s1 := { s0 with pkg := { s0.pkg with
    flowOk := s0.pkg.flowOk || decide (40 ≤ flow)
    holding := s0.pkg.holding.filter fun r => !(flowRow r && decide (40 ≤ flow)) && !(coolantRow r && !flowRow r && decide (inlet ≤ 90)) } }
  if flow < 40 || 90 < inlet then s1
  else
    let s2 := s1
    match s.pwr.entryCause with
    | some r => if coolantRow r then wakeSource 3 s2 else s2
    | none => s2

/-- ALERT_CONDITION_CLEAR: the condition no longer holds; ALERT# follows in `settle` (R35). -/
def doConditionClear (r : ProtectRow) (s : State) : State :=
  { s with pkg := { s.pkg with
    holding := s.pkg.holding.filter (· != r)
    leakWet := s.pkg.leakWet && r != .leak, emergOffLow := s.pkg.emergOffLow && r != .emergencyOff } }

/-! ### Wavelengths (R17, R18, R439) -/

/-- Spare wavelengths, numbered 32 and 33 (log entry 74), that carry traffic of a bundle: the first sound ones, one for
each failed wavelength below 32. -/
def sparesInUse (failed : List Nat) : List Nat :=
  ([32, 33].filter fun p => !failed.contains p).take (failed.filter fun l => decide (l < 32)).length

/-- WAVELENGTH_FAIL (R18): onto a spare, with EV_DBG_LANE_SPARED; with none left a module reset at the next frame
boundary, or at once with no active bank. A spare that carries nothing moves no traffic when it fails. -/
def doWavelengthFail (b w : Nat) (s : State) : State :=
  let failed := tget [] s.dbg.lanes b
  if s.pwr.state != .active || failed.contains w then s
  else
    let errs := { s with dbg := { s.dbg with laneErrs := tupd 0 s.dbg.laneErrs b satInc } }
    if failed.length < 2 then
      let s1 := { errs with dbg := { errs.dbg with lanes := tset errs.dbg.lanes b (failed ++ [w]) } }
      match (sparesInUse (failed ++ [w])).find? fun p => !(sparesInUse failed).contains p with
      | some p => raise { code := 0x0B03, detail := [(1, b), (1, w), (1, p), (1, 1 - failed.length)] } s1
      | none => s1
    else if s.jig.running then announceLeaving { errs with pkg := { errs.pkg with resetDue := true } }
    else moduleReset none (announceLeaving errs)

/-- Wavelengths that fail by bundle, as the pattern test found them. -/
def laneTable (r : TestResult) : Tab (List Nat) :=
  r.lanes.foldl (fun t e => if e.2.isEmpty then t else tset t e.1.val ((e.2.map (·.val)).eraseDups)) []

/-- A step of the start sequence fails: OUT, with its cause (R346). -/
def goOut (cause : Nat) (s : State) : State :=
  let live := { s.dbg.live with outCauses := cause :: s.dbg.live.outCauses }
  queueIbi 0x080B (raise { code := 0x080B, source := 10, detail := [(1, cause)] }
    { s with dvl := { s.dvl with step := 15, outCause := cause }, dbg := { s.dbg with live := live } })

/-- The pattern test assigns spares; three failed wavelengths of a bundle, or a failed control wire, fail it (R17, R439).
The lane map replaces the one of the calibration record. -/
def assignSpares (r : TestResult) (s : State) : Bool × State :=
  let t := laneTable r
  if r.wireFail || t.any (fun e => decide (2 < e.2.length)) then (false, s)
  else (true, writeRecord 0x0003 (Config.layout 0x13 (t.flatMap fun e => e.1 :: e.2)) { s with dbg := { s.dbg with lanes := t } })

/-! ### The start sequence, steps 1 and 2 (R346) -/

/-- The fabric address that the map gives a serial (R344). -/
def addrOf (m : Bytes) (serial : Nat) : Nat := ((mapMods m).find? fun x => x.serial == serial).map (·.addr) |>.getD 0

/-- FIRMWARE_BOOT_DONE: the image with the highest seq runs, the NOR records are read, causes latched by the always-on
domain are copied (R437), and READY is set. Records written from outside since the last boot come with the command. -/
def doFirmwareBoot (found : Option BootRecords) (s : State) : State :=
  if s.dvl.step != 1 then s
  else
    let s1 := match found with
      | none => s
      | some r => { s with
        host := { s.host with fwCommitted := r.fw.orElse fun _ => s.host.fwCommitted }
        dvl := { s.dvl with map := r.map, serial := r.serial, install := r.install }
        pwr := { s.pwr with
          shimSeq := r.shimSeq
          plan := if r.shimSeq = 0 then State.reset.pwr.plan else s.pwr.plan } }
    let noImage := match found with
      | some r => r.fw.isNone
      | none => false
    if noImage then goOut 1 s1
    else
      let s2 := { s1 with
        host := { s1.host with
          ready := true, fwVersion := s1.host.fwCommitted.getD s1.host.fwVersion, fwCommitted := none }
        dvl := { s1.dvl with step := 2, addr := addrOf (theMap s1) s1.dvl.serial } }
      copyCauses s2

/-- PACKAGE_SELF_TEST_DONE. -/
def doSelfTest (r : TestResult) (s : State) : State :=
  if s.dvl.step != 2 then s
  else
    let (ok, s1) := assignSpares r s
    if ok then { s1 with dvl := { s1.dvl with step := 3 }, pkg := { s1.pkg with selfTested := true } } else goOut 2 s1

/-! ### The sideband (R23, R424, R425) -/

def reply (r : SbReply) (s : State) : State := emit (.sideband r) s

/-- A sideband message is served from PWR_GOOD on (R22); its arrival shows that an HDR exit pattern has passed. -/
def served (body : State → State) (s : State) : State :=
  if s.pkg.pwrGood then body { s with pkg := { s.pkg with hdrIgnore := false } } else s

/-- The static I3C address of the module (R23). -/
def staticAddr : Nat := 0x2C

/-- SETDASA to the module's static address; one to another address is not for it (R23). -/
def doSetdasa (a : Dasa) (s : State) : State := served (fun s =>
  if s.pkg.i3cAddr.isSome || a.static != staticAddr then s
  else reply (.address a.addr) { s with pkg := { s.pkg with i3cAddr := some a.addr } }) s

def doEntdaa (a : Nat) (s : State) : State := served (fun s =>
  if s.pkg.i3cAddr.isSome then s else reply (.address a) { s with pkg := { s.pkg with i3cAddr := some a } }) s

/-- HDR_ENTRY is ignored until the HDR exit pattern (R23). -/
def doHdrEntry (s : State) : State := if s.pkg.pwrGood then { s with pkg := { s.pkg with hdrIgnore := true } } else s

/-- The alert status: one bit per row of R33 that holds, or has held since it was last read. -/
def alertBits (s : State) : Nat :=
  (([ProtectRow.inletHigh, .inletTooHigh, .flowLow, .flowTooLow, .flowLost, .leak, .junctionTrip, .undervoltage,
    .emergencyOff]).filter fun r => s.pkg.holding.contains r || s.pkg.alertStatus.contains r).foldl
      (fun a r => a + 2 ^ rowIx r) 0

def doAlertRead (s : State) : State := served (fun s =>
  reply (.alert (alertBits s)) { s with pkg := { s.pkg with alertStatus := [] } }) s

def doWake (s : State) : State := served (fun s =>
  let r := sidebandWake s
  reply (.woken r.1) r.2) s

/-- An unknown vendor code: error code 0x01, and a LOG_VIOLATION of kind 6 (log entry 8). -/
def doUnknownVendor (code : Nat) (s : State) : State := served (fun s =>
  reply (.vendorError 0x01) (logLimited (128 * (0x80 + 6))
    { code := 0x0B82, source := 10, detail := [(1, 6), (1, 0), (4, code)] } s)) s

/-- MCTP control answers: completion code 0, then the fields. -/
def doSetEid (eid : Nat) (s : State) : State := served (fun s =>
  reply (.mctp [0, eid]) { s with pkg := { s.pkg with eid := eid } }) s

def doGetEid (s : State) : State := served (fun s => reply (.mctp [0, s.pkg.eid]) s) s

/-- The versions a message type supports are not stated: a free value. -/
def doGetMctpVersion (mtype : Nat) (s : State) : State := served (fun s =>
  let r := fresh s
  reply (.mctp [0, mtype, r.1]) r.2) s

/-- Message types: PLDM (0x01) and vendor-defined PCI (0x7E); MCTP control is type 0. -/
def doGetMessageTypes (s : State) : State := served (fun s => reply (.mctp [0, 0x00, 0x01, 0x7E]) s) s

/-- Tlairain's PCI vendor ID is not stated: a free value. -/
def doGetVendorSupport (sel : Nat) (s : State) : State := served (fun s =>
  let r := fresh s
  reply (.mctp [0, sel, r.1]) r.2) s

/-- PLDM contents that the spec does not state are free values (log entry 75). -/
def pldmFree (fields : List Nat) (s : State) : State :=
  let r := fresh s
  reply (.pldm (fields ++ [r.1])) r.2

def doGettid (s : State) : State := served (pldmFree []) s
def doGetPldmVersion (t : Nat) (s : State) : State := served (pldmFree [t]) s

/-- PLDM types 0 and 2. -/
def doGetPldmTypes (s : State) : State := served (fun s => reply (.pldm [0, 2]) s) s
def doGetPldmCommands (t : Nat) (s : State) : State := served (pldmFree [t]) s
def doGetPdrRepositoryInfo (s : State) : State := served (pldmFree []) s
def doGetPdr (record : Nat) (s : State) : State := served (pldmFree [record]) s

/-- The numeric sensors of R424. -/
def numericSensor (id : Nat) : Bool :=
  (1 ≤ id && decide (id ≤ 5)) || (0x10 ≤ id && decide (id ≤ 0x18)) || (0x20 ≤ id && decide (id ≤ 0x45))

/-- A numeric reading is what the sensor measures now. An ID that is no sensor is answered with an error, whose code the
spec does not state. -/
def doGetSensorReading (id measured : Nat) (s : State) : State := served (fun s =>
  if numericSensor id then reply (.pldm [id, measured]) s
  else
    let r := fresh s
    reply (.pldmError r.1) r.2) s

/-- State sensors: leak, power state, latches. -/
def doGetStateSensor (id : Nat) (s : State) : State := served (fun s =>
  match id with
  | 0x0006 => reply (.pldm [id, b2n s.pkg.leakWet]) s
  | 0x0050 => reply (.pldm [id, pwrCode s]) s
  | 0x0051 => reply (.pldm [id, latchBits s]) s
  | _ =>
    let r := fresh s
    reply (.pldmError r.1) r.2) s

def doGetEffecter (id : Nat) (s : State) : State := served (fun s =>
  if id = 0x0100 then reply (.pldm [id, s.pwr.limit]) s
  else
    let r := fresh s
    reply (.pldmError r.1) r.2) s

/-- Effecter 0x0100 is PWR_LIMIT, 1,500-3,600 W. -/
def doSetEffecter (id v : Nat) (s : State) : State := served (fun s =>
  if id = 0x0100 && 1500 ≤ v && v ≤ 3600 then reply (.pldm [id]) { s with pwr := { s.pwr with limit := v } }
  else
    let r := fresh s
    reply (.pldmError r.1) r.2) s

def doSetEventReceiver (eid : Nat) (s : State) : State := served (fun s =>
  reply (.pldm [eid]) { s with pkg := { s.pkg with eventReceiver := some eid } }) s

/-- PLATFORMEVENTMESSAGE: the oldest waiting platform event goes out by In-Band Interrupt, not before PWR_GOOD (R22) nor
while the module ignores the bus (R23). -/
def doPlatformEvent (s : State) : State := match s.pkg.ibiQueue with
  | c :: rest => if s.pkg.i3cAddr.isSome && s.pkg.pwrGood && !s.pkg.hdrIgnore then reply (.ibi c) { s with pkg := { s.pkg with ibiQueue := rest } } else s
  | [] => s

/-- Any other PLDM type or command: ERROR_UNSUPPORTED_PLDM_CMD, which the PLDM base standard numbers 0x05 (log entry
75). -/
def doUnsupportedPldm (s : State) : State := served (fun s => reply (.pldmError 0x05) s) s

/-! ### Rows of the table -/

def execPowerGood (s : State) : Host.Outcome State Fault Refusal := .next (settle s (doPowerGood s))

def execUndervoltageTrip (s : State) : Host.Outcome State Fault Refusal := .next (settle s (doUndervoltage s))

def execUndervoltageRearm (s : State) : Host.Outcome State Fault Refusal := .next (settle s (doRearm s))

def execEmergOff (s : State) : Host.Outcome State Fault Refusal := .next (settle s (doEmergOff s))

def execInletTempHigh (reading : Nat) (s : State) : Host.Outcome State Fault Refusal :=
  .next (settle s (doInletHigh reading s))

def execInletTempTooHigh (reading : Nat) (s : State) : Host.Outcome State Fault Refusal :=
  .next (settle s (doInletTooHigh reading s))

def execFlowLow (reading : Nat) (s : State) : Host.Outcome State Fault Refusal := .next (settle s (doFlowLow reading s))

def execFlowTooLow (reading : Nat) (s : State) : Host.Outcome State Fault Refusal :=
  .next (settle s (doFlowTooLow reading s))

def execFlowLost (reading : Nat) (s : State) : Host.Outcome State Fault Refusal :=
  .next (settle s (doFlowLost reading s))

def execLeak (s : State) : Host.Outcome State Fault Refusal := .next (settle s (doLeak s))

def execJunctionTrip (die : Fin 4) (reading : Nat) (s : State) : Host.Outcome State Fault Refusal :=
  .next (settle s (doJunctionTrip die.val reading s))

def execComparatorClear (inlet flow : Nat) (s : State) : Host.Outcome State Fault Refusal :=
  .next (settle s (doComparatorClear inlet flow s))

def execLeaveFleet (s : State) : Host.Outcome State Fault Refusal := .next (settle s (doLeaveFleet s))

def execWavelengthFail (bundle : Fin 104) (lane : Fin 34) (s : State) : Host.Outcome State Fault Refusal :=
  .next (settle s (doWavelengthFail bundle.val lane.val s))

def execFirmwareBootDone (found : Option BootRecords) (s : State) : Host.Outcome State Fault Refusal :=
  .next (settle s (doFirmwareBoot found s))

def execPackageSelfTestDone (r : TestResult) (s : State) : Host.Outcome State Fault Refusal :=
  .next (settle s (doSelfTest r s))

def execAlertConditionClear (row : ProtectRow) (s : State) : Host.Outcome State Fault Refusal :=
  .next (settle s (doConditionClear row s))

def execAlertRead (s : State) : Host.Outcome State Fault Refusal := .next (settle s (doAlertRead s))

def execWake (s : State) : Host.Outcome State Fault Refusal := .next (settle s (doWake s))

def execUnknownVendorMessage (code : Nat) (s : State) : Host.Outcome State Fault Refusal :=
  .next (settle s (doUnknownVendor code s))

def execSetdasa (addr : Dasa) (s : State) : Host.Outcome State Fault Refusal := .next (settle s (doSetdasa addr s))

def execEntdaa (addr : Nat) (s : State) : Host.Outcome State Fault Refusal := .next (settle s (doEntdaa addr s))

def execHdrEntry (s : State) : Host.Outcome State Fault Refusal := .next (settle s (doHdrEntry s))

def execSetEndpointId (eid : Nat) (s : State) : Host.Outcome State Fault Refusal := .next (settle s (doSetEid eid s))

def execGetEndpointId (s : State) : Host.Outcome State Fault Refusal := .next (settle s (doGetEid s))

def execGetMctpVersionSupport (mtype : Nat) (s : State) : Host.Outcome State Fault Refusal :=
  .next (settle s (doGetMctpVersion mtype s))

def execGetMessageTypeSupport (s : State) : Host.Outcome State Fault Refusal := .next (settle s (doGetMessageTypes s))

def execGetVendorDefinedMsgSupport (sel : Nat) (s : State) : Host.Outcome State Fault Refusal :=
  .next (settle s (doGetVendorSupport sel s))

def execGettid (s : State) : Host.Outcome State Fault Refusal := .next (settle s (doGettid s))

def execGetpldmversion (ptype : Nat) (s : State) : Host.Outcome State Fault Refusal :=
  .next (settle s (doGetPldmVersion ptype s))

def execGetpldmtypes (s : State) : Host.Outcome State Fault Refusal := .next (settle s (doGetPldmTypes s))

def execGetpldmcommands (ptype : Nat) (s : State) : Host.Outcome State Fault Refusal :=
  .next (settle s (doGetPldmCommands ptype s))

def execGetpdrrepositoryinfo (s : State) : Host.Outcome State Fault Refusal :=
  .next (settle s (doGetPdrRepositoryInfo s))

def execGetpdr (record : Nat) (s : State) : Host.Outcome State Fault Refusal := .next (settle s (doGetPdr record s))

def execGetsensorreading (id measured : Nat) (s : State) : Host.Outcome State Fault Refusal :=
  .next (settle s (doGetSensorReading id measured s))

def execGetstatesensorreadings (id : Nat) (s : State) : Host.Outcome State Fault Refusal :=
  .next (settle s (doGetStateSensor id s))

def execGetnumericeffectervalue (id : Nat) (s : State) : Host.Outcome State Fault Refusal :=
  .next (settle s (doGetEffecter id s))

def execSetnumericeffectervalue (id value : Nat) (s : State) : Host.Outcome State Fault Refusal :=
  .next (settle s (doSetEffecter id value s))

def execSeteventreceiver (eid : Nat) (s : State) : Host.Outcome State Fault Refusal :=
  .next (settle s (doSetEventReceiver eid s))

def execPlatformeventmessage (s : State) : Host.Outcome State Fault Refusal := .next (settle s (doPlatformEvent s))

def execUnsupportedPldmCmd (ptype cmd : Nat) (s : State) : Host.Outcome State Fault Refusal :=
  let _ := (ptype, cmd)
  .next (settle s (doUnsupportedPldm s))

end Sys2Proof.Machine
end

