-- ==== Sys2Proof/Machine/Fabric.lean ====
section
/-! DEFINITION. The fleet as this module sees it over its live links: expected partners (R345), LINK_STATE floods
(R340), the election (R348, R349), the time tree (R350), agreement (R353-R356) and HOLD (R357, R358). -/

namespace Sys2Proof.Machine

/-! ### Partners -/

/-- Ports 28-31 are the storage-class ports S0-S3 (R362). -/
def isS (p : Nat) : Bool := decide (28 ≤ p)

/-- The gateway the map expects on an S port; 0 for none (R344). -/
def gatewayOf (s : State) (p : Nat) : Nat := ((ownMod s).map fun m => m.gws.getD (p - 28) 0).getD 0

/-- The identity the map expects on a port: serial (an S port: gateway ID), address and port; none without a link. -/
def expected (s : State) (p : Nat) : Option (Nat × Nat × Nat) :=
  if isS p then if gatewayOf s p = 0 then none else some (gatewayOf s p, 0, 0)
  else ((mapEdges (theMap s)).find? fun e => e.1 == s.dvl.addr && e.2.1 == p).bind fun e =>
    (mapModOf s e.2.2.1).map fun m => (m.serial, m.addr, e.2.2.2)

/-- Halves whose light and lanes are good (R325). -/
def goodLow (x : PortSt) : Bool := x.litLow && !(x.failedLanes.any fun l => decide (l < 4))
def goodHigh (x : PortSt) : Bool := x.litHigh && !(x.failedLanes.any fun l => decide (4 ≤ l))

/-- Ports F00-F27 that are UP. -/
def upPorts (s : State) : List Nat := (List.range 28).filter (isUp s)

/-- An identity of R434: serial, address, port. -/
def identity (serial addr port : Nat) : Nat := serial % 2 ^ 64 + addr % 2 ^ 32 * 2 ^ 64 + port % 256 * 2 ^ 96

/-! ### Flits the module originates -/


/-- Credits freed and not returned yet go out with this flit, at most 255 of a class (R327, R329); the receive counts
follow, reserved buffers first. -/
def takeReturns (p : Nat) (s : State) : Nat × Nat × State :=
  let x := portOf s p
  let a := min x.retReq 255
  let b := min x.retRsp 255
  let ra := min a x.rxReq
  let rb := min b x.rxRsp
  (a, b, setPort p (fun x => { x with
    retReq := x.retReq - a, retRsp := x.retRsp - b, rxReq := x.rxReq - ra, rxRsp := x.rxRsp - rb
    rxShared := x.rxShared - (a - ra) - (b - rb), unacked := 0, lastTx := s.now }) s)

/-- The last sequence number received in order. -/
def lastSeq (x : PortSt) : Nat := (x.rxSeq + 4095) % 4096

/-- The header a flit leaves with: its sequence number, the last one received in order, and the credits that are due, which
go back with it (R327, R328, R330). -/
def nextHdr (s : State) (p seq : Nat) : LinkHdr :=
  let x := portOf s p
  ⟨seq, some (lastSeq x), min x.retReq 255, min x.retRsp 255⟩

/-- Send a flit under a sequence number. -/
def sendAs (p seq : Nat) (f : FlitOut) (s : State) : State := emit (.flit p f (nextHdr s p seq)) (takeReturns p s).2.2

/-- Send an unsequenced flit. -/
def sendFlit (p : Nat) (f : FlitOut) (s : State) : State := sendAs p 0 f s

/-- A sequenced flit of the module's own takes the next sequence number and enters the replay buffer (R328, R330). -/
def sendNow (p : Nat) (f : FlitOut) (s : State) : State :=
  let n := (portOf s p).txSeq
  setPort p (fun x => { x with window := x.window ++ [⟨n, f, none⟩], txSeq := (n + 1) % 4096 }) (sendAs p n f s)

/-- The module's own sequenced flits that wait go out, oldest first, while 256 flits are not unacknowledged. -/
def sendWaiting : Nat → Nat → State → State
  | 0, _, s => s
  | n + 1, p, s =>
    match (portOf s p).waitOwn with
    | [] => s
    | f :: r =>
      if 256 ≤ (portOf s p).window.length then s
      else sendWaiting n p (sendNow p f (setPort p (fun x => { x with waitOwn := r }) s))

/-- Send a sequenced flit of the module's own, or let it wait for room in the replay buffer. -/
def sendSeq (p : Nat) (f : FlitOut) (s : State) : State :=
  if 256 ≤ (portOf s p).window.length || (portOf s p).waitOwn != [] then
    setPort p (fun x => { x with waitOwn := x.waitOwn ++ [f] }) s
  else sendNow p f s

/-- An IDLE flit with the acknowledgement and every credit that is due (R330). -/
def sendAck (p : Nat) (s : State) : State := sendFlit p .idle s

/-- The identity and pairs that an INIT flit carries (R326). -/
def initFlit (s : State) (p : Nat) : InitFlit :=
  let x := portOf s p
  ⟨s.dvl.serial, s.dvl.addr, getLE (theMap s) 4 4, p, goodLow x, goodHigh x, s.dvl.epoch, s.dvl.digest,
    (s.dvl.staged.map (·.epoch)).getD 0, (s.dvl.staged.map (·.digest)).getD 0⟩

def sendInit (p : Nat) (s : State) : State := sendFlit p (.init (initFlit s p)) s

/-! ### LINK_STATE (R340) -/

/-- Note a change of a link, by either of its ends as the report names it. -/
def noteLink (addr port : Nat) (up : Bool) (s : State) : State :=
  let rest := s.dvl.downLinks.filter (· != (addr, port))
  { s with dvl := { s.dvl with downLinks := if up then rest else (addr, port) :: rest } }

/-- Flood a report to every UP neighbour but one. -/
def flood (c : LinkChange) (but : Option Nat) (s : State) : State :=
  (upPorts s).foldl (fun s p => if but == some p then s else send (portOf s p).partner (.linkState c) s) s

/-- The module's own port has gone DOWN or come UP. -/
def reportLink (p : Nat) (up : Bool) (s : State) : State :=
  let ctr := (s.dvl.linkCtr + 1) % 2 ^ 32
  let s1 := noteLink s.dvl.addr p up { s with dvl := { s.dvl with linkCtr := ctr } }
  flood ⟨s.dvl.addr, p, up, ctr⟩ none s1

/-- MSG_LOST to the source of a lost message; without a live route it is held (R341). -/
def tellLost (src id mtype : Nat) (s : State) : State :=
  if reachable s src then send src (.msgLost src id mtype) s
  else { s with dvl := { s.dvl with heldLost := s.dvl.heldLost ++ [(src, id, mtype, s.now)] } }

/-- Held MSG_LOST whose source has a route again go out. -/
def sendHeld (s : State) : State :=
  let go := s.dvl.heldLost.filter fun h => reachable s h.1
  let rest := s.dvl.heldLost.filter fun h => !reachable s h.1
  go.foldl (fun s h => send h.1 (.msgLost h.1 h.2.1 h.2.2.1) s) { s with dvl := { s.dvl with heldLost := rest } }

/-! ### HOLD (R357, R358) -/

/-- Own (epoch, digest) pair as R434 gives it: epoch, then digest bits [63:0]. -/
def pairWord (epoch digest : Nat) : Nat := epoch % 2 ^ 32 + digest % 2 ^ 64 * 2 ^ 32

def raiseMismatch (cause epoch digest : Nat) (s : State) : State :=
  raise { code := 0x0809, detail := [(12, pairWord s.dvl.epoch s.dvl.digest), (12, pairWord epoch digest), (1, cause)] } s

/-- Enter HOLD: every context leaves row selection, and the module is no longer counted AGREED. -/
def enterHold (s : State) : State :=
  let s1 := { s with dvl := { s.dvl with hold := true, holdDue := false, agreed := false, holdCause := none } }
  let s2 := (activeCtxs s1).foldl (fun s e => ctxActNow e.1 (.hold .moduleHold) s) s1
  match s.dvl.holdCause with
  | some (c, e, d) => raiseMismatch c e d s2
  | none => s2

def leaveHold (s : State) : State :=
  let s1 := { s with dvl := { s.dvl with hold := false, holdEnd := false } }
  s1.vnr.ctxs.foldl (fun s e => ctxActNow e.1 (.resume .moduleHold) s) s1

/-- HOLD begins at the next frame boundary; with no active bank there is none, and it begins at once. -/
def askHold (cause : Option (Nat × Nat × Nat)) (s : State) : State :=
  if s.dvl.hold || s.dvl.holdDue then s
  else
    let s1 := { s with dvl := { s.dvl with holdDue := true, holdCause := cause } }
    if s.jig.running then s1 else enterHold s1

def askLeave (s : State) : State :=
  if !s.dvl.hold then { s with dvl := { s.dvl with holdDue := false } }
  else if s.jig.running then { s with dvl := { s.dvl with holdEnd := true } }
  else leaveHold s

/-! ### Own checks and agreement (R353-R356) -/

/-- The bank digest that counts: during a switch that of the bank that becomes active (R354). -/
def countedDigest (s : State) : Option Nat := match s.jig.pend with
  | some p =>
    if p.t ≤ s.now then (if p.idle then none else some (bankDigest (shadowBank s)))
    else if s.jig.running then some (bankDigest (activeBank s)) else none
  | none => if s.jig.running then some (bankDigest (activeBank s)) else none

/-- Is a firmware version, as ID_FW gives it, the set's (R353, R354, R391)? -/
def setFwIs (set : Bytes) (v : Nat) : Bool :=
  getLE set 0x0C 2 == v % 256 && getLE set 0x0A 2 == v / 256 % 256 && getLE set 0x08 2 == v / 65536

/-- A module's own checks (R354); at epoch 0 every digest check passes (R353). -/
def ownChecks (s : State) : Bool :=
  s.dvl.epoch == 0 ||
  (setFwIs s.dvl.set s.host.fwVersion && slice s.dvl.set 0x20 32 == sha256 (theMap s) &&
    bankRecord s.dvl.set s.dvl.addr == countedDigest s)

/-- Does a neighbour advertise our current pair? -/
def sameKeep (s : State) (k : KeepFlit) : Bool := k.epoch == s.dvl.epoch && k.digest == s.dvl.digest

/-- UP neighbours that have advertised our pair for the last 1 ms. -/
def matching (s : State) : Nat :=
  ((upPorts s).filter fun p =>
    let x := portOf s p
    (match x.nbrKeep with
    | some k => sameKeep s k
    | none => false) && decide (x.sinceMatch + 1000000 ≤ s.now)).length

/-- UP neighbours that advertise it now. -/
def equalNow (s : State) : Nat :=
  ((upPorts s).filter fun p => match (portOf s p).nbrKeep with
    | some k => sameKeep s k
    | none => false).length

def majority (s : State) (n : Nat) : Bool := decide ((upPorts s).length < 2 * n)

/-- The (epoch, digest) pair that most UP neighbours advertise. -/
def majorityPair (s : State) : Option (Nat × Nat) :=
  let ks := (upPorts s).filterMap fun p => (portOf s p).nbrKeep.map fun k => (k.epoch, k.digest)
  ks.foldl (fun b k => match b with
    | none => some k
    | some m => if (ks.filter (· == m)).length < (ks.filter (· == k)).length then some k else some m) none

def enterFleet (count : Nat) (s : State) : State :=
  if s.dvl.fleetReady then s
  else
    let s1 := { s with dvl := { s.dvl with fleetReady := true, step := 10 } }
    raise { code := 0x080A, detail := [(4, count), (4, getLE (theMap s) 0x14 4), (1, 0)] } s1

/-- AGREED modules in this module's subtree that are not in HOLD (R350). -/
def treeCount (s : State) : Nat :=
  b2n (s.dvl.agreed && !s.dvl.hold) +
    (((upPorts s).filter fun p => s.dvl.parent != some p).map fun p => (portOf s p).nbrCount).foldl (· + ·) 0

def isRoot (s : State) : Bool := s.dvl.rootSerial == s.dvl.serial && s.dvl.parent.isNone

/-- TREE flits after a change: to the parent, or at the root the FLEET_READY flood (R350). -/
def sendTree (s : State) : State := match s.dvl.parent with
  | some p => if isUp s p then sendSeq p (.tree ⟨treeCount s, false⟩) s else s
  | none => s

def floodReady (s : State) : State :=
  (upPorts s).foldl (fun s p =>
    if s.dvl.parent == some p then s else sendSeq p (.tree ⟨treeCount s, true⟩) s) s

/-- The root judges its count: FLEET_READY at the quorum, which also closes the election; a count that falls below it
later raises the event with its flag (R349, R350). -/
def judgeCount (s : State) : State :=
  if !isRoot s || s.dvl.step < 7 || s.dvl.step == 15 then s
  else
    let n := treeCount s
    let q := getLE (theMap s) 0x14 4
    if q ≤ n then
      let s1 := { s with dvl := { s.dvl with belowQuorum := false, closed := true } }
      if s.dvl.fleetReady then s1 else floodReady (enterFleet n s1)
    else if s.dvl.fleetReady && !s.dvl.belowQuorum then
      raise { code := 0x080A, detail := [(4, n), (4, q), (1, 1)] } { s with dvl := { s.dvl with belowQuorum := true } }
    else s

/-- A change of the count goes up the tree. -/
def countChanged (old : Nat) (s : State) : State := if treeCount s = old then s else sendTree (judgeCount s)

/-- Judge agreement (R356), and HOLD by the neighbours (R357, R358). -/
def evalAgree (s : State) : State :=
  let old := treeCount s
  let ok := s.dvl.locked && ownChecks s && (s.dvl.epoch == 0 || majority s (matching s))
  let step := if ok && s.dvl.step == 8 then 9 else s.dvl.step
  let s1 := { s with dvl := { s.dvl with agreed := ok && !s.dvl.hold, step := step } }
  let s2 := if ok && s1.dvl.closed && decide (9 ≤ step) && step != 15 then enterFleet (treeCount s1) s1 else s1
  let s3 := countChanged old s2
  let differ := (upPorts s3).filter fun p => match (portOf s3 p).nbrKeep with
    | some k => k.epoch == s3.dvl.epoch && k.digest != s3.dvl.digest &&
        decide ((portOf s3 p).sinceDiffer + 1000000 ≤ s3.now)
    | none => false
  let ahead := (upPorts s3).filter fun p => match (portOf s3 p).nbrKeep with
    | some k => decide (s3.dvl.epoch < k.epoch) && (s3.dvl.staged.map (·.epoch)) != some k.epoch
    | none => false
  let groupOf (l : List Nat) : List (Nat × Nat) := l.filterMap fun p => (portOf s3 p).nbrKeep.map fun k => (k.epoch, k.digest)
  let agreeing (l : List Nat) : Option (Nat × Nat) := (groupOf l).find? fun k =>
    majority s3 ((groupOf l).filter (· == k)).length
  let s4 := match agreeing ahead with
    | some (e, d) => askHold (some (0, e, d)) s3
    | none => match agreeing differ with
      | some (e, d) => if s3.dvl.epoch = 0 then s3 else askHold (some (2, e, d)) s3
      | none => s3
  if s4.dvl.hold && ownChecks s4 && (s4.dvl.epoch == 0 || majority s4 (equalNow s4)) && s4.dvl.unlockedAt.isNone then
    if s4.dvl.epoch = 0 && (agreeing ahead).isSome then s4 else askLeave s4
  else s4

/-! ### The election (R348, R349) -/

/-- A best key as a candidate: (priority, serial), address, distance, closed, epoch issued, and the port it came by. -/
structure Key where
  prio : Nat
  serial : Nat
  addr : Nat
  dist : Nat
  closed : Bool
  epochIssued : Bool
  port : Option Nat
  deriving DecidableEq, Repr

/-- Lower key first, then the least distance, then the lower port (R348). -/
def keyLe (a b : Key) : Bool :=
  if a.prio != b.prio then decide (a.prio ≤ b.prio)
  else if a.serial != b.serial then decide (a.serial ≤ b.serial)
  else if a.dist != b.dist then decide (a.dist ≤ b.dist)
  else decide (a.port.getD 0 ≤ b.port.getD 0)

def ownKey (s : State) : Key :=
  ⟨((ownMod s).map (·.prio)).getD 0, s.dvl.serial, s.dvl.addr, 0, s.dvl.closed && isRoot s, s.dvl.epochIssued && isRoot s, none⟩

/-- The keys this module knows; a closed one takes precedence over every open one (R349). The root's own serial coming
back from a neighbour is no other candidate. -/
def bestKey (s : State) : Key :=
  let nbr := (upPorts s).filterMap fun p => (portOf s p).nbrElect.bind fun e =>
    if e.serial == s.dvl.serial || 64 ≤ e.dist then none
    else some (⟨e.prio, e.serial, e.addr, e.dist + 1, e.closed, e.epochIssued, some p⟩ : Key)
  let all := ownKey s :: nbr
  let closed := all.filter (·.closed)
  let pool := if closed.isEmpty then all else closed
  (sortBy keyLe pool).headD (ownKey s)

/-- The ELECT flit a module sends. -/
def electFlit (s : State) : ElectFlit :=
  ⟨s.dvl.rootPrio, s.dvl.rootSerial, s.dvl.rootAddr, s.dvl.rootDist, s.dvl.closed, s.dvl.epochIssued⟩

def sendElects (s : State) : State := (upPorts s).foldl (fun s p => sendSeq p (.elect (electFlit s)) s) s

/-- Take part in elections from LOCAL_READY on. -/
def electing (s : State) : Bool := decide (6 ≤ s.dvl.step) && s.dvl.step != 15

/-- Adopt the best key. A module that sees itself as best starts counting from its RTC, unless it is locked already, and
issues a time epoch; a change of root raises EV_DVL_ROOT and starts the settle interval anew; any change goes out in ELECT
flits. FLEET_READY is never withdrawn (R350). -/
def electNow (s : State) : State :=
  if !electing s then s
  else
    let k := bestKey s
    let self := k.port.isNone
    let changed := k.serial != s.dvl.rootSerial || k.addr != s.dvl.rootAddr
    let issue := if self then true else k.epochIssued
    let closed := if self then s.dvl.closed && !changed else k.closed
    let news := changed || k.dist != s.dvl.rootDist || closed != s.dvl.closed || issue != s.dvl.epochIssued
    let now := if self && changed && !s.dvl.locked then max s.now s.pwr.rtc else s.now
    let s1 := { s with
      now := now
      dvl := { s.dvl with
        rootPrio := k.prio, rootSerial := k.serial, rootAddr := k.addr, rootDist := k.dist, parent := k.port, closed := closed
        epochIssued := issue, bestSince := if changed then now else s.dvl.bestSince
        step := if changed && !s.dvl.fleetReady then 6 else s.dvl.step
        offsets := if k.port = s.dvl.parent then s.dvl.offsets else [] } }
    let s2 := if changed then raise { code := 0x0807, detail := [(4, s.dvl.rootAddr), (4, k.addr)] } s1 else s1
    if news then sendElects s2 else s2

end Sys2Proof.Machine
end

