-- ==== Sys2Proof/Machine/Ports.lean ====
section
/-! DEFINITION. Ports and links (R324-R337, R342, R345): port states, sequence numbers, credits, replay, violations, the
forwarding of messages, and DVL.PORT and DVL.CONFIG. -/

namespace Sys2Proof.Machine

abbrev sDvlPort : Nat := 0x0801
abbrev sExtTimeout : Nat := 0x0802
abbrev sExtError : Nat := 0x0803

/-! ### Waits on a port -/

/-- DVL.PORT completes once the port is UP, DISABLED or DOWN (R360). -/
def completePort (p : Nat) (s : State) : State :=
  let st := (portOf s p).state
  if st = 4 || st = 0 || st = 6 then completeWaits (· == .port p) sOk [st] s else s

/-- End every EXT command outstanding on an S port (R343). -/
def endExt (sp status : Nat) (words : List Nat) (sel : ExtTag → Bool) (s : State) : State :=
  let hit := s.dvl.ext.filter fun t => t.sp == sp && sel t
  hit.foldl (fun s t => completeWaits (fun w => w == .extRead sp t.tag || w == .extWrite sp t.tag) status words s)
    { s with dvl := { s.dvl with ext := s.dvl.ext.filter fun t => !(t.sp == sp && sel t) } }

/-! ### Sending DATA flits on (R329, R336) -/

/-- Has the output a credit for a class: a reserved one, else a shared one. -/
def hasCredit (x : PortSt) (rsp : Bool) : Bool :=
  decide (0 < (if rsp then x.crRsp else x.crReq)) || decide (0 < x.crShared)

def useCredit (rsp : Bool) (x : PortSt) : PortSt :=
  if rsp then (if 0 < x.crRsp then { x with crRsp := x.crRsp - 1 } else { x with crShared := x.crShared - 1 })
  else if 0 < x.crReq then { x with crReq := x.crReq - 1 } else { x with crShared := x.crShared - 1 }

/-- Returned credits first refill the class's reserved count up to 256, and then the shared count. -/
def refill (req rsp : Nat) (x : PortSt) : PortSt :=
  let a := min req (256 - x.crReq)
  let b := min rsp (256 - x.crRsp)
  { x with crReq := x.crReq + a, crRsp := x.crRsp + b, crShared := min 1536 (x.crShared + (req - a) + (rsp - b)) }

/-- A flit's buffer on the input port is free again. -/
def freeBuffer (p : Nat) (rsp : Bool) (s : State) : State :=
  setPort p (fun x => if rsp then { x with retRsp := x.retRsp + 1 } else { x with retReq := x.retReq + 1 }) s

def sopOf (f : Bytes) : Bool := bit (getLE f 1 1) 1
def eopOf (f : Bytes) : Bool := bit (getLE f 1 1) 2
def truncOf (f : Bytes) : Bool := bit (getLE f 1 1) 3

/-- The flit as it leaves: its sequence number, acknowledgement, credit returns and crc (R327). -/
def sealFlit (f : Bytes) (seq ack req rsp : Nat) : Bytes :=
  let b := setLE (setLE (setLE (setLE f 2 2 seq) 4 2 (ack + 0x8000)) 6 1 req) 7 1 rsp
  setLE b 0xFC 4 (crc32c (slice b 0 0xFC))

/-- May this flit go out now: its class is not held by another message, the window has room, and a credit is left. -/
def canSend (x : PortSt) (w : Waiting) : Bool :=
  let holder := if w.rsp then x.txRsp else x.txReq
  decide (x.window.length < 256) && hasCredit x w.rsp &&
    (match holder with
    | some q => q == w.src
    | none => sopOf w.flit)

/-- Put a flit on the link under its sequence number; the header of a DATA flit is written into its bytes. -/
def putFlit (p seq : Nat) (f : FlitOut) (s : State) : State := match f with
  | .data b =>
    let h := nextHdr s p seq
    sendAs p seq (.data (sealFlit b seq (lastSeq (portOf s p)) h.crReq h.crRsp)) s
  | f => sendAs p seq f s

/-- Send the flits of a replay buffer again: each with the acknowledgement and the returns that are due now. -/
def putAgain (p : Nat) (w : List Unacked) (s : State) : State := w.foldl (fun s u => putFlit p u.seq u.flit s) s

/-- Send one DATA flit on. -/
def sendData (p : Nat) (w : Waiting) (s : State) : State :=
  let seq := (portOf s p).txSeq
  let hold : Option Nat := if eopOf w.flit || truncOf w.flit then none else some w.src
  let s1 := putFlit p seq (.data w.flit) s
  freeBuffer w.src w.rsp (setPort p (fun x =>
    let y := useCredit w.rsp x
    let z := if w.rsp then { y with txRsp := hold } else { y with txReq := hold }
    { z with window := z.window ++ [⟨seq, .data w.flit, some w.msg⟩], txSeq := (seq + 1) % 4096, lastRsp := w.rsp }) s1)

/-- The flit that goes out next of those that wait and can go: the two classes take turns, each oldest first (R336). -/
def nextWaiting (x : PortSt) : Option Waiting :=
  (x.waitTx.find? fun w => canSend x w && w.rsp != x.lastRsp).orElse fun _ => x.waitTx.find? (canSend x)

/-- Send what waits and can go. -/
def drainPort : Nat → Nat → State → State
  | 0, _, s => s
  | n + 1, p, s =>
    match nextWaiting (portOf s p) with
    | none => s
    | some w => drainPort n p (sendData p w (setPort p (fun x => { x with waitTx := x.waitTx.erase w }) s))

def drain (p : Nat) (s : State) : State :=
  if isUp s p then
    let s1 := sendWaiting (portOf s p).waitOwn.length p s
    drainPort (portOf s1 p).waitTx.length p s1
  else s

/-- Queue a flit for an output and send what can go. -/
def forward (p : Nat) (w : Waiting) (s : State) : State :=
  drain p (setPort p (fun x => { x with waitTx := x.waitTx ++ [w] }) s)

/-! ### Going DOWN (R333, R341) -/

/-- A flit with trunc set closes a message downstream. -/
def truncFlit (rsp : Bool) : Bytes := setLE (setLE (List.replicate 256 0) 0 1 1) 1 1 (8 + b2n rsp)

/-- The message an input port was receiving is lost: downstream it is closed by a trunc flit, and its source is told. -/
def loseOpen (q : Nat) (rsp : Bool) (o : OpenMsg) (s : State) : State :=
  let s1 := match o.onward with
    | .port p => forward p ⟨q, rsp, truncFlit rsp, (o.src, o.msgId, o.mtype)⟩ s
    | _ => s
  match o.onward with
  | .lost => s1
  | _ => tellLost o.src o.msgId o.mtype s1

/-- Messages that were leaving on a port are lost whole; the rest of each is discarded as it arrives. -/
def dropOnward (p : Nat) (s : State) : State :=
  let mark (o : Option OpenMsg) : Option OpenMsg := o.map fun m => if m.onward = .port p then { m with onward := .lost } else m
  { s with dvl := { s.dvl with ports := s.dvl.ports.map fun e =>
    (e.1, { e.2 with openReq := mark e.2.openReq, openRsp := mark e.2.openRsp }) } }

/-- What a port keeps when it goes DOWN or is disabled: its optics and its counts. -/
def coldPort (state : Nat) (x : PortSt) : PortSt :=
  { PortSt.reset with
    state := state, failedLanes := x.failedLanes, litLow := x.litLow, litHigh := x.litHigh, replay := x.replay
    lastReplay := x.lastReplay, viols := x.viols, fecCorr := x.fecCorr, fecUncorr := x.fecUncorr, margin := x.margin
    downs := x.downs, laser := x.laser, marginLane := x.marginLane }

/-- A port that was UP goes DOWN, or DISABLED by command: EV_DVL_LINK_DOWN, the messages in flight are lost, EXT commands
end, and the change is flooded. Causes: 0 replay events, 1 FEC alignment, 2 no flit, 3 light, 4 DVL.PORT, 5 retrain,
6 lanes (log entry 64). -/
def goDown (p cause : Nat) (s : State) : State :=
  let x := portOf s p
  let s0 := raise { code := 0x0801, detail := [(1, p), (1, cause), (4, x.replay), (4, (recentViols s x).length)] } s
  let s1 := setPort p (fun x => { coldPort (if cause = 4 then 0 else 6) x with downs := min 255 (x.downs + 1) }) s0
  let lost := ((x.window.filterMap (·.msg)) ++ x.waitTx.map (·.msg)).eraseDups
  let waiting := x.waitTx
  let s2 := waiting.foldl (fun s w => freeBuffer w.src w.rsp s) (dropOnward p s1)
  let s3 := lost.foldl (fun s m => tellLost m.1 m.2.1 m.2.2 s) s2
  let s4 := match x.openReq with
    | some o => loseOpen p false o s3
    | none => s3
  let s5 := match x.openRsp with
    | some o => loseOpen p true o s4
    | none => s4
  let s6 := if isS p then endExt (p - 28) sExtError [0] (fun _ => true) s5
    else electNow (countChanged (treeCount s) (reportLink p false s5))
  completePort p s6

/-- A port that was not UP fails its attempt, and the module logs the failure (R38). The spec gives the record no code; its
number is free (log entry 55). -/
def failAttempt (p : Nat) (s : State) : State :=
  let f := fresh s
  completePort p (setPort p (fun x => { coldPort 6 x with downs := min 255 (x.downs + 1) })
    (logEntry { code := 0x0880 + f.1 % 128, detail := [(1, p)] } f.2))

/-! ### Training (R325, R326, R332) -/

/-- Begin an attempt: TRAINING, with an INIT flit. -/
def beginTraining (p : Nat) (s : State) : State :=
  sendInit p (setPort p (fun x => { x with state := 2, retraining := false }) s)

/-- Retrain: the replay buffer and, but for R334, the credit counts stay. A retrain that this side begins tells the
partner. -/
def startRetrain (p : Nat) (reset tell : Bool) (s : State) : State :=
  let s1 := setPort p (fun x => { x with state := 2, retraining := true, creditReset := reset }) s
  sendInit p (if tell then sendFlit p .retrain s1 else s1)

/-- The width two sides run: 0 none, 1 HALF-LOW, 2 HALF-HIGH, 3 FULL (R362). -/
def widthOf (low high : Bool) : Nat := b2n low + b2n high * 2

/-- CHECK passed: the port is UP. After a retrain every unacknowledged flit is sent again; a fresh port starts with
sequence number 0 and full credits. -/
def goUp (p w : Nat) (i : InitFlit) (s : State) : State :=
  let x := portOf s p
  let keep : KeepFlit := ⟨i.epoch, i.digest, i.stagedEpoch, i.stagedDigest, 0⟩
  let nbr : PortSt → PortSt := fun y => { y with
    state := 4, width := w, partner := if isS p then i.serial % 2 ^ 16 else i.addr, partnerPort := i.port
    partnerSerial := i.serial, retraining := false, creditReset := false, nbrKeep := some keep, sinceMatch := s.now
    sinceDiffer := s.now, lastTx := s.now }
  if x.retraining then
    let s1 := setPort p (fun y =>
      let z := nbr y
      if x.creditReset then { z with crReq := 256, crRsp := 256, crShared := 1536, rxReq := 0, rxRsp := 0, rxShared := 0
                                     retReq := 0, retRsp := 0 } else z) s
    let s2 := putAgain p x.window s1
    let s3 := if w < x.width || (w != x.width && w != 3) then raise { code := 0x0805, detail := [(1, p), (1, w)] } s2 else s2
    completePort p (drain p s3)
  else
    let s1 := setPort p (fun y => nbr (coldPort 4 y)) s
    let s2 := raise { code := 0x0802, detail := [(1, p), (1, w), (4, (portOf s1 p).partner)] } s1
    let s3 := if isS p then s2 else sendHeld (electNow (reportLink p true s2))
    completePort p s3

/-! ### The returns every flit carries (R327, R330) -/

/-- Acknowledged flits leave the replay buffer, and credits return. -/
def takeHdr (p : Nat) (l : LinkHdr) (s : State) : State :=
  let ackd (w : List Unacked) : List Unacked := match l.ack with
    | some a => match w.findIdx? fun u => u.seq == a with
      | some k => w.drop (k + 1)
      | none => w
    | none => w
  drain p (setPort p (fun x => refill l.crReq l.crRsp { x with window := ackd x.window }) s)

/-- CHECK fails (R345): the port is MISCABLED, and the event gives both identities. A port that was UP before its retrain
goes DOWN first. -/
def miscable (p : Nat) (e : Nat) (i : InitFlit) (s : State) : State :=
  let s0 := if (portOf s p).retraining then goDown p 5 s else s
  let s1 := setPort p (fun y => { coldPort 5 y with partner := i.addr, partnerPort := i.port, partnerSerial := i.serial }) s0
  raise { code := 0x0804, detail := [(1, p), (16, e), (16, identity i.serial i.addr i.port)] } s1

/-- INIT: the partner's identity and widths. In TRAINING, and on a MISCABLED port whose partner has changed, it leads to
CHECK (R345). -/
def doInitFlit (p : Nat) (l : LinkHdr) (i : InitFlit) (s0 : State) : State :=
  let s := if (portOf s0 p).retraining then takeHdr p l s0 else s0
  let x := portOf s p
  let changed := x.state == 5 && !(x.partnerSerial == i.serial && x.partner == i.addr && x.partnerPort == i.port)
  if x.state != 2 && !changed then s
  else
    let w := widthOf (goodLow x && i.low) (goodHigh x && i.high)
    if w = 0 then (if x.retraining then goDown p 6 s else failAttempt p s)
    else
      let found := if isS p then (i.serial, 0, 0) else (i.serial, i.addr, i.port)
      match expected s p with
      | some e =>
        if e == found then goUp p w i s else miscable p (identity e.1 e.2.1 e.2.2) i s
      | none => miscable p 0 i s

/-! ### Sequence numbers and violations (R330, R331, R334) -/

/-- A NAK names the expected sequence number. -/
def sendNak (p : Nat) (s : State) : State :=
  setPort p (fun x => { x with nakSent := true }) (sendFlit p (.nak (portOf s p).rxSeq) s)

/-- Flits out of sequence are discarded until the expected number arrives: one NAK for them all (R331). -/
def nakOnce (p : Nat) (s : State) : State := if (portOf s p).nakSent then s else sendNak p s

/-- A protocol violation (R334): the flit is discarded, a NAK returned if it was sequenced, the violation logged at most
once per 1 ms per port, and counted; more than 64 within one second force a retrain that resets the credits. Kinds follow
the order of R334 from 16 (log entry 8). -/
def linkViolation (p kind value : Nat) (sequenced : Bool) (s : State) : State :=
  let vs := (s.now, kind) :: recentViols s (portOf s p)
  let s1 := if sequenced then sendNak p s else s
  let s2 := logLimited (128 * (0x80 + 16) + 64 + p)
    { code := 0x0B82, detail := [(1, 16 + kind), (1, p), (4, value)] } s1
  let s3 := setPort p (fun x => { x with viols := vs.take 65535 }) s2
  if 64 < vs.length then
    startRetrain p true true (raise { code := 0x0803, detail := [(1, p), (1, 16 + ((vs.getLast?).map (·.2)).getD 0)] } s3)
  else s3

/-- What a sequence number is against the expected one: the next, a gap, too far ahead, or a flit already received (up to
half the space behind; log entry 120). -/
inductive SeqCase where
  | next | gap | far | old
  deriving DecidableEq, Repr

def seqCase (x : PortSt) (seq : Nat) : SeqCase :=
  let d := (seq + 4096 - x.rxSeq) % 4096
  if d = 0 then .next else if d ≤ 256 then .gap else if d < 2048 then .far else .old

/-- The flit with the expected number has been taken: at least every 32 flits are acknowledged. -/
def acceptSeq (p : Nat) (s : State) : State :=
  let s1 := setPort p (fun x => { x with rxSeq := (x.rxSeq + 1) % 4096, nakSent := false, unacked := x.unacked + 1 }) s
  if 32 ≤ (portOf s1 p).unacked then sendAck p s1 else s1

/-- A sequenced flit of the fabric's own (ELECT, TREE): its effect follows if it is the next one. -/
def sequenced (p : Nat) (l : LinkHdr) (body : State → State) (s : State) : State :=
  if !isUp s p then s
  else
    let s1 := takeHdr p l s
    match seqCase (portOf s1 p) l.seq with
    | .next => body (acceptSeq p s1)
    | .gap | .old => nakOnce p s1
    | .far => linkViolation p 2 l.seq true s1

/-! ### DATA flits (R334, R336, R337) -/

/-- The message types of R338 allowed on a port: EXT messages on S ports, and from a gateway only its own (R342). -/
def mtypeOk (p mtype : Nat) : Bool :=
  if isS p then mtype == 0x0702 || mtype == 0x0704 || mtype == 0x0705
  else (0x0101 ≤ mtype && decide (mtype ≤ 0x0107)) || mtype == 0x0201 || (0x0301 ≤ mtype && decide (mtype ≤ 0x0303)) ||
    (0x0401 ≤ mtype && decide (mtype ≤ 0x0404)) || mtype == 0x0501 || mtype == 0x0502 || mtype == 0x0601 || mtype == 0x0602

/-- The routing header of a message's first flit. -/
def routeHdr (f : Bytes) : Bytes := slice f 8 32

def routeOk (s : State) (p : Nat) (h : Bytes) : Bool :=
  (if isS p then getLE h 0 4 == s.dvl.addr && getLE h 4 4 == gatewayOf s p
   else decide (getLE h 0 4 < 2 ^ 17) && decide (getLE h 4 4 < 2 ^ 17)) && mtypeOk p (getLE h 8 2) &&
  decide (getLE h 0x0A 1 ≤ 64) && decide (getLE h 0x0B 1 < 2) && decide (getLE h 0x0C 4 ≤ 65600) && zeroAt h [(0x18, 8)]

/-- A free receive buffer of the class, or of the shared pool (R329). -/
def takeBuffer (rsp : Bool) (x : PortSt) : Option PortSt :=
  if rsp && decide (x.rxRsp < 256) then some { x with rxRsp := x.rxRsp + 1 }
  else if !rsp && decide (x.rxReq < 256) then some { x with rxReq := x.rxReq + 1 }
  else if x.rxShared < 1536 then some { x with rxShared := x.rxShared + 1 } else none

/-- Does the link on a port lead down (R339)? -/
def leadsDown (s : State) (p : Nat) : Bool :=
  !linkUp (rankTable (theMap s)) s.dvl.addr (portOf s p).partner

/-- The first flit of a message, sent on: one more hop, and the down bit once a down link is taken. -/
def hopFlit (s : State) (out : Nat) (f : Bytes) : Bytes :=
  let f1 := setLE f 0x12 1 (getLE f 0x12 1 + 1)
  setLE f1 0x13 1 (if leadsDown s out then 1 else getLE f 0x13 1)

def setOpen (p : Nat) (rsp : Bool) (o : Option OpenMsg) (s : State) : State :=
  setPort p (fun x => if rsp then { x with openRsp := o } else { x with openReq := o }) s

/-- The first flit opens its message: for this module, onward on the first candidate that is UP, or lost. -/
def openMsg (p : Nat) (f : Bytes) (s : State) : OpenMsg × State :=
  let h := routeHdr f
  let m : OpenMsg := ⟨.here, getLE h 4 4, getLE h 0x10 4, getLE h 8 2, getLE h 0x0C 4, getLE h 0x14 4, []⟩
  if getLE h 0 4 = s.dvl.addr || isS p then (m, s)
  else if getLE h 0x0A 1 = 64 then
    ({ m with onward := .lost }, logEntry { code := 0x0B82, detail := [(1, 16 + 5), (1, p), (4, getLE h 0x10 4)] } s)
  else match routePort s (getLE h 0 4) (bit (getLE h 0x0B 1) 0) with
    | some out => ({ m with onward := .port out }, s)
    | none => ({ m with onward := .lost }, tellLost m.src m.msgId m.mtype s)

/-- One accepted flit of an open message: kept for this module, or sent on. At eop a body that fails its CRC is discarded,
counted, and handled as lost. The effect of a whole message for this module is its own row's. -/
def takeFlit (p : Nat) (rsp : Bool) (m : OpenMsg) (f : Bytes) (s : State) : State :=
  let ends := eopOf f || truncOf f
  match m.onward with
  | .port out =>
    let f1 := if sopOf f then hopFlit s out f else f
    forward out ⟨p, rsp, f1, (m.src, m.msgId, m.mtype)⟩ (setOpen p rsp (if ends then none else some m) s)
  | .lost => freeBuffer p rsp (setOpen p rsp (if ends then none else some m) s)
  | .here =>
    let body := m.body ++ (if sopOf f then slice f 40 208 else slice f 8 240)
    let s1 := freeBuffer p rsp (setOpen p rsp (if ends then none else some { m with body := body }) s)
    if !eopOf f || truncOf f then s1
    else if crc32c (slice body 0 m.length) = m.crc && m.length ≤ body.length then s1
    else
      let s2 := { s1 with dvl := { s1.dvl with msgCrcCnt := satInc s1.dvl.msgCrcCnt } }
      if isS p then s2 else tellLost m.src m.msgId m.mtype s2

/-- DATA: the flit with the next sequence number is taken, unless it violates the protocol. -/
def doDataFlit (p : Nat) (raw : Bytes) (s : State) : State :=
  let f := slice raw 0 256
  let ty := getLE f 0 1
  let fl := getLE f 1 1
  let seqF := getLE f 2 2
  let ackF := getLE f 4 2
  if !isUp s p then s
  else if crc32c (slice f 0 0xFC) != getLE f 0xFC 4 then sendNak p s
  else if 9 ≤ ty || 16 ≤ fl || 4096 ≤ seqF || bits ackF 14 12 != 0 then linkViolation p 0 ty (ty == 1) s
  else
    let l : LinkHdr := ⟨seqF, if bit ackF 15 then some (ackF % 4096) else none, getLE f 6 1, getLE f 7 1⟩
    let s1 := takeHdr p l s
    if ty != 1 then s1
    else
      let rsp := bit fl 0
      let x := portOf s1 p
      let open_ := if rsp then x.openRsp else x.openReq
      match seqCase x seqF with
      | .gap | .old => nakOnce p s1
      | .far => linkViolation p 2 seqF true s1
      | .next =>
        match takeBuffer rsp x with
        | none => linkViolation p 1 seqF true s1
        | some y =>
          if sopOf f && open_.isSome || !sopOf f && open_.isNone then linkViolation p 3 seqF true s1
          else if sopOf f && !routeOk s p (routeHdr f) then linkViolation p 4 (getLE (routeHdr f) 8 2) true s1
          else
            let s2 := acceptSeq p (setPort p (fun _ => y) s1)
            match open_ with
            | some m => takeFlit p rsp m f s2
            | none =>
              let r := openMsg p f s2
              takeFlit p rsp r.1 f r.2

/-! ### Other link rows -/

def doIdleFlit (p : Nat) (l : LinkHdr) (s : State) : State := if isUp s p then takeHdr p l s else s

/-- NAK: a replay event; every flit from the named number on is sent again. -/
def doNak (p : Nat) (l : LinkHdr) (seq : Nat) (s : State) : State :=
  if !isUp s p then s
  else
    let s1 := setPort p (fun x => { x with replay := x.replay + 1 }) (takeHdr p l s)
    putAgain p ((portOf s1 p).window.dropWhile fun u => u.seq != seq) s1

def doRetrainFlit (p : Nat) (l : LinkHdr) (s : State) : State :=
  if isUp s p then startRetrain p false false (takeHdr p l s) else s

/-- ACK_TIMER: at least every 1 µs what has been received is acknowledged. -/
def doAckTimer (p : Nat) (s : State) : State :=
  let x := portOf s p
  if isUp s p && (x.unacked != 0 || x.retReq != 0 || x.retRsp != 0) then sendAck p s else s

/-- LIGHT_DETECT (R326): light on every receive fibre of a half takes a DARK port to TRAINING. On F00 or F01 after
darkness it wakes a sleeping module (R416). -/
def doLightDetect (p : Nat) (low high : Bool) (s : State) : State :=
  let tap := decide (p < 2) && (low || high)
  let s1 := setPort p (fun x => { x with litLow := x.litLow || low, litHigh := x.litHigh || high }) s
  let s2 := { s1 with pwr := { s1.pwr with dark := s1.pwr.dark && !tap } }
  let s3 := if tap && s.pwr.dark then wakeSource 2 s2 else s2
  let x := portOf s3 p
  if x.state = 1 && s3.pwr.state == .active && (x.litLow || x.litHigh) then beginTraining p s3 else s3

/-- LIGHT_LOSS: no light on any lane of the width. -/
def doLightLoss (p : Nat) (s : State) : State :=
  let s1 := setPort p (fun x => { x with litLow := false, litHigh := false }) s
  let s2 := { s1 with pwr := { s1.pwr with dark :=
    !((portOf s1 0).litLow || (portOf s1 0).litHigh || (portOf s1 1).litLow || (portOf s1 1).litHigh) } }
  let x := portOf s p
  if x.state = 4 || x.retraining then goDown p 3 s2 else if x.state = 2 then failAttempt p s2 else s2

/-- LANE_LOSS (R325): a lane of the current width is lost: the port retrains at the widest remaining width, or is DOWN. -/
def doLaneLoss (p lane : Nat) (s : State) : State :=
  let x := portOf s p
  let s1 := setPort p (fun x => { x with failedLanes := (lane :: x.failedLanes).eraseDups }) s
  let used := if lane < 4 then bit x.width 0 else bit x.width 1
  let y := portOf s1 p
  if x.state != 4 || !used then s1
  else if !goodLow y && !goodHigh y then goDown p 6 s1
  else startRetrain p false true s1

def doTrainingTimeout (p : Nat) (s : State) : State :=
  if (portOf s p).state = 2 && !(portOf s p).retraining then failAttempt p s else s

def doRetryTimer (p : Nat) (s : State) : State := if (portOf s p).state = 6 then beginTraining p s else s

def doRetrainTimeout (p : Nat) (s : State) : State := if (portOf s p).retraining then goDown p 5 s else s

/-- REPLAY_WINDOW_TIMER (R333): more than N_ev replay events in N_win windows in a row take the port DOWN. -/
def doReplayWindow (p : Nat) (s : State) : State :=
  let x := portOf s p
  let many := if s.dvl.nEv < x.replay then x.overWindows + 1 else 0
  let s1 := setPort p (fun x => { x with lastReplay := x.replay, overWindows := many }) s
  let s2 := if x.state = 4 && s.dvl.nWin ≤ many then goDown p 0 s1 else s1
  setPort p (fun x => { x with replay := 0 }) s2

def doFecLoss (p : Nat) (s : State) : State := if isUp s p then goDown p 1 s else s
def doNoFlit (p : Nat) (s : State) : State := if isUp s p then goDown p 2 s else s

/-- LIVE_CAL_TIMER (R335): the eye margin of a lane, in percent of the factory margin; below the plan's threshold
EV_DVL_MARGIN, at zero a retrain. -/
def doLiveCal (p lane margin : Nat) (s : State) : State :=
  let x := portOf s p
  let was := tget 100 x.marginLane lane
  let lanes := tset x.marginLane lane margin
  let s1 := setPort p (fun x => { x with
    marginLane := lanes, margin := (lanes.map (·.2)).foldl min (lanes.map (·.2) |>.headD margin) }) s
  let thr := s.pwr.plan.eyeMargin
  let s2 := if margin < thr && thr ≤ was then
    raise { code := 0x0806, detail := [(1, p), (1, lane), (1, margin)] } s1 else s1
  if margin = 0 && isUp s2 p then startRetrain p false true s2 else s2

/-- LASER_BIAS_TIMER (R335): a lane's bias moves toward what it needs, by at most 0.5 % and up to the plan's ceiling; in
tenths of a percent of the factory bias. -/
def doLaserBias (p lane want : Nat) (s : State) : State :=
  let x := portOf s p
  let cur := tget 1000 x.laser lane
  let ceil := 10 * tget 115 s.pwr.plan.laserCeil (8 * p + lane)
  let step := if cur ≤ want then min want (cur + 5) else max want (cur - 5)
  setPort p (fun x => { x with laser := tset x.laser lane (min step ceil) }) s

/-! ### Bring-up of the ports (R346) -/

/-- A port starts: DARK, or TRAINING where there is light (R326). -/
def startPort (p : Nat) (s : State) : State :=
  let x := portOf s p
  if x.litLow || x.litHigh then beginTraining p s else setPort p (fun x => { x with state := 1 }) s

/-- The ports start; an S port without a gateway stays DISABLED (R342). -/
def startPorts (s : State) : State :=
  (List.range 32).foldl (fun s p => if isS p && gatewayOf s p = 0 then s else startPort p s) s

/-- GDDR7_TRAINING_DONE (R293, R305, R308, R316): slower devices raise EV_OBJ_GDDR_DEGRADED, failed flash dies and old
blocks are dealt with, and port bring-up starts; a dead device or an absent block map gives OUT. -/
def doGddrDone (r : TrainResult) (s : State) : State :=
  if s.dvl.step != 3 then s
  else if r.dead || !r.mapValid then goOut 3 s
  else
    let s1 := r.slow.foldl (fun s d =>
      raise { code := 0x0707, source := 4 + d.1.val / 16, detail := [(1, d.1.val), (1, d.2)] }
        { s with mem := { s.mem with gddrRate := tset s.mem.gddrRate d.1.val d.2 } }) s
    let s2 := r.flashFailed.foldl (fun s d => doFlashDieFailed d.1.val d.2.val s) s1
    let s3 := r.aged.foldl (fun s k => doBlockRefresh (k / 65536 / 4) (k / 65536 % 4) (k % 65536) s) s2
    startPorts { s3 with mem := { s3.mem with gddrReady := true }, dvl := { s3.dvl with step := 4 } }

/-- PORT_BRINGUP_DONE (R345, R346): failed ports stay DOWN; a module that is not in its map is OUT; else LOCAL_READY. -/
def doBringupDone (s : State) : State :=
  if s.dvl.step != 4 && s.dvl.step != 5 then s
  else if !((mapMods (theMap s)).any fun m => m.serial == s.dvl.serial) ||
      (match s.dvl.install with
        | some i => i != getLE (theMap s) 4 4
        | none => false) then goOut 5 s
  else electNow { s with dvl := { s.dvl with step := 6 } }

/-! ### Commands (R360) -/

def doDvlQuery (src : Src) (p : Bytes) (s : State) : State :=
  start ⟨src, 0x0801, .dvlQuery src p, false, [(1, 47)], p⟩ (fun s =>
    let n := getLE p 0 1
    if 32 ≤ n then complete src sBadField [] s else complete src sOk (dvlPortWords s n) s) s

def doDvlConfig (src : Src) (p : Bytes) (s : State) : State :=
  start ⟨src, 0x0802, .dvlConfig src p, true, [(3, 45)], p⟩ (fun s =>
    let ev := getLE p 0 2
    let win := getLE p 2 1
    if ev < 16 || win < 1 || 64 < win then complete src sBadField [] s
    else complete src sOk [] { s with dvl := { s.dvl with nEv := ev, nWin := win } }) s

def doDvlPort (src : Src) (p : Bytes) (s : State) : State :=
  start ⟨src, 0x0803, .dvlPort src p, true, [(2, 46)], p⟩ (fun s =>
    let n := getLE p 0 1
    let act := getLE p 1 1
    let x := portOf s n
    if 32 ≤ n || 2 < act then complete src sBadField [] s
    else if isS n && gatewayOf s n = 0 then complete src sDvlPort [] s
    else match act with
      | 0 =>
        if x.state = 4 then complete src sOk [4] s
        else
          let s1 := await src (.port n) s
          if x.state = 0 then startPort n s1 else s1
      | 1 =>
        let s1 := await src (.port n) s
        if x.state = 4 || x.retraining then goDown n 4 s1
        else completePort n (setPort n (coldPort 0) s1)
      | _ =>
        if x.state = 4 then startRetrain n false true (await src (.port n) s) else complete src sDvlPort [] s) s

/-! ### Rows of the table -/

def execGddr7TrainingDone (r : TrainResult) (s : State) : Host.Outcome State Fault Refusal :=
  .next (settle s (doGddrDone r s))

def execPortBringupDone (s : State) : Host.Outcome State Fault Refusal := .next (settle s (doBringupDone s))

def execLightDetect (port : Fin 32) (low high : Bool) (s : State) : Host.Outcome State Fault Refusal :=
  .next (settle s (doLightDetect port.val low high s))

def execLightLoss (port : Fin 32) (s : State) : Host.Outcome State Fault Refusal :=
  .next (settle s (doLightLoss port.val s))

def execLaneLoss (port : Fin 32) (lane : Fin 8) (s : State) : Host.Outcome State Fault Refusal :=
  .next (settle s (doLaneLoss port.val lane.val s))

def execPortTrainingTimeout (port : Fin 32) (s : State) : Host.Outcome State Fault Refusal :=
  .next (settle s (doTrainingTimeout port.val s))

def execPortRetryTimer (port : Fin 32) (s : State) : Host.Outcome State Fault Refusal :=
  .next (settle s (doRetryTimer port.val s))

def execRetrainTimeout (port : Fin 32) (s : State) : Host.Outcome State Fault Refusal :=
  .next (settle s (doRetrainTimeout port.val s))

def execReplayWindowTimer (port : Fin 32) (s : State) : Host.Outcome State Fault Refusal :=
  .next (settle s (doReplayWindow port.val s))

def execFecAlignLoss (port : Fin 32) (s : State) : Host.Outcome State Fault Refusal :=
  .next (settle s (doFecLoss port.val s))

def execNoFlitTimeout (port : Fin 32) (s : State) : Host.Outcome State Fault Refusal :=
  .next (settle s (doNoFlit port.val s))

def execInit (port : Fin 32) (l : LinkHdr) (i : InitFlit) (s : State) : Host.Outcome State Fault Refusal :=
  .next (settle s (doInitFlit port.val l i s))

def execData (port : Fin 32) (flit : Bytes) (s : State) : Host.Outcome State Fault Refusal :=
  .next (settle s (doDataFlit port.val flit s))

def execIdle (port : Fin 32) (l : LinkHdr) (s : State) : Host.Outcome State Fault Refusal :=
  .next (settle s (doIdleFlit port.val l s))

def execNak (port : Fin 32) (l : LinkHdr) (seq : Nat) (s : State) : Host.Outcome State Fault Refusal :=
  .next (settle s (doNak port.val l seq s))

def execRetrain (port : Fin 32) (l : LinkHdr) (s : State) : Host.Outcome State Fault Refusal :=
  .next (settle s (doRetrainFlit port.val l s))

def execAckTimer (port : Fin 32) (s : State) : Host.Outcome State Fault Refusal :=
  .next (settle s (doAckTimer port.val s))

def execLiveCalTimer (port : Fin 32) (lane : Fin 8) (margin : Nat) (s : State) : Host.Outcome State Fault Refusal :=
  .next (settle s (doLiveCal port.val lane.val margin s))

def execLaserBiasTimer (port : Fin 32) (lane : Fin 8) (want : Nat) (s : State) : Host.Outcome State Fault Refusal :=
  .next (settle s (doLaserBias port.val lane.val want s))

def execDvlQuery (src : Src) (p : Bytes) (s : State) : Host.Outcome State Fault Refusal :=
  .next (settle s (doDvlQuery src p s))

def execDvlConfig (src : Src) (p : Bytes) (s : State) : Host.Outcome State Fault Refusal :=
  .next (settle s (doDvlConfig src p s))

def execDvlPort (src : Src) (p : Bytes) (s : State) : Host.Outcome State Fault Refusal :=
  .next (settle s (doDvlPort src p s))

end Sys2Proof.Machine
end

