-- ==== Sys2Proof/Machine/Fleet.lean ====
section
/-! DEFINITION. Election, fabric time, the time tree, keep-alives and fleet configuration (R347-R359): their flits, timers
and commands. -/

namespace Sys2Proof.Machine

abbrev sCfgEpoch : Nat := 0x0804
abbrev sCfgTime : Nat := 0x0805
abbrev sCfgSet : Nat := 0x0806
abbrev sCfgPending : Nat := 0x0807

/-! ### Election (R348, R349) -/

def doElect (p : Nat) (l : LinkHdr) (e : ElectFlit) (s : State) : State :=
  sequenced p l (fun s => electNow (setPort p (fun x => { x with nbrElect := some e }) s)) s

def doElectTimer (s : State) : State := if electing s then sendElects s else s

/-- Time lock: step 8, and the RTC takes fabric time (R351). -/
def lockTime (s : State) : State :=
  { s with
    pwr := { s.pwr with rtc := s.now }
    dvl := { s.dvl with locked := true, unlockedAt := none, step := if s.dvl.step = 7 then 8 else s.dvl.step } }

/-- ELECT_SETTLE_TIMER: the best key has been unchanged for 250 ms, and every UP neighbour advertises it: ELECTED. The
root counts its own time and is locked; a new root of a fleet that was ready closes the election again. -/
def doElectSettle (s : State) : State :=
  let all := (upPorts s).all fun p => match (portOf s p).nbrElect with
    | some e => e.prio == s.dvl.rootPrio && e.serial == s.dvl.rootSerial
    | none => false
  if !electing s || (upPorts s).isEmpty || !all then s
  else
    let s1 := advance (s.dvl.bestSince + 250000000) s
    let s2 := { s1 with dvl := { s1.dvl with step := max s1.dvl.step 7 } }
    if isRoot s2 then
      let s3 := lockTime s2
      let s4 := if s3.dvl.fleetReady && !s3.dvl.closed then sendElects { s3 with dvl := { s3.dvl with closed := true } } else s3
      evalAgree s4
    else s2

/-- ROOT_LOST_TIMER: no ELECT of the root for 10 ms: what the neighbours said of it is dropped, and the live modules elect
again with closed clear. -/
def doRootLost (s : State) : State :=
  if !electing s || isRoot s then s
  else
    let drop (x : PortSt) : PortSt := { x with nbrElect := x.nbrElect.filter fun e => e.serial != s.dvl.rootSerial }
    electNow { s with dvl := { s.dvl with
      closed := false, ports := s.dvl.ports.map fun e => (e.1, drop e.2) } }

/-! ### Fabric time (R351, R352) -/

/-- The module's time in tenths of ns, as TSYNC flits carry it. -/
def stamp (s : State) : Int := 10 * s.now

/-- What opens an exchange with the parent: t1. -/
def tsyncOut (s : State) : TsyncFlit := ⟨stamp s, 0, 0, 0, s.dvl.locked⟩

/-- What answers a child: its t1, with t2 and t3, and whether this module is locked. -/
def tsyncBack (s : State) (t : TsyncFlit) : TsyncFlit := ⟨t.t1, stamp s, stamp s, 0, s.dvl.locked⟩

def doTsyncTimer (s : State) : State := match s.dvl.parent with
  | some p => if isUp s p then sendFlit p (.tsync (tsyncOut s)) s else s
  | none => s

/-- Offset of the parent's time from the module's, in tenths of ns. -/
def offsetOf (t : TsyncFlit) : Int := ((t.t2 - t.t1) - (t.t4 - t.t3)) / 2

/-- A corrected instant. -/
def corrected (now : Nat) (off : Int) : Nat := ((now : Int) + off / 10).toNat

/-- TSYNC: a child's is answered. With the parent's answer the counter is corrected in rate (by a free value, log entry 67)
and phase; 16 offsets of at most 5 ns with a locked parent lock the time, an error above 20 ns unlocks it. A module that was
locked to another part's time slews up to 1 µs and otherwise enters HOLD and steps. -/
def doTsync (p : Nat) (l : LinkHdr) (t : TsyncFlit) (s0 : State) : State :=
  if !isUp s0 p then s0
  else
    let s := takeHdr p l s0
    if s.dvl.parent != some p then
      if t.t2 = 0 && t.t3 = 0 then sendFlit p (.tsync (tsyncBack s t)) s else s
    else
      let off := offsetOf t
      let (r, s1) := fresh s
      let offs := (off :: s.dvl.offsets).take 16
      let s2 := { s1 with
        now := corrected s1.now off
        dvl := { s1.dvl with offsets := offs, rate := (r : Int), estError := off.natAbs / 10 } }
      let good := t.parentLocked && offs.length == 16 && offs.all fun o => decide (o.natAbs ≤ 50)
      if good && decide (7 ≤ s2.dvl.step) && s2.dvl.step != 15 then
        if s2.dvl.locked then s2 else evalAgree (lockTime s2)
      else if s2.dvl.locked && decide (200 < off.natAbs) then
        let err := (off / 10).toNat
        let e : Nat := if off < 0 then 2 ^ 32 - (off.natAbs / 10) % 2 ^ 32 else err
        let s3 := raise { code := 0x0808, detail := [(4, e), (1, p)] }
          { s2 with dvl := { s2.dvl with locked := false, unlockedAt := some s2.now } }
        if 10000 < off.natAbs then askHold none s3 else s3
      else s2

/-- TIME_UNLOCK_TIMER: unlocked for 100 ms. -/
def doTimeUnlock (s : State) : State := match s.dvl.unlockedAt with
  | some t => askHold none (advance (t + 100000000) s)
  | none => s

/-- RTC_WRITE_TIMER: fabric time is written into the RTC every hour. -/
def doRtcWrite (s : State) : State := if s.dvl.locked then { s with pwr := { s.pwr with rtc := s.now } } else s

/-! ### The time tree (R350) -/

/-- TREE: a neighbour's count, or the FLEET_READY flood from the parent. -/
def doTree (p : Nat) (l : LinkHdr) (t : TreeFlit) (s : State) : State :=
  sequenced p l (fun s =>
    let old := treeCount s
    if s.dvl.parent == some p then
      if t.fleetReady && !s.dvl.fleetReady then floodReady (enterFleet t.count s) else s
    else countChanged old (judgeCount (setPort p (fun x => { x with nbrCount := t.count }) s))) s

def doTreeTimer (s : State) : State := if electing s then sendTree s else s

/-! ### Keep-alives (R355) -/

def keepFlit (s : State) : KeepFlit :=
  ⟨s.dvl.epoch, s.dvl.digest, (s.dvl.staged.map (·.epoch)).getD 0, (s.dvl.staged.map (·.digest)).getD 0,
   (s.dvl.staged.map (·.t)).getD 0⟩

def doKeepaliveTimer (p : Nat) (s : State) : State :=
  if isUp s p then sendFlit p (.keepalive (keepFlit s)) s else s

/-- Is a comparison suspended: within 10 µs of a T that both have staged? -/
def nearT (s : State) (k : KeepFlit) : Bool := match s.dvl.staged with
  | some g => k.stagedEpoch == g.epoch && k.stagedT == g.t && decide (s.now ≤ g.t + 10000) && decide (g.t ≤ s.now + 10000)
  | none => false

/-- KEEPALIVE: since when has the neighbour advertised our pair, or another? -/
def doKeepalive (p : Nat) (l : LinkHdr) (k : KeepFlit) (s : State) : State :=
  if !isUp s p then s
  else
    let s1 := takeHdr p l s
    if nearT s1 k then s1
    else
      let x := portOf s1 p
      let was := (x.nbrKeep.map (sameKeep s1)).getD false
      let is_ := sameKeep s1 k
      let s2 := setPort p (fun x => { x with
        nbrKeep := some k
        sinceMatch := if was && is_ then x.sinceMatch else s1.now
        sinceDiffer := if !was && !is_ then x.sinceDiffer else s1.now }) s1
      evalAgree s2

/-- DIGEST_CHECK_TIMEOUT (R356): 1 s after TIME_LOCKED the module is not AGREED. The event's cause 3 stands for this rule
(log entry 68). -/
def doDigestTimeout (s : State) : State :=
  if !s.dvl.locked || s.dvl.agreed then s
  else
    let m := (majorityPair s).getD (0, 0)
    raiseMismatch 3 m.1 m.2 { s with dvl := { s.dvl with mismatchRaised := true } }

/-! ### Fleet configuration (R353, R359, R360) -/

/-- Ascending without repeats. -/
def ascending : List Nat → Bool
  | a :: b :: r => decide (a < b) && ascending (b :: r)
  | _ => true

/-- The form of a configuration set (R353). -/
def setOk (b : Bytes) (epoch : Nat) : Bool :=
  let n := getLE b 0x14 4
  getLE b 0 4 == 0x4643_5855 && getLE b 4 4 == epoch && getLE b 0x0E 2 == 0 && getLE b 0x10 4 == 3 &&
  decide (n ≤ 131072) && decide (0x40 + 20 * n ≤ b.length) &&
  (List.range n).all (fun i => decide (getLE b (0x40 + 20 * i) 4 < 2 ^ 17)) &&
  ascending ((List.range n).map fun i => getLE b (0x40 + 20 * i) 4)

/-- The set's bytes without what lies beyond its records. -/
def setBytes (b : Bytes) : Bytes := slice b 0 (0x40 + 20 * getLE b 0x14 4)

/-- The dry-fit digest: SHA-256 over bytes 0x08-0x17 and bytes 0x20 to the end (R353). -/
def setDigest (b : Bytes) : Nat := digest128 (slice b 8 16 ++ b.drop 0x20)

/-- Bytes of a map (R344). -/
def mapLen (m : Bytes) : Nat := 64 + 32 * getLE m 0x0C 4 + 8 * getLE m 0x10 4

/-- S ports follow the gateways of a new map (R342): one without a gateway is DISABLED, one that has got a gateway starts. -/
def recheckGateways (old s : State) : State :=
  [28, 29, 30, 31].foldl (fun s p =>
    let x := portOf s p
    if gatewayOf s p = 0 then
      if x.state = 0 then s else if x.state = 4 || x.retraining then goDown p 4 s else setPort p (coldPort 0) s
    else if gatewayOf old p = 0 && x.state == 0 then startPort p s
    else s) s

/-- A link whose partner the new map does not name is MISCABLED; routes re-converge (R359). -/
def recheckPorts (s : State) : State :=
  (List.range 32).foldl (fun s p =>
    let x := portOf s p
    let found := if isS p then (x.partnerSerial, 0, 0) else (x.partnerSerial, x.partner, x.partnerPort)
    if x.state != 4 || expected s p == some found then s
    else
      let e := (expected s p).getD (0, 0, 0)
      let s1 := goDown p 4 s
      raise { code := 0x0804, detail := [(1, p), (16, identity e.1 e.2.1 e.2.2), (16, identity found.1 found.2.1 found.2.2)] }
        (setPort p (fun y => { y with state := 5, partner := x.partner, partnerPort := x.partnerPort
                                      partnerSerial := x.partnerSerial }) s1)) s

/-- The staged set takes effect. A new map is the installation map from now on (R316 record 0x0002). -/
def applySet (g : Staged) (s : State) : State :=
  let s1 := { s with dvl := { s.dvl with
    epoch := g.epoch, digest := g.digest, set := g.set, staged := none, map := g.map.orElse fun _ => s.dvl.map } }
  let s2 := match g.map with
    | some m => judgeCount (recheckPorts (recheckGateways s
        (writeRecord 0x0002 m { s1 with dvl := { s1.dvl with addr := addrOf m s1.dvl.serial } })))
    | none => s1
  let m := (majorityPair s2).getD (0, 0)
  evalAgree (if ownChecks s2 then s2 else askHold (some (1, m.1, m.2)) s2)

/-- CFG.STAGE. -/
def doCfgStage (src : Src) (p : Bytes) (s : State) : State :=
  start ⟨src, 0x0811, .cfgStage src p, true, [(0x14, 28)], p⟩ (fun s =>
    let h := getLE p 0 8
    let t := getLE p 8 8
    let epoch := getLE p 0x10 4
    let behind := s.dvl.hold && ((majorityPair s).map (·.1)) == some epoch
    if s.dvl.staged.isSome then complete src sCfgPending [] s
    else match cmdObj s src h 1 with
    | .error st => complete src st [] s
    | .ok o =>
      let raw := objRead o 0 o.size
      let b := setBytes raw
      let mh := getLE b 0x18 8
      let mapO := if mh = 0 then some none else match cmdObj s src mh 1 with
        | .error _ => none
        | .ok m =>
          let mb := objRead m 0 m.size
          if mapOk mb && sha256 (slice mb 0 (mapLen mb)) == slice b 0x20 32 then some (some (slice mb 0 (mapLen mb))) else none
      match mapO with
      | none => complete src sCfgSet [] s
      | some m =>
        if !setOk raw epoch then complete src sCfgSet [] s
        else if epoch != s.dvl.epoch + 1 && !behind then complete src sCfgEpoch [] s
        else
          let past := behind && decide (t ≤ s.now)
          if !past && (t < s.now + 10000000 || s.now + 86400000000000 < t) then complete src sCfgTime [] s
          else
            let d := setDigest b
            let g : Staged := ⟨epoch, d, t, b, m⟩
            let s1 := complete src sOk [d % 2 ^ 32, d / 2 ^ 32 % 2 ^ 32, d / 2 ^ 64 % 2 ^ 32, d / 2 ^ 96 % 2 ^ 32] s
            if past then applySet g s1 else { s1 with dvl := { s1.dvl with staged := some g } }) s

/-- CFG.CANCEL: too late within the last 1 ms before T. -/
def doCfgCancel (src : Src) (p : Bytes) (s : State) : State :=
  start ⟨src, 0x0812, .cfgCancel src p, true, [(0, 48)], p⟩ (fun s =>
    match s.dvl.staged with
    | none => complete src sOk [] s
    | some g =>
      if g.t < s.now + 1000000 then complete src sCfgTime [] s
      else complete src sOk [] { s with dvl := { s.dvl with staged := none } }) s

def doCfgQuery (src : Src) (p : Bytes) (s : State) : State :=
  start ⟨src, 0x0813, .cfgQuery src p, false, [(0, 48)], p⟩ (fun s =>
    let d := s.dvl.digest
    let e := (s.dvl.staged.map (·.epoch)).getD 0
    complete src sOk ([s.dvl.epoch, d % 2 ^ 32, d / 2 ^ 32 % 2 ^ 32, d / 2 ^ 64 % 2 ^ 32, d / 2 ^ 96 % 2 ^ 32, e] ++
      words64 ((s.dvl.staged.map (·.t)).getD 0)) s) s

/-- CFG_ACTIVATION: at T every staged module switches. -/
def doCfgActivation (s : State) : State := match s.dvl.staged with
  | none => s
  | some g => applySet g (advance g.t s)

/-! ### Rows of the table -/

def execElect (port : Fin 32) (l : LinkHdr) (e : ElectFlit) (s : State) : Host.Outcome State Fault Refusal :=
  .next (settle s (doElect port.val l e s))

def execElectTimer (s : State) : Host.Outcome State Fault Refusal := .next (settle s (doElectTimer s))

def execElectSettleTimer (s : State) : Host.Outcome State Fault Refusal := .next (settle s (doElectSettle s))

def execRootLostTimer (s : State) : Host.Outcome State Fault Refusal := .next (settle s (doRootLost s))

def execTsync (port : Fin 32) (l : LinkHdr) (t : TsyncFlit) (s : State) : Host.Outcome State Fault Refusal :=
  .next (settle s (doTsync port.val l t s))

def execTsyncTimer (s : State) : Host.Outcome State Fault Refusal := .next (settle s (doTsyncTimer s))

def execTimeUnlockTimer (s : State) : Host.Outcome State Fault Refusal := .next (settle s (doTimeUnlock s))

def execRtcWriteTimer (s : State) : Host.Outcome State Fault Refusal := .next (settle s (doRtcWrite s))

def execTree (port : Fin 32) (l : LinkHdr) (t : TreeFlit) (s : State) : Host.Outcome State Fault Refusal :=
  .next (settle s (doTree port.val l t s))

def execTreeTimer (s : State) : Host.Outcome State Fault Refusal := .next (settle s (doTreeTimer s))

def execKeepalive (port : Fin 32) (l : LinkHdr) (k : KeepFlit) (s : State) : Host.Outcome State Fault Refusal :=
  .next (settle s (doKeepalive port.val l k s))

def execKeepaliveTimer (port : Fin 32) (s : State) : Host.Outcome State Fault Refusal :=
  .next (settle s (doKeepaliveTimer port.val s))

def execDigestCheckTimeout (s : State) : Host.Outcome State Fault Refusal := .next (settle s (doDigestTimeout s))

def execCfgStage (src : Src) (p : Bytes) (s : State) : Host.Outcome State Fault Refusal :=
  .next (settle s (doCfgStage src p s))

def execCfgCancel (src : Src) (p : Bytes) (s : State) : Host.Outcome State Fault Refusal :=
  .next (settle s (doCfgCancel src p s))

def execCfgQuery (src : Src) (p : Bytes) (s : State) : Host.Outcome State Fault Refusal :=
  .next (settle s (doCfgQuery src p s))

def execCfgActivation (s : State) : Host.Outcome State Fault Refusal := .next (settle s (doCfgActivation s))

end Sys2Proof.Machine
end

