-- ==== Sys2Proof/Machine/Messages.lean ====
section
/-! DEFINITION. Messages of the fabric itself (R340, R341) and the storage-class ports (R342, R343). -/

namespace Sys2Proof.Machine

/-! ### LINK_STATE (R340) -/

/-- Is change counter `c` newer than `old`, modulo 2^32? -/
def newer (c old : Nat) : Bool := decide (0 < (c + 2 ^ 32 - old) % 2 ^ 32) && decide ((c + 2 ^ 32 - old) % 2 ^ 32 < 2 ^ 31)

/-- LINK_STATE: a report not seen before goes on to every UP neighbour but the one it came from. What it says of its port
counts unless a newer report of that port has come. -/
def doLinkState (p : Nat) (h : MsgHdr) (c : LinkChange) (s : State) : State := once h (fun s =>
  if s.dvl.linkSeen.contains (c.addr, c.port, c.ctr) || c.addr == s.dvl.addr then s
  else
    let latest := s.dvl.linkSeen.all fun e => e.1 != c.addr || e.2.1 != c.port || newer c.ctr e.2.2
    let s1 := { s with dvl := { s.dvl with linkSeen := (c.addr, c.port, c.ctr) :: s.dvl.linkSeen } }
    flood c (some p) (if latest then noteLink c.addr c.port c.up s1 else s1)) s

/-- ROUTE_RECOMPUTE_DONE: from now on the candidates leave out the links known to be down. -/
def doRouteRecompute (s : State) : State :=
  sendHeld { s with dvl := { s.dvl with routedDown := s.dvl.downLinks } }

/-! ### Lost messages (R341) -/

def sentMsg (s : State) (id : Nat) : Option Sent := s.dvl.sent.find? fun m => m.msgId == id

/-- Send a kept message again, under its msg_id. -/
def resend (m : Sent) (s : State) : State := emit (msgOut s.dvl.addr m.dst m.msgId m.msg) s

/-- The context that was sending a block to a handle. -/
def blockSender (s : State) (handle : Nat) : Option Nat :=
  (s.mq.bindings.find? fun b => b.2.handle == handle && !b.2.sending.isEmpty).bind fun b =>
    b.2.sending.head?.map (·.ctx)

/-- The queue that a binding of a module feeds. -/
def fedQueue (s : State) (src b : Nat) : Option Nat :=
  (s.mq.queues.find? fun q => q.2.bound == some (src, b)).map (·.1)

/-- MQ_SYNC from the receiver of a binding: its free slots, the highest seq posted without a gap, and the seqs refused. -/
def sendSync (dst b : Nat) (s : State) : State := match fedQueue s dst b with
  | none => s
  | some q =>
    let k := queueOf s q
    send dst (.mqSync b (slotsIn k .granted) (ackOf k) k.crcOnce) s

/-- A collective message before and after its source committed: DATA, ANCHOR_PROPOSE and ABORT are resent before; the
types are those of R237. -/
def recoverColl (m : Sent) (hdr : Bytes) (s : State) : State :=
  let c := getLE hdr 8 2 % 4096
  let ty := getLE hdr 0x0A 2 % 16
  let key : InstKey := ⟨getLE hdr 0 4, (s.glu.insts.find? fun i => i.key.coll == getLE hdr 0 4 && i.key.step == getLE hdr 4 4).map
    (·.key.job) |>.getD 0, getLE hdr 4 4⟩
  match instOf s key with
  | some i =>
    if (ty == 1 || ty == 2 || ty == 5) && !i.committed then resend m s else ctxFaultNoOp i.ctx 0x0A s
  | none => if activeCtx (ctxOf s c) then ctxFaultNoOp c 0x0A s else s

/-- Recovery at the source (R341). -/
def recover (m : Sent) (s : State) : State := match m.msg with
  | .mqHeader _ _ _ => resend m s
  | .mqBlock handle _ _ => match blockSender s handle with
    | some c => ctxFaultNoOp c 0x0A s
    | none => s
  | .mqCredit b _ _ => sendSync m.dst b s
  | .mqGrant b _ => sendSync m.dst b s
  | .mqReject b _ _ => sendSync m.dst b s
  | .coll hdr _ => recoverColl m hdr s
  | .rowPlan _ | .rowReady _ | .rowCommit _ | .ckpAck _ _ _ _ | .msgLost _ _ _ | .extRead _ _ _ _ | .extWrite _ _ _ _ _ => s
  | .ckpCopy _ => resend m s
  | .mqBind _ _ _ _ | .mqSync _ _ _ _ | .jobCtl _ | .jobRsp _ | .fpListReq _ _ _ | .fpList _ _ _ _ _ | .linkState _ =>
    resend m { s with dvl := { s.dvl with
      sent := s.dvl.sent.map fun x => if x.msgId = m.msgId then { x with resends := 1, lostAt := some s.now } else x } }

/-- MSG_LOST at the source: acted on once per pair within 10 ms. -/
def doMsgLost (h : MsgHdr) (lostSrc lostId mtype : Nat) (s : State) : State :=
  let _ := h
  let recent := s.dvl.handled.filter fun e => decide (s.now ≤ e.2 + 10000000)
  if lostSrc != s.dvl.addr || recent.any fun e => e.1 == lostId then s
  else
    let s1 := { s with dvl := { s.dvl with handled := (lostId, s.now) :: recent, lostCnt := satInc s.dvl.lostCnt } }
    let s2 := raise { code := 0x080C, detail := [(4, lostSrc), (4, lostId), (2, mtype)] } s1
    match sentMsg s2 lostId with
    | some m => recover m s2
    | none => s2

/-- MSG_RESEND_TIMER: up to three times, 1 ms apart. -/
def doMsgResend (id : Nat) (s : State) : State := match sentMsg s id with
  | none => s
  | some m =>
    if m.lostAt.isNone || 3 ≤ m.resends then s
    else resend m { s with dvl := { s.dvl with
      sent := s.dvl.sent.map fun x => if x.msgId = id then { x with resends := x.resends + 1, lostAt := some s.now } else x } }

/-- MSG_LOST_HOLD_EXPIRY: no route after 250 ms: discarded and logged, under a code of class 0x08 that the spec does not
give (log entry 55). -/
def doLostExpiry (lostSrc lostId : Nat) (s : State) : State :=
  let hit := s.dvl.heldLost.filter fun e => e.1 == lostSrc && e.2.1 == lostId
  match hit with
  | [] => s
  | e :: _ =>
    let f := fresh { s with dvl := { s.dvl with heldLost := s.dvl.heldLost.filter fun x => !(x.1 == lostSrc && x.2.1 == lostId) } }
    logEntry { code := 0x0880 + f.1 % 128, detail := [(4, e.1), (4, e.2.1), (2, e.2.2.1)] } f.2

/-! ### Storage-class ports (R342, R343, R360) -/

/-- EXT messages go to the gateway of a port; the model writes its address as 2^17 + port, beyond every fabric address. On
an S port the routing header carries the module's address in dst and the gateway ID in src (R342). -/
def sendExt (sp : Nat) (m : Msg) (s : State) : State :=
  let id := s.dvl.nextMsgId
  emit (.msg (2 ^ 17 + sp) id m (wireOf s.dvl.addr (gatewayOf s (28 + sp)) id m)) { s with dvl := { s.dvl with nextMsgId := (id + 1) % 2 ^ 32 } }

/-- The lowest tag of a port that is not outstanding; a port has 64. -/
def freeTag (s : State) (sp : Nat) : Option Nat :=
  (List.range 64).find? fun t => !(s.dvl.ext.any fun e => e.sp == sp && e.tag == t)

/-- Ports a gateway can be reached on. -/
def extUp (s : State) (sp : Nat) : Bool := isUp s (28 + sp) && gatewayOf s (28 + sp) != 0

/-- The EXT_WRITE messages of a run of bytes, 65,536 B each, the last one marked. -/
def extWrites : Nat → Nat → Nat → Nat → Nat → Bytes → State → State
  | 0, _, _, _, _, _, s => s
  | n + 1, sp, tag, extent, off, b, s =>
    let last := decide (b.length ≤ 65536)
    let s1 := sendExt sp (.extWrite tag extent off last (b.take 65536)) s
    if last then s1 else extWrites n sp tag extent (off + 65536) (b.drop 65536) s1

/-- DVL.EXT_READ and DVL.EXT_WRITE (R360). -/
def doExt (read : Bool) (opcode : Nat) (cmd : Instr) (src : Src) (p : Bytes) (s : State) : State :=
  start ⟨src, opcode, cmd, false, [(1, 7), (0x1C, 4)], p⟩ (fun s =>
    let sp := getLE p 0 1
    let extent := getLE p 8 8
    let off := getLE p 0x10 8
    let len := getLE p 0x18 4
    let h := getLE p 0x20 8
    let objOff := getLE p 0x28 8
    if 3 < sp || 64 * mib < len then complete src sBadField [] s
    else match cmdObj s src h (if read then 2 else 1) with
    | .error st => complete src st [] s
    | .ok o =>
      if o.size < objOff + len then complete src 0x0703 [] s
      else if !extUp s sp then complete src sDvlPort [] s
      else if len = 0 then complete src sOk [] s
      else if !read && poisonedIn o objOff len then complete src 0x0704 [] s
      else match freeTag s sp with
        | none => complete src sNoResource [] s
        | some t =>
          let s1 := { s with dvl := { s.dvl with ext := s.dvl.ext ++ [⟨sp, t, read, h, objOff, off, len, src⟩] } }
          if read then sendExt sp (.extRead t extent off len) (await src (.extRead sp t) s1)
          else extWrites (len / 65536 + 1) sp t extent off (objRead o objOff len) (await src (.extWrite sp t) s1)) s

def doExtRead (src : Src) (p : Bytes) (s : State) : State := doExt true 0x0804 (.dvlExtRead src p) src p s
def doExtWrite (src : Src) (p : Bytes) (s : State) : State := doExt false 0x0805 (.dvlExtWrite src p) src p s

def extTag (s : State) (sp tag : Nat) : Option ExtTag := s.dvl.ext.find? fun t => t.sp == sp && t.tag == tag

/-- EXT_DATA: data lands at its offset in the extent; the command completes once every byte asked for has come. -/
def doExtData (sp tag off : Nat) (data : Bytes) (s : State) : State := match extTag s sp tag with
  | none => s
  | some t =>
    let at_ := off - t.extOff
    let len := ((objSize s t.handle) - t.objOff)
    if !t.read || off < t.extOff || len < at_ + data.length || t.left < data.length then s
    else
      let s1 := writeObj t.handle (t.objOff + at_) data false s
      if t.left = data.length then endExt sp sOk [] (fun x => x.tag == tag) s1
      else { s1 with dvl := { s1.dvl with ext := s1.dvl.ext.map fun x =>
        if x.sp = sp && x.tag = tag then { x with left := x.left - data.length } else x } }

def doExtAck (sp tag : Nat) (s : State) : State := match extTag s sp tag with
  | some t => if t.read then s else endExt sp sOk [] (fun x => x.tag == tag) s
  | none => s

def doExtErr (sp tag code : Nat) (s : State) : State := endExt sp sExtError [code] (fun x => x.tag == tag) s
def doExtTimeout (sp tag : Nat) (s : State) : State := endExt sp sExtTimeout [] (fun x => x.tag == tag) s

/-! ### Rows of the table -/

def execLinkState (port : Fin 32) (h : MsgHdr) (c : LinkChange) (s : State) : Host.Outcome State Fault Refusal :=
  .next (settle s (doLinkState port.val h c s))

def execRouteRecomputeDone (s : State) : Host.Outcome State Fault Refusal := .next (settle s (doRouteRecompute s))

def execMsgLost (h : MsgHdr) (lostSrc lostId mtype : Nat) (s : State) : Host.Outcome State Fault Refusal :=
  .next (settle s (doMsgLost h lostSrc lostId mtype s))

def execMsgResendTimer (msgId : Nat) (s : State) : Host.Outcome State Fault Refusal :=
  .next (settle s (doMsgResend msgId s))

def execMsgLostHoldExpiry (lostSrc lostId : Nat) (s : State) : Host.Outcome State Fault Refusal :=
  .next (settle s (doLostExpiry lostSrc lostId s))

def execDvlExtRead (src : Src) (p : Bytes) (s : State) : Host.Outcome State Fault Refusal :=
  .next (settle s (doExtRead src p s))

def execDvlExtWrite (src : Src) (p : Bytes) (s : State) : Host.Outcome State Fault Refusal :=
  .next (settle s (doExtWrite src p s))

def execExtData (sp : Fin 4) (tag off : Nat) (data : Bytes) (s : State) : Host.Outcome State Fault Refusal :=
  .next (settle s (doExtData sp.val tag off data s))

def execExtAck (sp : Fin 4) (tag : Nat) (s : State) : Host.Outcome State Fault Refusal :=
  .next (settle s (doExtAck sp.val tag s))

def execExtErr (sp : Fin 4) (tag code : Nat) (s : State) : Host.Outcome State Fault Refusal :=
  .next (settle s (doExtErr sp.val tag code s))

def execExtTagTimeout (sp : Fin 4) (tag : Nat) (s : State) : Host.Outcome State Fault Refusal :=
  .next (settle s (doExtTimeout sp.val tag s))

end Sys2Proof.Machine
end

