-- ==== Sys2Proof/Machine/Ckp.lean ====
section
/-! DEFINITION. Checkpoints, buddy copies and shrink (chapter 12): captures and their parts (R364-R367), the copy to the
buddy (R368, R369), retained captures and the local record (R370, R371), restore (R372), member loss and shrink
(R373-R377), and the CKP.* commands (R378). -/

namespace Sys2Proof

/-- A part as its bytes read back (R372): the spec lays out no part, so what a buddy's copy says to the module that
restores from it is open (log entry 84). -/
opaque Config.partOf : Bytes → Option Machine.Part

end Sys2Proof

namespace Sys2Proof.Machine

/-! ### The bytes of a part (R367) -/

/-- The latest formed fingerprint list of a stage (R280). -/
def latestList (x : Ctx) (stage : Nat) : Option FpList :=
  (x.fps.filter fun f => f.stage == stage && f.f != 0).foldl (fun (b : Option FpList) f => match b with
    | none => some f
    | some g => if g.step < f.step then some f else some g) none

/-- The module that writes a version's shards (R367): the lowest rank of the collective that fp_coll names. -/
def writerOf (s : State) (c : Nat) (f : FpList) : Nat := match collSlot s f.coll with
  | some (_, _, (_, d) :: _) => ((memberTable s c d).head?).getD s.dvl.addr
  | _ => s.dvl.addr

/-- Does this member write 32 B references in place of a version's shards? The current version's, whose list it holds
and which another member writes (log entry 82). -/
def byReference (s : State) (p : Part) (v : VerPart) : Option (FpList × Nat) :=
  match latestList p.snap v.stage with
  | none => none
  | some f =>
    let w := writerOf s p.ctx f
    if currentVer p.snap v.stage = some v.entry && w != s.dvl.addr then some (f, w) else none

/-- One reference record (R367). -/
def refRecord (job cseq holder : Nat) (v : VerPart) (x : FpShard) : Bytes :=
  toLE 4 job ++ toLE 2 (v.stage + v.entry * 4096) ++ toLE 2 0 ++ toLE 4 x.no ++ toLE 4 holder ++ toLE 8 x.fp ++ toLE 8 cseq

/-- The bytes of a part as they are copied: contents, version shards or their reference records, then the values of
R366, whose layout the spec does not give. -/
def partData (s : State) (job cseq : Nat) (p : Part) : Bytes :=
  let x := p.snap
  (p.granules.flatMap fun g => g.2.2) ++ (p.entries.flatMap fun e => e.2.1 ++ e.2.2) ++ (p.windows.flatMap fun w => w.2.2) ++
  (p.versions.flatMap fun v => match byReference s p v with
    | some (f, w) => (fpShards f).flatMap (refRecord job cseq w v)
    | none => v.objects.flatMap fun o => o.2.2) ++
  (p.training.flatMap fun t => t.2.2) ++ p.hyper ++ (p.deferred.flatMap fun d => d.data) ++
  Config.layout 0x12 [p.bankDigest, p.pos, p.visit, x.phase, x.step, x.steps, x.seed, x.deadline, x.flags, leNat x.manifest, x.extent]

/-! ### Captures in progress -/

def captureOf (s : State) (job : Nat) : Option Capture := s.ckp.captures.find? fun c => c.job == job

def setCapture (job : Nat) (g : Capture → Capture) (s : State) : State :=
  { s with ckp := { s.ckp with captures := s.ckp.captures.map fun c => if c.job = job then g c else c } }

def retainedOf (s : State) (job cseq : Nat) : Option Retained :=
  s.ckp.retained.find? fun r => r.job == job && r.cseq == cseq

/-- Take or drop the references of a part on the versions it captured (R365, R173). -/
def refPart (p : Part) (take : Bool) (s : State) : State :=
  p.versions.foldl (fun s v =>
    if (ctxOf s p.ctx).job = p.snap.job && (verOf s p.ctx v.stage v.entry).state = 2 then
      (if take then verTake p.ctx v.stage v.entry s else verDrop p.ctx v.stage v.entry s) else s) s

/-- A capture that no longer stands drops its references, and the version objects that nothing else holds go (R174). -/
def releasePart (p : Option Part) (s : State) : State := match p with
  | some x =>
    (x.versions.flatMap fun v => v.objects).foldl (fun s o => match findObj s o.2.1 with
      | some y => if isVersionObj y && !inVersion s o.2.1 && !outlasts s o.2.1 y then dropObj o.2.1 s else s
      | none => s) (refPart x false s)
  | none => s

/-- Forget a capture in progress. -/
def dropCapture (job : Nat) (s : State) : State := match captureOf s job with
  | none => s
  | some c => releasePart c.part { s with ckp := { s.ckp with captures := s.ckp.captures.filter fun x => x.job != job } }

def policyOf (s : State) (job : Nat) : CkpPolicy := tget ⟨0, 64, 0, none⟩ s.ckp.policy job

def setPolicy (job : Nat) (g : CkpPolicy → CkpPolicy) (s : State) : State :=
  { s with ckp := { s.ckp with policy := tupd ⟨0, 64, 0, none⟩ s.ckp.policy job g } }

/-- The checkpoint of a job that stops at its deadline is over: the job ends on every member (R187). -/
def endDeadline (job : Nat) (s : State) : State := match jobOf s job with
  | none => s
  | some j =>
    if j.deadlineCkp && j.status.isNone then
      ctxAct job .cancel (sendAll (j.members.filter (· != s.dvl.addr)) (.jobCtl (.cancel job)) s)
    else s

/-- A capture that failed is abandoned on every member (R370): the previous one stands. Causes: 0 the window passed, 1
the reserve is full, 2 the buddy is lost, 3 a member is lost (log entry 83). -/
def abandonCapture (job member cause : Nat) (s : State) : State := match captureOf s job, jobOf s job with
  | some c, some j =>
    let s1 := sendAll (j.members.filter (· != s.dvl.addr)) (.jobCtl (.abandon job c.cseq)) (dropCapture job s)
    let s2 := { s1 with ckp := { s1.ckp with failCnt := satInc s1.ckp.failCnt } }
    endDeadline job (completeWaits (· == .ckpTake job) 0x0902 []
      (raise { code := 0x0902, fn := some j.fn, ctx := ctxOfJob s2 job, tenant := j.tenant, job := job,
               detail := [(4, member), (1, cause)] } s2))
  | _, _ => s

/-- A member takes the announcement of a capture. -/
def beginCapture (job cseq boundary window : Nat) (s : State) : State :=
  let s1 := dropCapture job s
  { s1 with ckp := { s1.ckp with captures := s1.ckp.captures ++
    [⟨job, cseq, boundary, none, [], false, [], 0, false, false, false, window, []⟩] } }

/-! ### Copying a part (R369) -/

/-- The buddy of this module, while there is a route to it. -/
def buddyOf (s : State) : Option Nat := match ownMod s with
  | some m => if m.buddy != s.dvl.addr && reachable s m.buddy && !s.ckp.lost.contains m.buddy then some m.buddy else none
  | none => none

/-- The segment at the first byte not acknowledged; segments go one at a time (log entry 85). -/
def sendSegment (job : Nat) (s : State) : State := match captureOf s job, buddyOf s with
  | some c, some b =>
    let data := slice c.bytes c.acked (min 65536 (c.bytes.length - c.acked))
    send b (.ckpCopy ⟨job, c.cseq, c.acked, decide (c.bytes.length ≤ c.acked + data.length), c.bytes.length, data⟩) s
  | _, _ => s

/-- A member's part is complete, or has failed, as the lead hears it. -/
def memberPart (job cseq member : Nat) (failed : Option Nat) (bytes : Nat) (s : State) : State := match captureOf s job with
  | none => s
  | some c =>
    if c.cseq != cseq then s
    else match failed with
      | none => setCapture job (fun c => { c with doneMembers := (member, bytes) :: c.doneMembers.filter fun d => d.1 != member }) s
      | some cause => abandonCapture job member cause s

def tellPart (job : Nat) (failed : Option Nat) (s : State) : State := match captureOf s job with
  | none => s
  | some c =>
    if leadAt s job = s.dvl.addr then memberPart job c.cseq s.dvl.addr failed c.bytes.length s
    else send (leadAt s job) (.jobCtl (.partDone job c.cseq failed c.bytes.length)) s

/-- A part that no program still adds to is copied from now on (R365, R369; log entry 116). -/
def sealCapture (job : Nat) (s : State) : State := match captureOf s job with
  | some k => match k.part with
    | some p =>
      if k.sealed || !noneLate s k then s
      else
        let s1 := setCapture job (fun k => { k with sealed := true, bytes := partData s job k.cseq p }) s
        if k.localOnly then s1 else sendSegment job s1
    | none => s
  | none => s

/-- Take the capture of a job now, at its boundary (R364-R366). A module in HOLD and a context that does not run take
none (R180, R359); a divergence repair is waited for (R283). -/
def takeCapture (job digest pos visit : Nat) (s : State) : State := match captureOf s job, ctxOfJob s job with
  | some k, some c =>
    let x := ctxOf s c
    if k.part.isSome || s.dvl.hold || !activeCtx x || (x.holds.contains .divergence && bit x.flags 0) then s
    else
      let p := ckpPart s c digest pos visit
      sealCapture job (refPart p true (setCapture job (fun k => { k with
        part := some p, late := programsFor s c, localOnly := (buddyOf s).isNone }) s))
  | _, _ => s

/-- The captures whose boundary is reached, and those whose programs have ended since. -/
def takeCaptures (digest pos visit : Nat) (s : State) : State :=
  s.ckp.captures.foldl (fun s k =>
    if k.part.isNone && decide (k.boundary ≤ s.now) then takeCapture k.job digest pos visit s else sealCapture k.job s) s

/-- The lead starts a capture (R364): the next cseq, a boundary b, and the announcement. -/
def announce (job boundary : Nat) (s : State) : State := match jobOf s job with
  | none => s
  | some j =>
    let q := policyOf s job
    let s1 := sendAll (j.members.filter (· != s.dvl.addr)) (.jobCtl (.capture job (q.cseq + 1) boundary))
      (setPolicy job (fun q => { q with cseq := q.cseq + 1 }) s)
    beginCapture job (q.cseq + 1) boundary q.window s1

/-- The boundary of a capture asked for now: the next frame boundary of a job with no other member, else the first at
least 2 frames ahead; with no active bank, now. -/
def soonestBoundary (s : State) (j : Job) : Nat :=
  if !s.jig.running then s.now
  else frameStart s (s.jig.frame + if j.members.all (· == s.dvl.addr) then 1 else 3)

/-- Ask for a capture at the soonest boundary. With no active bank it is taken at once. -/
def captureNow (job : Nat) (s : State) : State := match jobOf s job with
  | none => s
  | some j =>
    let s1 := announce job (soonestBoundary s j) s
    if s.jig.running then s1 else takeCapture job 0 0 0 s1

/-- Interval captures (R364): the lead announces the boundary at which a commit moves the job into FWD of a step that the
interval divides; one that falls due during another capture is skipped and counted (R370). -/
def intervalCapture (s : State) : State :=
  (s.jig.commits.flatMap fun m => m.moves.map fun c => (c, m.frame)).foldl (fun s e =>
    let x := ctxOf s e.1
    let q := policyOf s x.job
    if nextPhase (activeBank s) x.phase != 0 || (jobOf s x.job).isNone || q.interval = 0 || (x.step + 1) % q.interval != 0 ||
        q.announced == some (x.step + 1) then s
    else
      let s1 := setPolicy x.job (fun q => { q with announced := some (x.step + 1) }) s
      if (captureOf s1 x.job).isSome then { s1 with ckp := { s1.ckp with failCnt := satInc s1.ckp.failCnt } }
      else announce x.job (frameStart s1 e.2) s1) s

/-- A frame has passed: the windows of captures whose boundary has been run down. -/
def windowFrame (s : State) : State :=
  { s with ckp := { s.ckp with captures := s.ckp.captures.map fun c =>
    if c.boundary < s.now then { c with windowLeft := c.windowLeft - 1 } else c } }

/-! ### The buddy (R368, R369) -/

/-- Bytes of the reserve that a new part may take: what other parts leave, the part in progress of the same job making
way. -/
def reserveRoom (s : State) (src job : Nat) : Nat :=
  reserveBytes s - ((s.ckp.buddy.filter fun b => !(b.src == src && b.job == job && !b.complete)).map (·.total)).foldl (· + ·) 0

/-- CKP_COPY: a segment is stored and acknowledged; a duplicate is acknowledged again; the first segment of a part that
does not fit is refused. A complete part takes the place of the job's part before it. -/
def doCkpCopy (h : MsgHdr) (c : CopySeg) (s : State) : State :=
  let mine (b : BuddyPart) : Bool := b.src == h.src && b.job == c.job && b.cseq == c.cseq
  let ack (refused : Bool) (s : State) : State := send h.src (.ckpAck c.job c.cseq c.offset refused) s
  if s.dvl.seen.any fun e => e.1 == h.src && e.2.1 == h.msgId && decide (s.now ≤ e.2.2 + 10000000) then ack false s
  else once h (fun s =>
    if c.offset = 0 && !(s.ckp.buddy.any mine) && decide (reserveRoom s h.src c.job < c.total) then ack true s
    else
      let old := (s.ckp.buddy.find? mine).getD ⟨h.src, c.job, c.cseq, c.total, [], false⟩
      let new := { old with data := memWrite old.data c.offset c.data, complete := old.complete || c.last }
      let rest := s.ckp.buddy.filter fun b => !(mine b) && !(b.src == h.src && b.job == c.job && (new.complete || !b.complete))
      ack false { s with ckp := { s.ckp with buddy := rest ++ [new] } }) s

/-- CKP_ACK: the next segment goes, or the part is complete; a refusal fails the capture here. -/
def doCkpAck (h : MsgHdr) (job cseq offset : Nat) (refused : Bool) (s : State) : State := once h (fun s =>
  match captureOf s job with
  | none => s
  | some c =>
    if c.cseq != cseq || !c.sealed || c.complete || c.localOnly || c.acked != offset then s
    else if refused then tellPart job (some 1) s
    else
      let n := min (c.acked + 65536) c.bytes.length
      let s1 := setCapture job (fun c => { c with acked := n, complete := decide (c.bytes.length ≤ n) }) s
      if c.bytes.length ≤ n then tellPart job none s1 else sendSegment job s1) s

/-- CKP_ACK_TIMEOUT: 10 ms without an acknowledgement: the segment goes again, or, with the buddy lost meanwhile, the
capture fails (R377). -/
def doCkpAckTimeout (job : Nat) (s : State) : State := match captureOf s job with
  | some c =>
    if !c.sealed then sealCapture job s
    else if c.complete || c.localOnly then s
    else if (buddyOf s).isNone then tellPart job (some 2) s
    else sendSegment job s
  | none => s

/-! ### Retained captures and the local record (R370, R371) -/

/-- Release every retained capture of a job but one. -/
def releaseOthers (job keep : Nat) (s : State) : State :=
  let gone := s.ckp.retained.filter fun r => r.job == job && r.cseq != keep
  gone.foldl (fun s r =>
    let s1 := releasePart r.part { s with ckp := { s.ckp with retained := s.ckp.retained.filter fun x => !(x.job == r.job && x.cseq == r.cseq) } }
    if r.catalogue = 0 then s1 else dropObj r.catalogue s1) s

/-- This member keeps its capture as the job's retained one. -/
def retain (job fn catalogue boundary step : Nat) (members : List (Nat × Nat × Nat)) (s : State) : State := match captureOf s job with
  | none => s
  | some c =>
    let r : Retained := ⟨job, fn, c.cseq, step, boundary, catalogue, members, c.part, c.bytes.length, c.inRecord⟩
    releaseOthers job c.cseq { s with ckp := { s.ckp with
      retained := s.ckp.retained ++ [r], captures := s.ckp.captures.filter fun x => x.job != job } }

/-- The catalogue (R370): its header, and one record per member. -/
def catalogueBytes (job cseq step boundary digest : Nat) (ms : List (Nat × Nat × Nat)) : Bytes :=
  toLE 4 0x4B435855 ++ toLE 4 job ++ toLE 8 cseq ++ toLE 8 step ++ toLE 8 boundary ++ toLE 8 (digest % 2 ^ 64) ++
    List.replicate 24 0 ++ ms.flatMap fun m => toLE 4 m.1 ++ toLE 4 m.2.1 ++ toLE 8 m.2.2

/-- CAPTURE_RETAIN: once every member's part is complete. -/
def doCaptureRetain (job : Nat) (s : State) : State := match captureOf s job, jobOf s job with
  | some c, some j => match c.part with
    | none => s
    | some p =>
      if !(j.members.all fun m => c.doneMembers.any fun d => d.1 == m) then s
      else
        let ms := j.members.map fun m => (m, ((mapModOf s m).map (·.buddy)).getD 0, tget 0 c.doneMembers m)
        let b := catalogueBytes job c.cseq p.snap.step c.boundary p.bankDigest ms
        let made := ownObj j.fn (.catalogue job) b s
        let o := (made.1, setObj made.1 (fun o => { o with sysPins := 1 }) made.2)
        let s1 := retain job j.fn o.1 c.boundary p.snap.step ms (setJob job (fun j => { j with lastCkp := o.1 }) o.2)
        let s2 := sendAll (j.members.filter (· != s.dvl.addr)) (.jobCtl (.retained job c.cseq p.snap.step c.boundary ms)) s1
        endDeadline job (completeWaits (· == .ckpTake job) sOk (words64 o.1)
          (raise { code := 0x0901, fn := some j.fn, ctx := ctxOfJob s2 job, tenant := j.tenant, job := job,
                   detail := [(8, c.cseq), (4, p.snap.step)] } s2))
  | _, _ => s

/-- CAPTURE_WINDOW_EXPIRY: the window passed before every part was complete. -/
def doCaptureExpiry (job : Nat) (s : State) : State := match captureOf s job, jobOf s job with
  | some c, some j =>
    match j.members.find? fun m => !(c.doneMembers.any fun d => d.1 == m) with
    | some m => if c.part.isNone && s.now < c.boundary then s else abandonCapture job m 0 s
    | none => s
  | _, _ => s

/-- Largest part that the local record holds. -/
def maxRecord : Nat := 512 * gib

/-- The payload of the checkpoint record: the latest retained part of every job here, the part in progress of a job, and
their catalogues (R371). -/
def recordParts (s : State) (job : Nat) : Bytes :=
  (s.ckp.retained.flatMap fun r => match r.part with
    | some p => if r.partBytes ≤ maxRecord then catalogueBytes r.job r.cseq r.step r.boundary p.bankDigest r.members ++
        partData s r.job r.cseq p else []
    | none => []) ++ ((captureOf s job).map (·.bytes)).getD []

/-- LOCAL_CHECKPOINT_WRITE: the record is programmed to the bank that does not hold the valid copy (R316). A part that
went to no buddy is complete with it. -/
def doLocalWrite (job : Nat) (s : State) : State :=
  let whole := match captureOf s job with
    | some c => if c.sealed && (c.complete || c.localOnly) then some c.bytes.length else none
    | none => (s.ckp.retained.find? fun (r : Retained) => r.job == job && r.part.isSome).map Retained.partBytes
  match whole with
  | none => s
  | some n =>
    if maxRecord < n then raise { code := 0x0903, ctx := ctxOfJob s job, job := job } s
    else
      let s1 := writeRecord 0x0009 (recordParts s job) s
      let s2 := { s1 with ckp := { s1.ckp with
        localSeq := recSeq s1 0x0009
        retained := s1.ckp.retained.map fun (r : Retained) => if r.part.isSome && decide (r.partBytes ≤ maxRecord) then { r with inRecord := true } else r } }
      let wasLocal := match captureOf s job with
        | some c => c.localOnly && !c.complete
        | none => false
      let s3 := setCapture job (fun c => { c with inRecord := true, complete := true }) s2
      if wasLocal then tellPart job none s3 else s3

/-! ### Restoring a part (R372) -/

/-- The slot a restored entry takes: the one it had when it was captured, if no entry holds it now, else a free slot, else a
granted one (log entry 106). -/
def repostSlot (k : Queue) (hdr : Bytes) : Option Nat :=
  let open_ := slotsIn k .free ++ slotsIn k .granted
  let own := slotOfHdr k hdr
  if open_.contains own then some own else open_.head?

/-- A restored entry is posted again. Its header names the context's ID here, its slot, and the restored flag (R143,
R157). -/
def repost (c : Nat) (e : Nat × Bytes × Bytes) (s : State) : State :=
  let k := queueOf s e.1
  match repostSlot k e.2.1 with
  | none => s
  | some slot =>
    let h := sealHdr (setLE (setLE (setLE (setLE e.2.1 4 2 (c + hdrVer e.2.1 * 4096)) 0x0E 2 (hdrFlags e.2.1 ||| 4)) 0x10 8 k.handle)
      0x18 4 (slot * slotBytes k))
    postEntry e.1 h slot (writeObj k.handle (slot * slotBytes k) e.2.2 false s)

/-- A header of a resend window is sent again; it names the receiver's context (R157). -/
def resendWindow (c : Nat) (w : Nat × Nat × Bytes) (s : State) : State :=
  let b := bindOf s w.1
  if b.state = 0 then s
  else
    let there := if b.destAddr = s.dvl.addr then c
      else (((ctxOf s c).peers.find? fun p => p.1 == b.destStage).map (·.2.2)).getD (hdrCtx w.2.2)
    let h := sealHdr (setLE w.2.2 4 2 (there + hdrVer w.2.2 * 4096))
    if b.destAddr = s.dvl.addr then headerAt b.destQueue s.dvl.addr w.1 h s else send b.destAddr (.mqHeader b.destQueue w.1 h) s

/-- The credits and the seq of a binding as they were captured: a credit for a slot that an entry held then comes back
when that entry has been taken (R147; log entry 106). -/
def restoreBinding (b : Nat × List Nat × Nat) (s : State) : State :=
  if (bindOf s b.1).state = 0 then s
  else setBind b.1 (fun x => { x with credits := x.credits.filter b.2.1.contains, seq := max x.seq b.2.2 }) s

/-- Retained captures, and one in progress, that hold version entry `v` of a stage of a job's context by reference
(R173, R365). -/
def captureRefs (s : State) (job c stage v : Nat) : Nat :=
  ((s.ckp.retained.filterMap (·.part) ++ s.ckp.captures.filterMap (·.part)).filter fun p =>
    p.ctx == c && p.snap.job == job && p.versions.any fun x => x.stage == stage && x.entry == v).length

/-- The version tables of a restored context, on new objects: each READY entry keeps its current designation, its pins, its
micro-batches in flight and the captures that hold it; posted entries add their references as they are posted. -/
def restoreVersions (c : Nat) (p : Part) (s : State) : State :=
  p.versions.foldl (fun s v =>
    let old := (versAt p.snap v.stage).getD v.entry Version.empty
    let made := v.objects.foldl (fun (acc : List (Nat × Nat) × State) o =>
      let r := ctxObject c (.version c v.stage) (stageHome s v.stage) o.2.2.length o.2.2 acc.2
      (acc.1 ++ [(o.1, r.1)], r.2)) ([], s)
    let flying := ((tget [] p.snap.inflight v.stage).filter fun m => m.2.2 == v.entry).length
    setVer c v.stage v.entry (fun _ => { old with
      objects := made.1, copies := []
      refs := b2n old.current + old.pins + flying + captureRefs s (ctxOf s c).job c v.stage v.entry }) made.2) s

/-- Training objects (R258) on new objects with the captured contents. -/
def restoreTraining (c : Nat) (p : Part) (s : State) : State :=
  p.training.foldl (fun s t =>
    let r := ctxObject c (.training c t.1) (stageHome s t.1) t.2.2.length t.2.2 s
    setCtx c (fun x => match t.2.1 with
      | 0 => { x with stateObj := tset x.stateObj t.1 r.1 }
      | 1 => { x with errObj := tset x.errObj t.1 r.1 }
      | _ => { x with gradObj := tset x.gradObj t.1 r.1 }) r.2) s

/-- Granules with their tags. -/
def restoreGranules (c : Nat) (p : Part) (s : State) : State :=
  p.granules.foldl (fun s g =>
    let a := g.2.1 * 65536
    if g.1 then
      { s with tile := { s.tile with window := memWrite (memZero s.tile.window a 65536) a g.2.2, wtags := tset s.tile.wtags g.2.1 c } }
    else setTile (g.2.1 / 64) (fun t => { t with tags := tset t.tags g.2.1 c })
      { s with tile := { s.tile with store := memWrite (memZero s.tile.store a 65536) a g.2.2 } }) s

/-- Put a part into context c of a job. The context is held until its captured position comes (R372). -/
def restorePart (c job : Nat) (p : Part) (base : Ctx) (s : State) : State :=
  let s1 := setCtx c (fun _ => { base with
    state := .held, holds := (base.holds.filter (· != .restore)) ++ [.restore], cause := 0, readyBy := none
    vers := [], stateObj := [], errObj := [], gradObj := [], movedAt := none, job := job
    startAt := some (p.bankDigest, p.pos, p.visit) }) s
  let s2 := restoreGranules c p (restoreTraining c p (restoreVersions c p s1))
  let h := ctxObject c .plain 0 p.hyper.length p.hyper s2
  let s3 := setCtx c (fun x => { x with hyper := h.1 }) h.2
  let s4 := { s3 with glu := { s3.glu with
    deferred := (s3.glu.deferred.filter fun d => d.key.job != job) ++ p.deferred.map fun d => { d with key := { d.key with job := job } } } }
  let s5 := p.bindings.foldl (fun s b => restoreBinding b s) (p.entries.foldl (fun s e => repost c e s) s4)
  { p.windows.foldl (fun s w => resendWindow c w s) s5 with jig := { s.jig with retest := true } }

/-- Do the shards that a part holds by reference still have their fingerprints (R372)? -/
def shardsAgree (s : State) (p : Part) : Bool :=
  p.versions.all fun v => match byReference s p v with
    | none => true
    | some (f, _) => (fpShards f).all fun x =>
        match v.objects.find? fun o => o.2.1 == x.handle with
        | some o => crc64 (slice o.2.2 x.off x.len) == x.fp
        | none => true

/-- The part of a retained capture that this module holds. -/
def heldPart (s : State) (job cseq : Nat) : Option Part := (retainedOf s job cseq).bind (·.part)

/-- A member commits its reservation from a retained capture. -/
def restoreMember (job c old cseq deadline flags : Nat) (peers : List (Nat × Nat × Nat)) (s0 : State) : Bool × State :=
  match assignCtx job c s0, heldPart s0 old cseq with
  | some s, some p =>
    if !shardsAgree s p then (false, s0)
    else
      let base := { p.snap with
        deadline := deadline, flags := flags, peers := peers, admittedAt := s.now, holds := [], acts := []
        heldFrom := .admitted, replayLoaded := false
        replaced := [], removed := [], taken := [] }
      (true, restorePart c job p base s)
  | _, _ => (false, s0)

/-- Once every member has reserved: the deadline test for the steps that remain, and the commit. -/
def testAndRestore (job : Nat) (s : State) : State := match jobOf s job with
  | none => s
  | some j => match j.restoring with
    | none => testAndCommit job s
    | some (old, cseq) =>
      let done := ((heldPart s old cseq).map fun p => p.snap.step).getD 0
      testThen job ((j.steps - done) * rowFramesPerStep (planBank s) j.pipeline) (fun j s =>
        let others := j.members.filter (· != s.dvl.addr)
        let r := restoreMember job (ctxAt j s.dvl.addr) old cseq j.deadline j.flags (peersOf j) s
        if r.1 then
          let s1 := setJob job (fun j => { j with admission := .committing others }) (others.foldl (fun s m =>
            send m (.jobCtl (.restore job (ctxAt j m) old cseq j.deadline j.flags (peersOf j))) s) r.2)
          if others.isEmpty then admitted job s1 else s1
        else dropJob job 0x0902 [] (releaseAll job others r.2)) s

/-- Reserve on the members of the catalogue (R372, R183). -/
def reserveRestore (job : Nat) (s : State) : State := match jobOf s job with
  | none => s
  | some j =>
    let r := memberReserve job j.tenant j.fn j.deadline j.seed j.steps j.pipeline j.flags j.mbPerStep j.jobTag s
    match r.1 with
    | none => dropJob job sNoResource [] s
    | some c =>
      let others := j.members.filter (· != s.dvl.addr)
      let s1 := setJob job (fun j => { j with
        admission := .reserving others, memberCtx := [(s.dvl.addr, c, (pipeStages s j.pipeline).map (·.stage))] }) r.2
      let s2 := sendAll others (.jobCtl (.reserve job j.tenant j.fn j.deadline j.seed j.steps j.pipeline j.flags
        j.mbPerStep j.jobTag)) s1
      if others.isEmpty then testAndRestore job s2 else s2

/-! ### Where a restored context starts -/

/-- At a frame boundary: the contexts whose captured digest, cycle position and visit frame have come. -/
def startRestored (s : State) : State :=
  let now := (bankDigest (activeBank s), s.jig.pos, s.jig.visit)
  s.vnr.ctxs.foldl (fun s e =>
    if e.2.startAt = some now then ctxActNow e.1 (.resume .restore) (setCtx e.1 (fun x => { x with startAt := none }) s) else s) s

/-! ### Loss of a member, and shrink (R373-R376) -/

/-- Abandon a job's open instances without commit (R243). -/
def abandonInsts (job : Nat) (s : State) : State :=
  (s.glu.insts.filter fun i => i.key.job == job && !i.committed).foldl (fun s i =>
    let s1 := closeQueue i s
    { s1 with glu := { s1.glu with insts := s1.glu.insts.filter fun x => x.key != i.key } }) s

/-- The objects that a context rolls away from: its versions' and its training state's. -/
def dropCtxObjs (c : Nat) (s : State) : State :=
  releaseObjs c (fun o => match o.role with
    | .version _ _ | .training _ _ => true
    | _ => false) s

/-- A free value per element, from the model's counter. -/
def freeAt (s : State) (e : Nat) : Nat := (Config.freeValue (s.freeCtr + e)).toNat

/-- A training object as a member with a new shard holds it (R375): its own captured elements where the new shard
overlaps the old one, and elsewhere elements of other members' parts, which reach it by no message that the spec lays
out: free values (log entry 86). `w` arrays of n elements of `b` bytes follow a header of `hd` bytes. -/
def redrawn (s : State) (hd b w n oldOff newOff : Nat) (x : Bytes) : Bytes :=
  slice x 0 hd ++ (List.range w).flatMap fun k => (List.range n).flatMap fun i =>
    let at_ := newOff + i
    if oldOff ≤ at_ && decide (at_ < oldOff + n) then slice x (hd + b * (k * n + (at_ - oldOff))) b
    else toLE b (freeAt s (k * n + i))

/-- Shards redrawn under R231 with the new member count: this member's first element moves from r·T/N to r'·T/N'. -/
def redrawPart (s : State) (p : Part) (removed : List Nat) : Part :=
  if removed.isEmpty then p
  else
    let r := updateRank s
    let n := shardElems s
    let total := n * r.2
    let left := r.2 - removed.length
    let before := r.1 - removed.length
    { p with training := p.training.map fun t => (t.1, t.2.1, match t.2.1 with
      | 0 => redrawn s 64 4 3 n (r.1 * total / max r.2 1) (before * total / max left 1) t.2.2
      | 1 => redrawn s 0 2 1 n (r.1 * total / max r.2 1) (before * total / max left 1) t.2.2
      | _ => t.2.2) }

/-- The part of a stage taken over, from the reserve of this module (R375). -/
def takenPart (s : State) (job cseq lost : Nat) : Option Part :=
  ((s.ckp.buddy.find? fun b => b.src == lost && b.job == job && b.cseq == cseq && b.complete).bind fun b =>
    Config.partOf (memRead b.data 0 b.total))

/-- What a part gives a context for the stages it takes over: versions, training state, queue entries. -/
def joinPart (c : Nat) (p : Part) (s : State) : State :=
  let s1 := setCtx c (fun x => { x with inflight := x.inflight ++ p.snap.inflight.filter fun e => !(thas x.inflight e.1) }) s
  p.entries.foldl (fun s e => repost c e s) (restoreTraining c p (restoreVersions c p s1))

/-- A member rolls back to the retained capture with the new membership; whether it could comes first. Every hold of the
context goes on, and it goes back to the state it was held from (R166); a context that faulted or is done stays so
(R180). -/
def rollBack (r : Rollback) (s : State) : Bool × State := match ctxOfJob s r.job, heldPart s r.job r.cseq with
  | some c, some p =>
    if !activeCtx (ctxOf s c) then (false, s) else
    let mine := (r.taken.filter fun t => t.2 == s.dvl.addr).map (·.1)
    let swap (a : Nat) : Nat := ((r.replaced.find? fun x => x.1 == a).map (·.2)).getD a
    let x := ctxOf s c
    let idOf (a : Nat) (old : Nat) : Nat :=
      if a = s.dvl.addr then c else ((x.peers.find? fun q => q.2.1 == a).map (·.2.2)).getD old
    let peers := (x.peers.filter fun q => !r.removed.contains q.2.1).map fun q =>
      if swap q.2.1 = q.2.1 then q else (q.1, swap q.2.1, idOf (swap q.2.1) q.2.2)
    let s1 := dropCtxObjs c (purgeAll c (abandonInsts r.job s))
    let base := { p.snap with
      peers := peers, holds := (x.holds.filter (· != .shrink)) ++ [.shrink], acts := x.acts
      heldFrom := if x.state = .held then x.heldFrom else x.state
      replaced := x.replaced ++ r.replaced, removed := x.removed ++ r.removed, taken := x.taken ++ mine }
    let s2 := restorePart c r.job (redrawPart s1 p r.removed) base
      { s1 with freeCtr := s1.freeCtr + if r.removed.isEmpty then 0 else 3 * shardElems s1 }
    let s3 := setJob r.job (fun j => { j with stepsDone := p.snap.step }) (setCtx c (fun x => { x with ledger := p.snap.ledger })
      { s2 with ckp := { s2.ckp with shrinkCnt := satInc s2.ckp.shrinkCnt } })
    if mine.isEmpty then (true, s3)
    else
      let lost := (r.replaced.filter fun e => e.2 == s.dvl.addr).map (·.1)
      lost.foldl (fun acc a => match takenPart acc.2 r.job r.cseq a with
        | some q => (acc.1, joinPart c q acc.2)
        | none => (false, acc.2)) (true, s3)
  | _, _ => (false, s)

/-- The lead hears that a member has restored, or that it could not. -/
def memberRestored (job member : Nat) (ok : Bool) (s : State) : State :=
  { s with ckp := { s.ckp with shrinks := s.ckp.shrinks.map fun k =>
    if k.job = job then { k with awaiting := k.awaiting.filter (· != member), failed := k.failed || !ok } else k } }

/-- Roll back at a frame boundary (with no active bank at once), and tell the lead. -/
def runRollbacks (s : State) : State :=
  let l := s.ckp.rollbacks
  l.foldl (fun s r =>
    let x := rollBack r s
    if leadAt x.2 r.job = x.2.dvl.addr then memberRestored r.job x.2.dvl.addr x.1 x.2
    else send (leadAt x.2 r.job) (.jobRsp (.restored r.job x.1)) x.2)
    { s with ckp := { s.ckp with rollbacks := [] } }

/-- A member takes a new membership. -/
def takeMembership (r : Rollback) (s : State) : State :=
  let s1 := dropCapture r.job { s with ckp := { s.ckp with
    rollbacks := s.ckp.rollbacks.filter (fun x => x.job != r.job) ++ [r]
    lost := (s.ckp.lost ++ r.removed ++ r.replaced.map (·.1)).eraseDups } }
  if s.jig.running then s1 else runRollbacks s1

/-- A surviving member becomes lead of a job whose lead is lost: its job record comes from its context and its copy of
the catalogue (R373). -/
def becomeLead (job : Nat) (s : State) : State := match ctxOfJob s job with
  | none => s
  | some c =>
    let x := ctxOf s c
    let ms := ((s.ckp.retained.find? fun r => r.job == job).map fun r => r.members.map (·.1)).getD
      (s.dvl.addr :: x.peers.map fun p => p.2.1).eraseDups
    let j := { blankJob job x.fn with
      tenant := x.tenant, jobTag := x.jobTag, pipeline := x.pipeline, flags := x.flags, deadline := x.deadline
      admittedAt := x.admittedAt, seed := x.seed, steps := x.steps, mbPerStep := x.mbPerStep, manifest := x.manifest
      members := ms, admission := .admitted, stepsDone := x.step
      memberCtx := (s.dvl.addr, c, (ctxStages s c).map (·.stage)) :: (ms.filter (· != s.dvl.addr)).map fun a =>
        (a, ((x.peers.find? fun p => p.2.1 == a).map (·.2.2)).getD 0, (x.peers.filter fun p => p.2.1 == a).map (·.1)) }
    { s with
      vnr := { s.vnr with jobs := s.vnr.jobs ++ [(job, j)] }
      ckp := { s.ckp with leads := tset s.ckp.leads job s.dvl.addr } }

/-- Does the buddy's active bank hold standby records for these stages (R374)? Of its own bank a module knows; what
another module's bank holds the lead learns from no message that the spec lays out: a free choice (log entry 87). -/
def hasStandby (buddy : Nat) (stages : List Nat) (s : State) : Bool × State :=
  if buddy = s.dvl.addr then
    (s.jig.running && stages.all fun st => (hostedStages s).any fun r => r.stage == st && isStandby (hostedStages s) r, s)
  else
    let r := fresh s
    (r.1 % 2 == 1, r.2)

/-- With the buddy lost too: did the lost member's own record hold its whole part (R374)? The lead learns it from no message
that the spec lays out: a free choice (log entry 87). -/
def recordWhole (s : State) : Bool × State :=
  let r := fresh s
  (r.1 % 2 == 1, r.2)

/-- The members of a job that share a lost member's replica group. -/
def lostGroup (s : State) (j : Job) (lost : Nat) : List Nat :=
  match (mapGroups s).find? fun g => g.2.contains lost with
  | some g => j.members.filter fun m => g.2.contains m
  | none => [lost]

/-- Tear a job down with the cause PEER on every member that is left (R374). -/
def tearDown (job : Nat) (s : State) : State := match jobOf s job with
  | none => s
  | some j => leadFault job 0x0C s.dvl.addr
      (match ctxOfJob s job with
        | some c => ctxFaultNoOp c 0x0C (setJob job (fun _ => { j with members := j.members.filter fun m => !s.ckp.lost.contains m }) s)
        | none => s)

/-- The lead has the member lost: hold, abandon, then takeover, drop or teardown, and the new membership (R374, R375). A
second loss restarts the shrink with the same capture (R377). -/
def loseMember (job lost : Nat) (s : State) : State := match jobOf s job with
  | none => s
  | some j =>
    if j.status.isSome || !j.members.contains lost || lost = s.dvl.addr then s
    else
      let s1 := abandonInsts job (abandonCapture job lost 3 { s with ckp := { s.ckp with lost := (s.ckp.lost ++ [lost]).eraseDups } })
      let left := j.members.filter (· != lost)
      let stages := ((j.memberCtx.find? fun m => m.1 == lost).map (·.2.2)).getD []
      let buddy := ((mapModOf s lost).map (·.buddy)).getD lost
      let before := (s.ckp.shrinks.find? fun k => k.job == job)
      match s.ckp.retained.find? fun r => r.job == job with
      | none => tearDown job s1
      | some r =>
        let h := if left.contains buddy then hasStandby buddy stages s1 else (false, s1)
        let safe := if buddy != lost && s1.ckp.lost.contains buddy then recordWhole h.2 else (true, h.2)
        if !safe.1 then tearDown job safe.2
        else
        let h := (h.1, safe.2)
        let dropped := if h.1 then [] else lostGroup s1 j lost
        let alive := left.filter fun m => !dropped.contains m
        let hosts := j.memberCtx.any fun m => alive.contains m.1 && !m.2.2.isEmpty
        if !hosts then tearDown job h.2
        else
          let replaced := if h.1 then [(lost, buddy)] else []
          let taken := if h.1 then stages.map fun st => (st, buddy) else []
          let s2 := holdJob job .shrink (setJob job (fun j => { j with
            members := alive, gathered := [], fullAt := j.fullAt.filter alive.contains
            memberCtx := (j.memberCtx.filter fun m => alive.contains m.1).map fun m =>
              if h.1 && m.1 = buddy then (m.1, m.2.1, m.2.2 ++ stages) else m }) h.2)
          let k : Shrink := ⟨job, ((before.map (·.lost)).getD []) ++ [lost], s.now,
            ((before.map (·.taken)).getD 0) + (if h.1 then stages.length else 0),
            ((mapGroups s).filter fun g => g.2.any fun m => alive.contains m).length, alive, false⟩
          let s3 := { s2 with ckp := { s2.ckp with shrinks := (s2.ckp.shrinks.filter fun x => x.job != job) ++ [k] } }
          takeMembership ⟨job, r.cseq, replaced, dropped, taken⟩
            (sendAll (alive.filter (· != s.dvl.addr)) (.jobCtl (.membership job r.cseq replaced dropped taken)) s3)

/-- MEMBER_LOSS: at the lead; where the lead itself is lost, at the surviving member with the lowest address. -/
def doMemberLoss (job addr : Nat) (s : State) : State :=
  if (jobOf s job).isSome then loseMember job addr s
  else if leadAt s job != addr then s
  else
    let s1 := becomeLead job s
    match jobOf s1 job with
    | none => s
    | some j => if (j.members.filter (· != addr)).all fun m => decide (s.dvl.addr ≤ m) then loseMember job addr s1 else s

/-- SHRINK_RESUME: every member has restored: the job resumes, and EV_SHRINK is raised. -/
def doShrinkResume (job : Nat) (s : State) : State := match s.ckp.shrinks.find? fun k => k.job == job, jobOf s job with
  | some k, some j =>
    if !k.awaiting.isEmpty then s
    else
      let s1 := { s with ckp := { s.ckp with shrinks := s.ckp.shrinks.filter fun x => x.job != job } }
      if k.failed then tearDown job s1
      else
        raise { code := 0x0904, fn := some j.fn, ctx := ctxOfJob s1 job, tenant := j.tenant, job := job,
                detail := [(2, k.lost.length)] ++ k.lost.map (fun a => (4, a)) ++ [(4, k.taken), (4, k.width)] }
          (resumeJob job .shrink s1)
  | _, _ => s

/-! ### CKP.* commands (R378) -/

/-- The retained checkpoint a command's handle names, if the function owns its job or holds owner rights. -/
def cmdCkp (s : State) (src : Src) (h : Nat) : Option Retained :=
  s.ckp.retained.find? fun r => r.catalogue != 0 && r.catalogue == h && (r.fn == srcFn s src || srcOwner s src)

/-- Is the job of a checkpoint DONE? One that has been released is. -/
def ckpDone (s : State) (r : Retained) : Bool := match jobOf s r.job with
  | some j => j.status.isSome
  | none => true

def doCkpPolicy (src : Src) (p : Bytes) (s : State) : State :=
  start ⟨src, 0x0901, .ckpPolicy src p, false, [(8, 40)], p⟩ (fun s =>
    let job := getLE p 0 4
    match cmdJob s src job with
    | none => complete src sJobUnknown [] s
    | some _ =>
      let w := getLE p 6 2
      complete src sOk [] (setPolicy job (fun q => { q with interval := getLE p 4 2, window := if w = 0 then 64 else w }) s)) s

def doCkpTake (src : Src) (p : Bytes) (s : State) : State :=
  start ⟨src, 0x0902, .ckpTake src p, false, [(4, 44)], p⟩ (fun s =>
    let job := getLE p 0 4
    match cmdJob s src job with
    | none => complete src sJobUnknown [] s
    | some j =>
      if j.status.isSome then complete src sCtxState [] s
      else if (captureOf s job).isSome then complete src 0x0905 [] s
      else captureNow job (await src (.ckpTake job) s)) s

/-- CKP.RESTORE: the checks of R372, then admission on the members of the catalogue. Of another member the module knows
that a route leads to it; it is FLEET_READY itself (log entry 88). -/
def doCkpRestore (src : Src) (p : Bytes) (s : State) : State :=
  start ⟨src, 0x0903, .ckpRestore src p, false, [(0x11, 31)], p⟩ (fun s =>
    if 1 < getLE p 0x10 1 then complete src sBadField [] s else
    match cmdCkp s src (getLE p 0 8) with
    | none => complete src 0x0901 [] s
    | some r => match r.part.bind (·.job) with
      | none => complete src 0x0902 [] s
      | some j0 =>
        if !ckpDone s r then complete src sCtxState [] s
        else if !(s.dvl.fleetReady && r.members.all fun m => reachable s m.1) then complete src 0x0903 [] s
        else if !(s.jig.running && (r.part.map (·.bankDigest)) == some (bankDigest (activeBank s))) then complete src 0x0904 [] s
        else if (fnOf s j0.fn).maxCtx ≤ fnContexts s j0.fn then complete src sNoResource [] s
        else
          let id := newJobId s
          let j := { blankJob id j0.fn with
            tenant := j0.tenant, jobTag := j0.jobTag, pipeline := j0.pipeline, seed := j0.seed, steps := j0.steps
            mbPerStep := j0.mbPerStep, manifest := j0.manifest, group := j0.group, members := r.members.map (·.1)
            deadline := if getLE p 8 8 = 0 then j0.deadline else getLE p 8 8
            flags := if bit (getLE p 0x10 1) 0 then j0.flags ||| 2 else j0.flags
            stepsDone := r.step, restoring := some (r.job, r.cseq) }
          reserveRestore id (await src (.restore id) (addJob j s))) s

/-- Release one retained capture here: its references, its place in the record, its catalogue. -/
def releaseCkp (job cseq : Nat) (s : State) : State := match retainedOf s job cseq with
  | none => s
  | some r =>
    let s1 := releasePart r.part { s with ckp := { s.ckp with retained := s.ckp.retained.filter fun x => !(x.job == job && x.cseq == cseq) } }
    let s2 := if r.inRecord then
        let s2 := writeRecord 0x0009 (recordParts s1 job) s1
        { s2 with ckp := { s2.ckp with localSeq := recSeq s2 0x0009 } }
      else s1
    if r.catalogue = 0 then s2 else dropObj r.catalogue s2

def doCkpRelease (src : Src) (p : Bytes) (s : State) : State :=
  start ⟨src, 0x0904, .ckpRelease src p, false, [(8, 40)], p⟩ (fun s =>
    match cmdCkp s src (getLE p 0 8) with
    | none => complete src 0x0901 [] s
    | some r =>
      if !ckpDone s r then complete src sCtxState [] s
      else complete src sOk [] (releaseCkp r.job r.cseq
        (sendAll ((r.members.map (·.1)).filter (· != s.dvl.addr)) (.jobCtl (.ckpRelease r.job r.cseq)) s))) s

def doCkpQuery (src : Src) (p : Bytes) (s : State) : State :=
  start ⟨src, 0x0905, .ckpQuery src p, false, [(8, 40)], p⟩ (fun s =>
    match cmdCkp s src (getLE p 0 8) with
    | none => complete src 0x0901 [] s
    | some r => complete src sOk [r.cseq % 2 ^ 32, r.step, r.members.length, r.partBytes / mib] s) s

def doCkpReserve (src : Src) (p : Bytes) (s : State) : State :=
  start ⟨src, 0x0906, .ckpReserve src p, true, [(1, 47)], p⟩ (fun s =>
    let g := getLE p 0 1
    if 128 < g then complete src sBadField [] s
    else if !(bankImages (activeBank s)).isEmpty || !(bankImages (shadowBank s)).isEmpty then complete src sBusy [] s
    else complete src sOk [] { s with ckp := { s.ckp with reserveGiB := g } }) s

/-! ### Rows of the table -/

def execCkpPolicy (src : Src) (p : Bytes) (s : State) : Host.Outcome State Fault Refusal := .next (settle s (doCkpPolicy src p s))

def execCkpTake (src : Src) (p : Bytes) (s : State) : Host.Outcome State Fault Refusal := .next (settle s (doCkpTake src p s))

def execCkpRestore (src : Src) (p : Bytes) (s : State) : Host.Outcome State Fault Refusal := .next (settle s (doCkpRestore src p s))

def execCkpRelease (src : Src) (p : Bytes) (s : State) : Host.Outcome State Fault Refusal := .next (settle s (doCkpRelease src p s))

def execCkpQuery (src : Src) (p : Bytes) (s : State) : Host.Outcome State Fault Refusal := .next (settle s (doCkpQuery src p s))

def execCkpReserve (src : Src) (p : Bytes) (s : State) : Host.Outcome State Fault Refusal := .next (settle s (doCkpReserve src p s))

def execCkpCopy (h : MsgHdr) (c : CopySeg) (s : State) : Host.Outcome State Fault Refusal := .next (settle s (doCkpCopy h c s))

def execCkpAck (h : MsgHdr) (job cseq offset : Nat) (refused : Bool) (s : State) : Host.Outcome State Fault Refusal :=
  .next (settle s (doCkpAck h job cseq offset refused s))

def execCkpAckTimeout (job : Nat) (s : State) : Host.Outcome State Fault Refusal := .next (settle s (doCkpAckTimeout job s))

def execCaptureWindowExpiry (job : Nat) (s : State) : Host.Outcome State Fault Refusal := .next (settle s (doCaptureExpiry job s))

def execCaptureRetain (job : Nat) (s : State) : Host.Outcome State Fault Refusal := .next (settle s (doCaptureRetain job s))

def execLocalCheckpointWrite (job : Nat) (s : State) : Host.Outcome State Fault Refusal := .next (settle s (doLocalWrite job s))

def execMemberLoss (job addr : Nat) (s : State) : Host.Outcome State Fault Refusal := .next (settle s (doMemberLoss job addr s))

def execShrinkResume (job : Nat) (s : State) : Host.Outcome State Fault Refusal := .next (settle s (doShrinkResume job s))

end Sys2Proof.Machine
end

