-- ==== Sys2Proof/Machine/Debug.lean ====
section
/-! DEFINITION. Reading the error log and the persistent summary, debug views and tests (R433-R442). -/

namespace Sys2Proof.Machine

/-! ### The log ring (R433, R434) -/

/-- Records of the range that a function sees, in seq order; record numbers wrap at 2^32. -/
def readable (s : State) (f first n : Nat) : List LogRec :=
  s.dbg.log.reverse.filter fun r => decide ((r.seq % 2 ^ 32 + 2 ^ 32 - first) % 2 ^ 32 < n) && visible s f r

/-- The oldest seq held. -/
def oldestSeq (s : State) : Nat := ((s.dbg.log.getLast?).map (·.seq)).getD 0

def doLogRead (src : Src) (p : Bytes) (s : State) : State :=
  start ⟨src, 0x0B01, .dbgLogRead src p, false, [(6, 2), (0x10, 32)], p⟩ (fun s =>
    let n := getLE p 4 2
    let f := srcFn s src
    if n = 0 || 4096 < n then complete src sBadField [] s
    else
      let rs := readable s f (getLE p 0 4) n
      complete src sOk [rs.length, oldestSeq s % 2 ^ 32] (emit (.hostWrite (fnPort f) (getLE p 8 8) (rs.flatMap recBytes)) s)) s

def doSummaryRead (src : Src) (p : Bytes) (s : State) : State :=
  start ⟨src, 0x0B02, .dbgSummaryRead src p, true, [(0x0C, 36)], p⟩ (fun s =>
    let b := summaryBytes s.dbg.saved
    let n := min (getLE p 8 4) b.length
    complete src sOk [b.length % 2 ^ 32] (emit (.hostWrite (fnPort (srcFn s src)) (getLE p 0 8) (b.take n)) s)) s

/-- SUMMARY_WRITE (R437): at once after a record of severity 3, else 60 s after the last one. A write that fails leaves
the valid copy, and the next write retries it. -/
def doSummaryWrite (ok : Bool) (s : State) : State :=
  let s1 := if s.dbg.summaryDue then s else advance (s.dbg.lastSummary + 60000000000) s
  if ok then writeSummary s1
  else
    let r := tget .erased s1.mem.records 0x0005
    let s2 := { s1 with dbg := { s1.dbg with lastSummary := s1.now, summaryDue := false } }
    raise { code := 0x0B02, detail := [(1, if r.bank1 ≤ r.bank0 then 1 else 0), (8, recSeq s1 0x0005 + 1)] } s2

/-! ### Views (R438) -/

def le32s (l : List Nat) : Bytes := l.flatMap (toLE 4)

/-- View 0: the registers of a queue. -/
def viewQueue (s : State) (f q : Nat) : Bytes :=
  let k := queueOf s q
  toLE 4 (mqOcc k) ++ le32s (mqCfg k) ++ headEntry s f q

/-- View 1: the registers of a binding, and the seqs of its resend window. -/
def viewBinding (s : State) (b : Nat) : Bytes := le32s (mqTx (bindOf s b)) ++ le32s ((bindOf s b).window.map (·.1))

/-- View 2: 64 B of a tile; the spec lists the fields without offsets. -/
def viewTile (s : State) (t : Nat) : Bytes :=
  let x := tileOf s t
  let op := x.running.getD (0, 0, 0)
  let cur := x.grid.cur.owner.getD (0, 0)
  let nxt := x.grid.nxt.owner.getD (0, 0)
  slice (Config.layout 2 ([op.1, op.2.1, op.2.2, cur.1, cur.2, nxt.1, nxt.2, x.passes, x.level, x.slewNs] ++
    ((x.groups.filter fun g => !g.closed).flatMap fun g => [g.ctx, g.version, g.rows]) ++ [x.indexCnt])) 0 64

/-- View 3: the jig's registers, and the entry that runs on each tile. -/
def viewJig (s : State) : Bytes :=
  le32s [jigStatus s, lo32 s.jig.frame, hi32 s.jig.frame] ++ le32s ((List.range 64).map fun r => jigReg s (0x104 + 4 * r)) ++
    Config.layout 3 ((List.range 256).flatMap fun t => match (tileOf s t).prog with
      | some (n, _, _) => [t, n]
      | none => [])

/-- View 4: a glue-up queue: its registers, pages held, close_t. Pages are 64 KiB of contributions held (R239). -/
def viewGlue (s : State) (q : Nat) : Bytes :=
  let i := queueInst s q
  let held := (i.map fun i => ((i.got.map fun g => (g.2.length + 65535) / 65536).foldl (· + ·) 0)).getD 0
  le32s (gluQ s q) ++ Config.layout 4 [held, (i.map (·.closeT)).getD 0]

/-- View 5: a bundle: wavelengths in use, spares used, errors counted. -/
def viewBundle (s : State) (b : Nat) : Bytes :=
  let failed := tget [] s.dbg.lanes b
  Config.layout 5 ([32, min failed.length 2, tget 0 s.dbg.laneErrs b] ++ failed)

/-- The bytes of a view, or none for an invalid view or selector. -/
def viewBytes (s : State) (f view sel : Nat) : Option Bytes :=
  match view with
  | 0 => if sel < 256 then some (viewQueue s f sel) else none
  | 1 => if sel < 256 then some (viewBinding s sel) else none
  | 2 => if sel < 256 then some (viewTile s sel) else none
  | 3 => if sel = 0 then some (viewJig s) else none
  | 4 => if sel < 256 then some (viewGlue s sel) else none
  | 5 => if sel < 104 then some (viewBundle s sel) else none
  | _ => none

def doDbgView (src : Src) (p : Bytes) (s : State) : State :=
  start ⟨src, 0x0B03, .dbgView src p, true, [(1, 1), (4, 4), (0x10, 32)], p⟩ (fun s =>
    let f := srcFn s src
    match viewBytes s f (getLE p 0 1) (getLE p 2 2) with
    | none => complete src sBadField [] s
    | some b => complete src sOk [] (emit (.hostWrite (fnPort f) (getLE p 8 8) b) s)) s

/-! ### Tests (R439, R440) -/

/-- The failures a test found, as (bundle or port, wavelength); a control wire counts as one, with no bundle. -/
def testFailures (test port : Nat) (r : TestResult) : List (Nat × Nat) :=
  if test = 0 then (r.lanes.flatMap fun e => e.2.map fun w => (e.1.val, w.val)) ++ (if r.wireFail then [(255, 0)] else [])
  else if r.loopFail then [(port, 0)] else []

/-- Is DBG.TEST refused with S_DBG_STATE? -/
def testBusy (s : State) (test port : Nat) : Bool :=
  s.jig.running || (s.vnr.ctxs.any fun e => e.2.state != .free && e.2.state != .done) ||
    (test == 1 && (portOf s port).state != 0)

/-- DBG.TEST, with what the test found. A bundle with three failures, or a failed control wire, gives OUT cause 0x02. -/
def doDbgTest (src : Src) (p : Bytes) (r : TestResult) (s : State) : State :=
  start ⟨src, 0x0B04, .dbgTest src p r, true, [(2, 46)], p⟩ (fun s =>
    let test := getLE p 0 1
    let port := getLE p 1 1
    if 1 < test || 31 < port then complete src sBadField [] s
    else if testBusy s test port then complete src 0x0B01 [] s
    else
      let fs := testFailures test port r
      let one := fs.headD (0, 0)
      let s1 := raise { code := 0x0B01, detail := [(1, test), (1, min fs.length 255), (1, one.1), (1, one.2)] } s
      let a := if test = 0 then assignSpares r s1 else (true, s1)
      complete src sOk [fs.length] (if a.1 then a.2 else goOut 2 a.2)) s

/-! ### Rows of the table -/

def execDbgLogRead (src : Src) (p : Bytes) (s : State) : Host.Outcome State Fault Refusal := .next (settle s (doLogRead src p s))

def execDbgSummaryRead (src : Src) (p : Bytes) (s : State) : Host.Outcome State Fault Refusal :=
  .next (settle s (doSummaryRead src p s))

def execDbgView (src : Src) (p : Bytes) (s : State) : Host.Outcome State Fault Refusal := .next (settle s (doDbgView src p s))

def execDbgTest (src : Src) (p : Bytes) (r : TestResult) (s : State) : Host.Outcome State Fault Refusal :=
  .next (settle s (doDbgTest src p r s))

def execSummaryWrite (ok : Bool) (s : State) : Host.Outcome State Fault Refusal := .next (settle s (doSummaryWrite ok s))

end Sys2Proof.Machine
end

