-- ==== Sys2Proof/Machine/JobCtl.lean ====
section
/-! DEFINITION. Job control between modules: what JOB_CTL and JOB_RSP messages do (R338), the timeout of a waiting
collective (R245), replica divergence and its repair (R281-R283), and the ledger commands (R251, R252). -/

namespace Sys2Proof.Machine

/-! ### A waiting collective that runs out of time (R245) -/

/-- Ranks whose contribution, chunk or first message a member still lacks. -/
def missingRanks (i : Inst) : List Nat :=
  (otherRanks i).filter fun r =>
    if cCount (instExt i) = 0 then !(i.firstSeen.any fun f => f.1 == r)
    else if instOp i = 3 || isRing i.desc then decide ((tget [] i.res r).length < chunkBytes i r)
    else (!i.summed && !(chunkRows i i.rank).isEmpty && !i.order.contains r) ||
      (returns i && decide ((tget [] i.res r).length < chunkBytes i r))

/-- The lead acts once per instance: every reported member is lost (R373). Ranks name members as the lead's own jig
gives the table; where it carries no such collective, as the job lists its members. -/
def leadMissing (job coll step : Nat) (ranks : List Nat) (s : State) : State := match jobOf s job with
  | none => s
  | some j =>
    if j.timeouts.contains (coll, step) then s
    else
      let table := match collSlot s coll, ctxOfJob s job with
        | some (_, _, (_, d) :: _), some c => memberTable s c d
        | _, _ => j.members
      (ranks.filterMap fun r => table[r]?).eraseDups.foldl (fun s a => loseMember job a s)
        (setJob job (fun j => { j with timeouts := (coll, step) :: j.timeouts }) s)

/-- COLL_TIMEOUT: the instance is abandoned without commit, its ops end with S_COLL_TIMEOUT, and the missing ranks are
reported. -/
def doCollTimeout (k : InstKey) (s : State) : State := match instOf s k with
  | none => s
  | some i =>
    if i.committed || i.stopped || holdsResults i then s
    else
      let s0 := advance (i.closeT + max (10 * bankFrameLen (activeBank s)) 100000000) s
      let miss := missingRanks i
      let s1 := stopWith 0x0502 k s0
      let s2 := raiseCtx 0x0504 8 i.ctx ([(4, k.coll), (4, k.step), (2, miss.length)] ++ miss.map fun r => (4, r)) s1
      if leadAt s2 k.job = s2.dvl.addr then leadMissing k.job k.coll k.step miss s2
      else send (leadAt s2 k.job) (.jobCtl (.missing k.job k.coll k.step miss)) s2

/-! ### Replica divergence (R281, R282) -/

/-- The list of a stage and step that a job's context holds here. -/
def ownList (s : State) (job stage step : Nat) : Option FpList :=
  (ctxOfJob s job).bind fun c => (ctxOf s c).fps.find? fun f => f.stage == stage && f.step == step

/-- This member's rank in the collective that a list names. -/
def listRank (s : State) (job : Nat) (f : FpList) : Nat := match collSlot s f.coll, ctxOfJob s job with
  | some (_, _, (_, d) :: _), some c => memberRank s c d
  | _, _ => 0

/-- FP_LIST_REQ: the member's list goes back. -/
def doFpListReq (h : MsgHdr) (job stage step : Nat) (s : State) : State := once h (fun s =>
  match ownList s job stage step with
  | none => send h.src (.fpList job stage step 0 []) s
  | some f => send h.src (.fpList job stage step (listRank s job f) ((fpShards f).map (·.fp))) s) s

/-- Members of a job that hold replicas of a stage, other than this module: those of the collective that its list names,
else those that host the stage. -/
def replicasOf (s : State) (j : Job) (stage step : Nat) : List Nat :=
  let t := match ownList s j.id stage step with
    | none => []
    | some f => match collSlot s f.coll, ctxOfJob s j.id with
      | some (_, _, (_, d) :: _), some c => memberTable s c d
      | _, _ => []
  let l := if t.length ≤ 1 then (j.memberCtx.filter fun m => m.2.2.contains stage).map (·.1) else t
  (l.filter (· != s.dvl.addr)).eraseDups

/-- F over a list of shard fingerprints (R280). -/
def fOf (fps : List Nat) : Nat :=
  let c := crc64 (fps.flatMap (toLE 8))
  if c = 0 then 1 else c

/-- HALT: the job is held on every member at the next frame boundary. -/
def halt (job : Nat) (s : State) : State :=
  holdJob job .divergence (setJob job (fun j => { j with collecting := none, asked := [], collected := [] }) s)

/-- Every list is in: with a strict majority the job is held and each minority member repairs, without one HALT. -/
def judge (job stage step : Nat) (s : State) : State := match jobOf s job with
  | none => s
  | some j =>
    let vals := j.collected.map (·.2)
    let top := vals.find? fun v => decide (vals.length < 2 * (vals.filter (· == v)).length)
    match top with
    | none => halt job s
    | some v =>
      let minor := (j.collected.filter fun e => e.2 != v).map (·.1)
      if minor.isEmpty then setJob job (fun j => { j with collecting := none, collected := [] }) s
      else
        let s1 := holdJob job .divergence (setJob job (fun j => { j with repairing := minor, copied := 0, collected := [] }) s)
        minor.foldl (fun s m =>
          if m = s.dvl.addr then match ctxOfJob s job with
            | some c => setCtx c (fun x => { x with repairs := x.repairs ++ [(stage, step)] }) s
            | none => s
          else send m (.jobCtl (.repair job stage step)) s) s1

/-- The lead hears of a divergence; it acts once per (stage, step), and one found during a repair waits; a context fault of
the job ends both (R281-R283). -/
def leadDiverged (job stage step : Nat) (s : State) : State := match jobOf s job with
  | none => s
  | some j =>
    let dead := ((ctxOfJob s job).map fun c => !activeCtx (ctxOf s c)).getD false
    if j.status.isSome || dead || j.diverged.contains (stage, step) then s
    else if j.collecting.isSome then
      setJob job (fun j => { j with laterDiv := if j.laterDiv.contains (stage, step) then j.laterDiv else j.laterDiv ++ [(stage, step)] }) s
    else
      let s1 := setJob job (fun j => { j with diverged := (stage, step) :: j.diverged }) s
      if !bit j.flags 0 then halt job s1
      else
        let others := replicasOf s1 j stage step
        let own := match ownList s1 job stage step with
          | some f => [(s.dvl.addr, fOf ((fpShards f).map (·.fp)))]
          | none => []
        let s2 := setJob job (fun j => { j with collecting := some (stage, step), asked := others, collected := own }) s1
        if others.isEmpty then judge job stage step s2 else sendAll others (.fpListReq job stage step) s2

/-- The lowest shard at which two lists differ. -/
def firstDiff (f : FpList) (fps : List Nat) : Option (FpShard × Nat) :=
  ((fpShards f).zip fps).find? fun e => e.1.fp != e.2

/-- A received list differs from this member's own: the event, and the lead hears of it. -/
def compareList (job stage step rank : Nat) (fps : List Nat) (s : State) : State :=
  match ownList s job stage step, ctxOfJob s job with
  | some f, some c => match firstDiff f fps with
    | none => s
    | some (x, other) =>
      let s1 := raiseCtx 0x0603 8 c [(2, stage), (4, x.no), (4, step), (4, listRank s job f), (4, rank), (8, x.fp), (8, other)]
        { s with vnr := { s.vnr with divergeCnt := satInc s.vnr.divergeCnt } }
      if leadAt s1 job = s1.dvl.addr then leadDiverged job stage step s1
      else send (leadAt s1 job) (.jobCtl (.diverged job stage step x.no)) s1
  | _, _ => s

/-- FP_LIST: for a list the lead collects, the vote; else the comparison of R281. -/
def doFpList (h : MsgHdr) (job stage step rank : Nat) (fps : List Nat) (s : State) : State := once h (fun s =>
  let s0 := setJob job (fun j => { j with finalLists := j.finalLists.filter (· != (h.src, stage)) }) s
  match jobOf s0 job with
  | some j =>
    if j.collecting = some (stage, step) && j.asked.contains h.src then
      let s1 := setJob job (fun j => { j with
        asked := j.asked.filter (· != h.src), collected := j.collected ++ [(h.src, fOf fps)] }) s0
      if (j.asked.filter (· != h.src)).isEmpty then judge job stage step s1 else s1
    else compareList job stage step rank fps s0
  | none => compareList job stage step rank fps s0) s

/-- The final step's lists are asked for before completion is committed (R281). -/
def askFinal (job : Nat) (s : State) : State := match jobOf s job, ctxOfJob s job with
  | some j, some c =>
    let x := ctxOf s c
    ((x.fps.filter fun f => f.step + 1 == x.steps)).foldl (fun s f =>
      let others := replicasOf s j f.stage f.step
      sendAll others (.fpListReq job f.stage f.step)
        (setJob job (fun j => { j with finalLists := j.finalLists ++ others.map fun a => (a, f.stage) }) s)) s
  | _, _ => s

/-! ### Repair (R282) -/

/-- A shard's repaired bytes in place: in the new object of the version, or in the slice of a tile store. -/
def patchShard (c : Nat) (objs : List (Nat × Nat)) (x : FpShard) (bs : Bytes) (s : State) : State :=
  if x.handle = 0 then
    wrField ⟨x.tile, 0x13, 0, c, 0, 0, 0, 0, windowBytes s, 0, none, none, none⟩ (x.off % 2 ^ 32) bs s
  else match objs.find? fun o => o.1 == x.handle with
    | some (_, h) => writeObj h x.off bs false s
    | none => s

/-- The lead counts a repair; after every report the job resumes at the next frame boundary, EV_REPLICA_REPAIRED is
raised, and a divergence found meanwhile is handled. -/
def memberRepaired (job member stage step n : Nat) (s : State) : State := match jobOf s job with
  | none => s
  | some j =>
    let left := j.repairing.filter (· != member)
    if !j.repairing.contains member then s
    else
      let s1 := setJob job (fun j => { j with repairing := left, copied := j.copied + n }) s
      if !left.isEmpty then s1
      else
        let s2 := setJob job (fun j => { j with collecting := none, laterDiv := j.laterDiv.drop 1 }) s1
        let s3 := raise { code := 0x0604, fn := some j.fn, ctx := ctxOfJob s2 job, tenant := j.tenant, job := job,
                          detail := [(2, stage), (4, step), (4, j.copied + n)] } (resumeJob job .divergence s2)
        match j.laterDiv with
        | (st, k) :: _ => leadDiverged job st k s3
        | [] => s3

/-- REPLICA_REPAIR: a minority member has the differing shards of the lowest-ranked majority member. New objects take the
version's bytes and the shards, the entry switches to them, and the shards are fingerprinted again. -/
def doReplicaRepair (c stage : Nat) (shards : List (Nat × Bytes)) (s : State) : State :=
  let x := ctxOf s c
  match x.repairs.find? fun r => r.1 == stage, currentVer x stage with
  | some (_, step), some v =>
    let e := verOf s c stage v
    let f := fpListOf x stage step
    let hit := f.shards.filterMap fun y => (shards.find? fun b => b.1 == y.no).map fun b => (y, b.2)
    let made := e.objects.foldl (fun (acc : List (Nat × Nat × Nat) × State) o =>
      let b := objBytes acc.2 o.2 0 (objSize acc.2 o.2)
      let r := ctxObject c (.version c stage) (stageHome s stage) b.length b acc.2
      (acc.1 ++ [(o.1, o.2, r.1)], r.2)) ([], s)
    let swap := made.1.map fun m => (m.2.1, m.2.2)
    let s1 := hit.foldl (fun s y => patchShard c swap y.1 y.2 s) made.2
    let s2 := setVer c stage v (fun e => { e with objects := made.1.map fun m => (m.1, m.2.2), copies := [] }) s1
    let s3 := e.objects.foldl (fun s o => match findObj s o.2 with
      | some y => if outlasts s o.2 y then s else dropObj o.2 s
      | none => s) s2
    let redo (y : FpShard) : FpShard :=
      let y1 := { y with handle := ((swap.find? fun m => m.1 == y.handle).map (·.2)).getD y.handle }
      match hit.find? fun b => b.1.no == y.no with
      | some (_, b) => { y1 with fp := crc64 (slice b 0 y.len) }
      | none => y1
    let f1 : FpList := { f with shards := f.shards.map redo }
    let s4 := setCtx c (fun x => { x with
      repairs := x.repairs.filter fun r => r != (stage, step)
      fps := x.fps.map fun g => if g.stage = stage && g.step = step then { f1 with f := formF f1 } else g }) s3
    if leadAt s4 x.job = s4.dvl.addr then memberRepaired x.job s4.dvl.addr stage step hit.length s4
    else send (leadAt s4 x.job) (.jobRsp (.repaired x.job stage step hit.length)) s4
  | _, _ => s

/-! ### The deferral ledger (R251, R252) -/

/-- Order of the ledger object: step, coll_id, owner rank, late rank. -/
def ledgerLt (a b : List Nat) : Bool :=
  let k (r : List Nat) : List Nat := [r.getD 1 0, r.getD 0 0, r.getD 5 0, r.getD 2 0]
  decide (k a < k b)

/-- A record as its 16 bytes (R247), and back. -/
def ledgerRec (r : List Nat) : Bytes :=
  toLE 4 (r.getD 0 0) ++ toLE 4 (r.getD 1 0) ++
    toLE 4 (r.getD 2 0 + r.getD 3 0 * 2 ^ 18 + r.getD 4 0 * 2 ^ 19) ++ toLE 4 (r.getD 5 0)

def ledgerOf (b : Bytes) (i : Nat) : List Nat :=
  let o := 64 + 16 * i
  let w := getLE b (o + 8) 4
  [getLE b o 4, getLE b (o + 4) 4, w % 2 ^ 18, bits w 18 18, bits w 19 19, getLE b (o + 12) 4]

def ledgerBytes (job : Nat) (l : List (List Nat)) : Bytes :=
  let recs := l.flatMap ledgerRec
  toLE 4 0x474C5855 ++ toLE 4 l.length ++ toLE 4 job ++ toLE 4 (crc32c recs) ++ List.replicate 48 0 ++ recs

def ledgerSorted : List (List Nat) → Bool
  | a :: b :: r => ledgerLt a b && ledgerSorted (b :: r)
  | _ => true

/-- The records of a ledger object, or none where it is not valid (R252). -/
def parseLedger (b : Bytes) : Option (List (List Nat)) :=
  let n := getLE b 4 4
  let l := (List.range n).map (ledgerOf b)
  if getLE b 0 4 = 0x474C5855 && 64 + 16 * n ≤ b.length && n ≤ maxLedger && zeroAt b [(0x10, 48)] &&
      getLE b 0x0C 4 == crc32c (slice b 64 (16 * n)) && ledgerSorted l &&
      (List.range n).all fun i => decide (getLE b (64 + 16 * i + 8) 4 < 2 ^ 20) && decide (getLE b (64 + 16 * i + 12) 4 < 2 ^ 18)
  then some l else none

def ownLedger (s : State) (job : Nat) : List (List Nat) := match ctxOfJob s job with
  | some c => (ctxOf s c).ledger
  | none => []

/-- Every member's records are in: the ledger object is written. -/
def finishLedger (job : Nat) (s : State) : State := match jobOf s job with
  | none => s
  | some j =>
    if !(j.members.all fun m => j.ledgerGot.any fun g => g.1 == m) then s
    else
      let l := sortBy (fun a b : List Nat => !ledgerLt b a) (j.ledgerGot.flatMap (·.2)).eraseDups
      let ws := s.host.outst.filter fun o => match o.wait with
        | .ledgerRead k _ => k == job
        | _ => false
      ws.foldl (fun s o => match o.wait with
        | .ledgerRead _ h =>
          if objSize s h < 64 + 16 * l.length then complete o.src sNoResource [] s
          else complete o.src sOk [l.length] (writeObj h 0 (ledgerBytes job l) false s)
        | _ => s) (setJob job (fun j => { j with ledgerGot := [] }) s)

def ledgerAt (job member : Nat) (l : List (List Nat)) (s : State) : State :=
  finishLedger job (setJob job (fun j => { j with ledgerGot := (member, l) :: j.ledgerGot.filter fun g => g.1 != member }) s)

def doLedgerRead (src : Src) (p : Bytes) (s : State) : State :=
  start ⟨src, 0x0502, .gluLedgerRead src p, false, [(4, 4), (0x10, 32)], p⟩ (fun s =>
    let job := getLE p 0 4
    let h := getLE p 8 8
    match cmdJob s src job with
    | none => complete src sJobUnknown [] s
    | some j => match cmdObj s src h 2 with
      | .error st => complete src st [] s
      | .ok _ =>
        ledgerAt job s.dvl.addr (ownLedger s job) (sendAll (j.members.filter (· != s.dvl.addr)) (.jobCtl (.ledgerRead job))
          (await src (.ledgerRead job h) s))) s

/-- A member takes the ledger of a REPLAY job (R248). -/
def takeLedger (job : Nat) (l : List (List Nat)) (s : State) : State := match ctxOfJob s job with
  | some c => setCtx c (fun x => { x with replay := l, replayLoaded := true }) s
  | none => s

/-- A member holds its records: GLU.LEDGER_LOAD completes with the last. -/
def ledgerHeldAt (job member : Nat) (s : State) : State := match jobOf s job with
  | none => s
  | some j =>
    let got := (member, []) :: j.ledgerGot.filter fun g => g.1 != member
    if j.members.all fun m => got.any fun g => g.1 == m then
      completeWaits (· == .ledgerLoad job) sOk [] (setJob job (fun j => { j with ledgerGot := [] }) s)
    else setJob job (fun j => { j with ledgerGot := got }) s

def doLedgerLoad (src : Src) (p : Bytes) (s : State) : State :=
  start ⟨src, 0x0503, .gluLedgerLoad src p, false, [(4, 4), (0x10, 32)], p⟩ (fun s =>
    let job := getLE p 0 4
    let h := getLE p 8 8
    match cmdJob s src job with
    | none => complete src sJobUnknown [] s
    | some j =>
      let adm := match ctxOfJob s job with
        | some c => (ctxOf s c).state == .admitted
        | none => false
      if !(bit j.flags 1 && adm) then complete src sCtxState [] s
      else match cmdObj s src h 1 with
        | .error st => complete src st [] s
        | .ok o => match parseLedger (objRead o 0 o.size) with
          | none => complete src sBadField [] s
          | some l =>
            ledgerHeldAt job s.dvl.addr (takeLedger job l (sendAll (j.members.filter (· != s.dvl.addr))
              (.jobCtl (.ledgerLoad job l)) (await src (.ledgerLoad job) s)))) s

/-! ### Completion (R188) -/

/-- The bytes of a stage's current version, its objects in number order. -/
def finalBytes (s : State) (c stage : Nat) : Bytes :=
  match currentVer (ctxOf s c) stage with
  | none => []
  | some v =>
    (sortBy (fun a b : Nat × Nat => decide (a.1 ≤ b.1)) (verOf s c stage v).objects).flatMap fun o =>
      objBytes s o.2 0 (objSize s o.2)

/-- The shards that the FINGERPRINT ops of the bank's slots name, with their stages. -/
def bankShards (s : State) : List (Nat × Nat) :=
  (bankImages (planBank s)).flatMap fun b => (imgEntryList b).flatMap fun e => (slotOps b e).flatMap fun m =>
    if dKind m.2 = 0x13 then
      let sz := getLE m.2 0x28 4
      (List.range ((getLE m.2 0x20 8 + sz - 1) / max sz 1)).map fun i => (entStage b e, getLE m.2 0x2C 4 + i)
    else []

/-- Has a context here published its last version on every stage, and has FINGERPRINT run on every shard of its stages in
the last step? -/
def memberFinished (s : State) (c : Nat) : Bool :=
  let x := ctxOf s c
  activeCtx x && decide (x.steps ≤ x.step) &&
  (bankShards s).all fun k => !((ctxStages s c).any fun r => r.stage == k.1) ||
    x.fps.any fun f => f.stage == k.1 && f.step + 1 == x.steps && f.shards.any fun y => y.no == k.2

/-- What a member gives to the gathering: the bytes of each stage, and its shard fingerprints of the last step. -/
def memberFinal (s : State) (c : Nat) : List (Nat × Bytes) × List (Nat × Nat × Nat) :=
  let x := ctxOf s c
  ((ctxStages s c).map fun r => (r.stage, finalBytes s c r.stage),
    (x.fps.filter fun f => f.step + 1 == x.steps).flatMap fun f => (fpShards f).map fun y => (f.stage, y.no, y.fp))

/-- One value for each key, the first that the list gives, in the order of the keys. -/
def firstOf {α β : Type} [DecidableEq α] (le : α → α → Bool) (l : List (α × β)) : List (α × β) :=
  sortBy (fun a b : α × β => le a.1 b.1) (l.foldl (fun acc e => if acc.any fun a => decide (a.1 = e.1) then acc else acc ++ [e]) [])

/-- The result object (R188): header, one index record per stage, then each stage's objects in number order. -/
def resultBytes (job steps : Nat) (stages : List (Nat × Bytes)) : Bytes :=
  let l := firstOf (fun a b : Nat => decide (a ≤ b)) stages
  let n := l.length
  let idx := l.foldl (fun (acc : Bytes × Nat) e =>
    (acc.1 ++ toLE 2 e.1 ++ toLE 2 0 ++ toLE 4 e.2.length ++ toLE 8 acc.2, acc.2 + e.2.length)) ([], 64 + 16 * n)
  toLE 4 0x46575855 ++ toLE 4 n ++ toLE 4 job ++ toLE 4 steps ++ List.replicate 48 0 ++ idx.1 ++ l.flatMap (·.2)

/-- The job fingerprint (R188): CRC-64 over the shard fingerprints, in ascending (stage, shard) order. -/
def jobFingerprint (fps : List (Nat × Nat × Nat)) : Nat :=
  let le (a b : Nat × Nat) : Bool := decide (a.1 < b.1) || (a.1 == b.1 && decide (a.2 ≤ b.2))
  crc64 ((firstOf le (fps.map fun f => ((f.1, f.2.1), f.2.2))).flatMap fun e => toLE 8 e.2)

/-- Every member's part is in: the lead writes the pinned result object, commits completion, forms the job fingerprint,
raises EV_JOB_DONE and completes JOB.WAIT; contexts become DONE (R188, R190). -/
def commitCompletion (job c : Nat) (j : Job) (s : State) : State :=
  let own := memberFinal s c
  let steps := (ctxOf s c).step
  let bytes := resultBytes job steps (own.1 ++ j.gathered.flatMap (·.stages))
  let r := ownObj j.fn (.result job) bytes s
  let s1 := setJob job (fun j => { j with
    result := r.1, fingerprint := jobFingerprint (own.2 ++ j.gathered.flatMap (·.fps)), stepsDone := steps, gathered := [] }) r.2
  sendAll (j.members.filter (· != s.dvl.addr)) (.jobCtl (.complete job)) (finishJob job sOk (endCtx c s1))

/-- Complete where the lead and every other member have finished. -/
def completeIfAll (job : Nat) (s : State) : State :=
  match jobOf s job, ctxOfJob s job with
  | some j, some c =>
    if j.status.isNone && memberFinished s c && j.finalLists.isEmpty &&
        j.members.all fun m => m == s.dvl.addr || j.gathered.any fun g => g.member == m then commitCompletion job c j s
    else s
  | _, _ => s

/-- JOB_COMPLETE (R188): where the lead has finished, it gathers from the members that have not answered yet, and completes
with the last (log entry 26). -/
def doJobComplete (job : Nat) (s : State) : State :=
  match jobOf s job, ctxOfJob s job with
  | some j, some c =>
    if j.status.isSome || !memberFinished s c || !j.finalLists.isEmpty then s
    else completeIfAll job (sendAll (j.members.filter fun m => m != s.dvl.addr && !(j.gathered.any fun g => g.member == m))
      (.jobCtl (.gather job)) s)
  | _, _ => s

/-- A member answers the gathering. -/
def answerGather (dst job : Nat) (s : State) : State :=
  match ctxOfJob s job with
  | none => send dst (.jobRsp (.gathered job false [] [])) s
  | some c =>
    if memberFinished s c then
      let f := memberFinal s c
      send dst (.jobRsp (.gathered job true f.1 f.2)) s
    else send dst (.jobRsp (.gathered job false [] [])) s

/-- The lead takes a member's answer; a member that has not finished is asked again with the next JOB_COMPLETE. -/
def memberGathered (job member : Nat) (ok : Bool) (stages : List (Nat × Bytes)) (fps : List (Nat × Nat × Nat)) (s : State) :
    State :=
  if ok then
    completeIfAll job (setJob job (fun j => { j with
      gathered := j.gathered.filter (fun g => g.member != member) ++ [⟨member, stages, fps⟩] }) s)
  else s

/-! ### JOB_CTL and JOB_RSP (R338) -/

/-- Answer a request of the lead. -/
def answer (dst : Nat) (m : JobRsp) (s : State) : State := send dst (.jobRsp m) s

/-- What a JOB_CTL message does here: a request of the lead, or a member's notice to it. -/
def takeJobCtl (src : Nat) (m : JobCtl) (s : State) : State := match m with
  | .reserve job tenant fn deadline seed steps pipe flags mb tag =>
    let r := memberReserve job tenant fn deadline seed steps pipe flags mb tag s
    match r.1 with
    | some c => answer src (.reserved job c ((pipeStages s pipe).map (·.stage))) r.2
    | none => answer src (.refused job) r.2
  | .commit job c v0 peers init hyper =>
    let r := memberCommit job c v0 peers init hyper s
    answer src (if r.1 then .committed job else .refused job) r.2
  | .restore job c old cseq deadline flags peers =>
    let r := restoreMember job c old cseq deadline flags peers s
    answer src (if r.1 then .committed job else .restored job false) r.2
  | .release job => match ctxOfJob s job with
    | some c => freeCtx c (endCtx c s)
    | none => memberRelease job s
  | .fault job cause =>
    if (jobOf s job).isSome then leadFault job cause src s
    else match ctxOfJob s job with
      | some c =>
        let r := fresh s
        faultHere c 0x0C (r.1 % 256) (r.1 / 256 % 65536) (r.1 / 2 ^ 24) r.2
      | none => s
  | .hold job reason =>
    if (jobOf s job).isNone then ctxAct job (.hold (holdOf reason)) s
    else if holdOf reason = .veneerFull then leadFull job src true s else holdJob job (holdOf reason) s
  | .resume job reason =>
    if (jobOf s job).isNone then ctxAct job (.resume (holdOf reason)) s
    else if holdOf reason = .veneerFull then leadFull job src false s else resumeJob job (holdOf reason) s
  | .cancel job => ctxAct job .cancel s
  | .complete job => match ctxOfJob s job with
    | some c => endCtx c s
    | none => s
  | .free job => match ctxOfJob s job with
    | some c => freeCtx c s
    | none => s
  | .capture job cseq boundary =>
    let s1 := beginCapture job cseq boundary (policyOf s job).window s
    if s.jig.running then s1 else takeCapture job 0 0 0 s1
  | .partDone job cseq failed bytes => memberPart job cseq src failed bytes s
  | .retained job cseq step boundary members =>
    if ((captureOf s job).map (·.cseq)) = some cseq then
      retain job (((ctxOfJob s job).map fun c => (ctxOf s c).fn).getD 0) 0 boundary step members s
    else s
  | .abandon job cseq =>
    if ((captureOf s job).map (·.cseq)) = some cseq then
      let s1 := dropCapture job s
      { s1 with ckp := { s1.ckp with failCnt := satInc s1.ckp.failCnt } }
    else s
  | .ckpRelease job cseq => releaseCkp job cseq s
  | .leaving job => loseMember job src s
  | .missing job coll step ranks => leadMissing job coll step ranks s
  | .diverged job stage step _ => leadDiverged job stage step s
  | .repair job stage step => match ctxOfJob s job with
    | some c => setCtx c (fun x => { x with repairs := x.repairs ++ [(stage, step)] }) s
    | none => s
  | .membership job cseq replaced removed taken =>
    takeMembership ⟨job, cseq, replaced, removed, taken⟩
      (if leadOf job = src then s else { s with ckp := { s.ckp with leads := tset s.ckp.leads job src } })
  | .finish job time risk => takeFinish job time risk s
  | .ledgerRead job => answer src (.ledger job (ownLedger s job)) s
  | .ledgerLoad job records => answer src (.ledgerHeld job) (takeLedger job records s)
  | .input job m => takeInput job m s
  | .gather job => answerGather src job s

def doJobCtl (h : MsgHdr) (m : JobCtl) (s : State) : State := once h (takeJobCtl h.src m) s

/-- What a member's answer does at the lead. -/
def takeJobRsp (src : Nat) (m : JobRsp) (s : State) : State := match m with
  | .reserved job c stages => memberReserved testAndRestore job src c stages s
  | .refused job => memberRefused job src s
  | .committed job => memberCommitted job src s
  | .done job => memberDone job src s
  | .ledger job records => ledgerAt job src records s
  | .ledgerHeld job => ledgerHeldAt job src s
  | .repaired job stage step copied => memberRepaired job src stage step copied s
  | .restored job ok => match jobOf s job with
    | some j =>
      if j.admission != .admitted && !ok then
        let s1 := sendAll (j.members.filter fun m => m != s.dvl.addr && m != src) (.jobCtl (.release job)) s
        let s2 := match ctxOfJob s1 job with
          | some c => freeCtx c (endCtx c s1)
          | none => memberRelease job s1
        dropJob job 0x0902 [] s2
      else memberRestored job src ok s
    | none => s
  | .gathered job ok stages fps => memberGathered job src ok stages fps s

def doJobRsp (h : MsgHdr) (m : JobRsp) (s : State) : State := once h (takeJobRsp h.src m) s

/-! ### Rows of the table -/

def execCollTimeout (k : InstKey) (s : State) : Host.Outcome State Fault Refusal := .next (settle s (doCollTimeout k s))

def execFpListReq (h : MsgHdr) (job stage step : Nat) (s : State) : Host.Outcome State Fault Refusal :=
  .next (settle s (doFpListReq h job stage step s))

def execFpList (h : MsgHdr) (job stage step rank : Nat) (fps : List Nat) (s : State) : Host.Outcome State Fault Refusal :=
  .next (settle s (doFpList h job stage step rank fps s))

def execReplicaRepair (ctx stage : Nat) (shards : List (Nat × Bytes)) (s : State) : Host.Outcome State Fault Refusal :=
  .next (settle s (doReplicaRepair ctx stage shards s))

def execGluLedgerRead (src : Src) (p : Bytes) (s : State) : Host.Outcome State Fault Refusal :=
  .next (settle s (doLedgerRead src p s))

def execGluLedgerLoad (src : Src) (p : Bytes) (s : State) : Host.Outcome State Fault Refusal :=
  .next (settle s (doLedgerLoad src p s))

def execJobComplete (job : Nat) (s : State) : Host.Outcome State Fault Refusal := .next (settle s (doJobComplete job s))

def execJobCtl (h : MsgHdr) (m : JobCtl) (s : State) : Host.Outcome State Fault Refusal := .next (settle s (doJobCtl h m s))

def execJobRsp (h : MsgHdr) (m : JobRsp) (s : State) : Host.Outcome State Fault Refusal := .next (settle s (doJobRsp h m s))

end Sys2Proof.Machine
end

