-- ==== Sys2Proof/Machine/Boundary.lean ====
section
/-! DEFINITION. The frame boundary (chapter 7): what happens at one instant, in the order of R222 and R219, and the
switch of banks (R220). -/

namespace Sys2Proof.Machine

/-! ### Phase moves and publication (R175, R176, R216) -/

/-- The entry that the next version of a stage takes. -/
def nextEntry (x : Ctx) (stage : Nat) : Nat := ((currentVer x stage).getD 15 + 1) % 16

/-- The stages of a context whose next entry is not EMPTY. -/
def fullStages (s : State) (c : Nat) : List Nat :=
  ((ctxStages s c).map (·.stage)).filter fun st => (verOf s c st (nextEntry (ctxOf s c) st)).state != 0

/-- Publication step 1 on one stage: the next entry is LOADING, with one object for each object of the current version,
holding its bytes. Where the objects cannot be allocated the context faults with the cause LOAD. -/
def openVersion (c stage : Nat) (s : State) : State :=
  let x := ctxOf s c
  match currentVer x stage with
  | none => s
  | some v =>
    let objs := (verOf s c stage v).objects
    if !((ctxStages s c).all fun r => r.stage != stage || stageFits s c r (objs.map fun o => objSize s o.2)) then
      ctxFaultNoOp c 0x0D s
    else
      let made := objs.foldl (fun (acc : List (Nat × Nat) × State) o =>
        let b := objBytes acc.2 o.2 0 (objSize acc.2 o.2)
        let r := ctxObject c (.version c stage) (stageHome s stage) b.length b acc.2
        (acc.1 ++ [(o.1, r.1)], r.2)) ([], s)
      setVer c stage (nextEntry x stage) (fun _ => { Version.empty with state := 1, objects := made.1 }) made.2

/-- Publication step 2 on one stage: the LOADING entry is READY and current. -/
def closeVersion (c stage : Nat) (s : State) : State :=
  let x := ctxOf s c
  let n := nextEntry x stage
  if (verOf s c stage n).state != 1 then s
  else
    let s1 := match currentVer x stage with
      | some v => setVer c stage v (fun e => { e with current := false, refs := e.refs - 1 }) s
      | none => s
    setVer c stage n (fun e => { e with state := 2, current := true, refs := e.refs + 1 }) s1

/-- A context leaves its phase for another at this boundary. -/
def enterPhase (c p : Nat) (s : State) : State :=
  let x := ctxOf s c
  let frame := s.jig.frame
  let s1 := if x.phase ≤ 1 && p != 1 then lossBoundary c s else s
  let s2 := if x.phase = 3 then setCtx c (formFps x.step) (((ctxStages s1 c).map (·.stage)).foldl (fun s st => closeVersion c st s) s1)
    else s1
  let s3 := setCtx c (fun x => { x with phase := p, rowFramesIn := 0, movedAt := some frame }) s2
  if p = 3 then ((ctxStages s3 c).map (·.stage)).foldl (fun s st => openVersion c st s) s3
  else if p = 0 then
    let s4 := setCtx c (fun x => clearStepHists { x with step := x.step + 1, nextMb := 0 }) s3
    let s5 := setJob x.job (fun j => { j with stepsDone := max j.stepsDone (x.step + 1) }) s4
    if x.step + 1 = x.steps then askFinal x.job s5 else s5
  else s3

/-- The veneer store is full when UPDATE is due (R176): the context is held, its lead holds the job on every member, and
EV_VNR_FULL is raised once. -/
def holdFull (c : Nat) (s : State) : State :=
  let x := ctxOf s c
  let st := (fullStages s c).headD 0
  let v := nextEntry x st
  let s2 := tellFull x.job true (ctxActNow c (.hold .veneerFull) s)
  if x.fullRaised then s2
  else raiseCtx 0x0403 8 c [(2, st), (1, v), (4, (verOf s c st v).refs)] (setCtx c (fun x => { x with fullRaised := true }) s2)

/-- A context moves at this boundary, as its commit announces. -/
def moveCtx (c : Nat) (s : State) : State :=
  let x := ctxOf s c
  if !activeCtx x then s
  else
    let p := nextPhase (activeBank s) x.phase
    if p = 3 && !(fullStages s c).isEmpty then holdFull c s else enterPhase c p s

/-- The moves that the commits for the frame that begins announce. -/
def runMoves (s : State) : State :=
  ((s.jig.commits.filter fun m => m.frame == s.jig.frame).flatMap (·.moves)).eraseDups.foldl (fun s c => moveCtx c s) s

/-- Contexts held for a full veneer store whose entries have retired move on: this hold ends, and no other (R176). -/
def retryFull (s : State) : State :=
  s.vnr.ctxs.foldl (fun s e =>
    let x := ctxOf s e.1
    if x.fullRaised && x.holds.contains .veneerFull && (fullStages s e.1).isEmpty then
      let s1 := setCtx e.1 (fun x => { x with fullRaised := false }) (enterPhase e.1 3 s)
      tellFull x.job false (ctxActNow e.1 (.resume .veneerFull) s1)
    else s) s

/-! ### What waits for a boundary -/

/-- Holds, resumes and cancels (R190, R219), and the commands that wait for them. -/
def runActs (s : State) : State :=
  let s1 := s.vnr.ctxs.foldl (fun s e =>
    if e.2.acts.isEmpty then s
    else e.2.acts.foldl (fun s a => ctxActNow e.1 a s)
      { setCtx e.1 (fun x => { x with acts := [] }) s with jig := { s.jig with retest := true } }) s
  completeWaits (fun w => match w with
    | .holdJob _ _ => true
    | _ => false) sOk [] s1

/-- KRF commands take effect (R284). -/
def runKrf (s : State) : State :=
  s.host.outst.foldl (fun s o => applyKrf o s) s

/-- Once-per-frame marks are cleared, and revoked grants end (R292). -/
def clearMarks (s : State) : State :=
  mapObjs (fun o => { o with oldGrants := [] }) { s with
    mq := { s.mq with queues := s.mq.queues.map fun q => (q.1, { q.2 with emptyFrame := false, limitFrame := false }) }
    glu := { s.glu with lateEv := [] } }

/-- Contexts reported ready for this frame, or one before it, whose promotions have not committed: NOT_RESIDENT (R299). -/
def judgeReady (s : State) : State :=
  s.vnr.ctxs.foldl (fun s e =>
    let x := ctxOf s e.1
    match x.readyBy with
    | none => s
    | some f =>
      let left := bytesLeft s (neededObjs s e.1)
      if left = 0 then setCtx e.1 (fun x => { x with readyBy := none }) s
      else if s.jig.frame < f || !activeCtx x then s
      else
        let s1 := { setCtx e.1 (fun x => { x with readyBy := none }) s with mem := { s.mem with lateCnt := satInc s.mem.lateCnt } }
        ctxFaultNoOp e.1 6 (raiseCtx 0x0702 8 e.1 [(8, f), (8, left)] s1)) s

/-- Jobs with stop_at_deadline whose deadline has passed stop, and take a checkpoint (R187). -/
def stopDeadlines (s : State) : State :=
  s.vnr.jobs.foldl (fun s e =>
    let j := e.2
    if j.status.isSome || !bit j.flags 3 || s.now ≤ j.deadline || j.deadlineCkp || j.cancelling || j.admission != .admitted then s
    else
      let s1 := setJob e.1 (fun j => { j with deadlineCkp := true }) s
      let s2 := sendAll (j.members.filter (· != s.dvl.addr)) (.jobCtl (.hold e.1 (holdCode .timeout))) s1
      let s3 := match ctxOfJob s2 e.1 with
        | some c => ctxActNow c (.hold .timeout) s2
        | none => s2
      if (captureOf s3 e.1).isSome then s3 else captureNow e.1 s3) s

/-- Entry into HOLD and the end of it (R357, R358). -/
def runHold (s : State) : State :=
  let s1 := if s.dvl.holdDue then enterHold s else s
  if s1.dvl.holdEnd then leaveHold s1 else s1

/-- Non-finite counts that rose since the last boundary (R277). -/
def runKerf (s : State) : State := s.vnr.ctxs.foldl (fun s e => kerfBoundary e.1 s) s

/-! ### The boundary -/

/-- Cycle position and frame within the visit of frame f of a bank (R196). -/
def placeOf (b : Tab Bytes) (f : Nat) : Nat × Nat :=
  let rec go : List Bytes → Nat → Nat → Nat × Nat
    | [], i, _ => (i, 0)
    | x :: r, i, k => if k < imgFrames x then (i, k) else go r (i + 1) (k - imgFrames x)
  go (bankImages b) 0 (f % max (cycleFrames b) 1)

/-- Is the switch due at the next boundary? -/
def switchDue (s : State) : Option JigPend := match s.jig.pend with
  | some p => if switchFrame s p.t = s.jig.frame + 1 then some p else none
  | none => none

/-- What the frame that begins runs: (bank digest, cycle position, visit frame); a switch begins at position 0 of the new
bank (R222). -/
def placeNext (s : State) : Nat × Nat × Nat := match switchDue s with
  | some p => (if p.idle then 0 else bankDigest (shadowBank s), 0, 0)
  | none => (bankDigest (activeBank s), placeOf (activeBank s) (s.jig.frame + 1))

/-- The next frame begins: the switch, or the next frame of the same bank. -/
def nextFrame (s : State) : State := match switchDue s with
  | some p => switchBank p (s.jig.frame + 1) s
  | none =>
    let n := placeOf (activeBank s) (s.jig.frame + 1)
    { s with jig := { s.jig with frame := s.jig.frame + 1, pos := n.1, visit := n.2 } }

/-- Is this a cycle boundary (R196)? -/
def atCycle (s : State) : Bool := s.jig.pos == 0 && s.jig.visit == 0

/-- At a cycle boundary a shim plan takes effect (R423), dies below the floor of a bank that begins speed up (R205), and a
bank kept through SLEEP resumes (R412). -/
def atCycleStart (s : State) : State :=
  if !atCycle s then s
  else
    let s1 := raiseToFloor (applyPlan s)
    if s1.jig.paused && s1.dvl.locked && 9 ≤ s1.dvl.step && s1.dvl.step != 15 then
      { s1 with jig := { s1.jig with paused := false } }
    else s1

/-- Rows, readiness and plans of the frame that begins (R211-R213). A module that runs no slots gives no row; in HOLD its
frames still count (R221), and it goes on reporting and planning. -/
def startFrame (s : State) : State :=
  let s1 := if runsSlots s then fillRows s else { s with jig := { s.jig with rows := [] } }
  if s1.pwr.state != .active || s1.jig.paused then s1
  else
    let s2 := (bankPipes (bankAtFrame s1 (s1.jig.frame + 3)).1).foldl (fun s p => sendReady p (s.jig.frame + 3) s) (refreshPlanned (keepLimits s1))
    let s3 := coordinate s2
    if runsSlots s3 then intervalCapture s3 else s3

/-- The boundary that ends the frame which runs. Captures come first (R222), then what waited for a boundary, then the
next frame. -/
def boundary (s : State) : State :=
  let s0 := advance (frameStart s (s.jig.frame + 1)) s
  let place := placeNext s0
  let s1 := windowFrame (takeCaptures place.1 place.2.1 place.2.2 s0)
  let s2 := throttleWindow (noteUsage (runKerf (runKrf (clearMarks s1))))
  let s3 := stopDeadlines (runRollbacks (runActs s2))
  let s4 := runHold (nextFrame s3)
  if s4.pkg.resetDue then moduleReset none s4
  else
    let s5 := match s4.pwr.entryDue with
      | some (p, planned) => if s4.pwr.state == .active then stopSlots p planned s4 else s4
      | none => s4
    if !s5.jig.running then s5
    else startFrame (startRestored (judgeReady (retryFull (runMoves (atCycleStart s5)))))

/-- FRAME_BOUNDARY; with no active bank no frames are counted (R221). -/
def doFrameBoundary (s : State) : State := if s.jig.running then boundary s else s

/-- Has the clock-root election settled, and is fabric time locked (R220, R349)? -/
def mayStart (s : State) : Bool := s.dvl.locked && 7 ≤ s.dvl.step && s.dvl.step != 15

/-- BANK_SWITCH: with an active bank it is the boundary at which the switch is due; with none, the instant T, by which
the module must be ELECTED and TIME_LOCKED (R220, R349). -/
def doBankSwitch (s : State) : State := match s.jig.pend with
  | none => s
  | some p =>
    if s.jig.running then (if (switchDue s).isSome then boundary s else s)
    else
      let s1 := advance p.t s
      if mayStart s1 then
        let s2 := switchBank p 0 s1
        if p.idle then s2 else startFrame (startRestored (atCycleStart s2))
      else completeWaits (· == .jigSwitch) 0x0208 [] { s1 with jig := { s1.jig with pend := none } }

def execFrameBoundary (s : State) : Host.Outcome State Fault Refusal := .next (settle s (doFrameBoundary s))

def execBankSwitch (s : State) : Host.Outcome State Fault Refusal := .next (settle s (doBankSwitch s))

end Sys2Proof.Machine
end

