-- ==== Sys2Proof/Machine/Run.lean ====
section
/-! DEFINITION. Commands on their rings (chapter 13): the fetch of a submission entry with its checks (R393, R398), the
write of completions and what it lets start or finish (R394, R395, R400), the sideband's command ring (R425), and the
moments at which held commands start (R402, R416). -/

namespace Sys2Proof.Machine

/-- Run a command of R406; every other row is not one. -/
def runHostCmd (i : Instr) (s : State) : State := match i with
  | .identify src p => doIdentify src p s
  | .flush src p => doFlush src p s
  | .fnReset src p => doFnReset src p s
  | .moduleReset src p => doModuleReset src p s
  | .ringCreate src p => doRingCreate src p s
  | .ringDelete src p => doRingDelete src p s
  | .fwCommit src p => doFwCommit src p s
  | .fwActivate src p => doFwActivate src p s
  | .ownerSet src p => doOwnerSet src p s
  | .evtWait src p => doEvtWait src p s
  | .jigLoad src p => doJigLoad src p s
  | .jigSwitch src p => doJigSwitch src p s
  | .jigDiscard src p => doJigDiscard src p s
  | .jigQuery src p => doJigQuery src p s
  | .mqCreate src p => doMqCreate src p s
  | .mqDestroy src p => doMqDestroy src p s
  | .mqBind src p => doMqBind src p s
  | .mqUnbind src p => doMqUnbind src p s
  | .mqQuery src p => doMqQuery src p s
  | .mqPurge src p => doMqPurge src p s
  | .mqPost src p => doMqPost src p s
  | .jobSubmit src p => doJobSubmit src p s
  | .jobWait src p => doJobWait src p s
  | .jobStatus src p => doJobStatus src p s
  | .jobCancel src p => doJobCancel src p s
  | .jobRelease src p => doJobRelease src p s
  | .ctxQuery src p => doCtxQuery src p s
  | .ctxHold src p => doCtxHold src p s
  | .ctxResume src p => doCtxResume src p s
  | .ctxShare src p => doCtxShare src p s
  | .vnrQuery src p => doVnrQuery src p s
  | .vnrPin src p => doVnrPin src p s
  | .vnrUnpin src p => doVnrUnpin src p s
  | .gluQuery src p => doGluQuery src p s
  | .gluLedgerRead src p => doLedgerRead src p s
  | .gluLedgerLoad src p => doLedgerLoad src p s
  | .krfRead src p => doKrfRead src p s
  | .krfClear src p => doKrfClear src p s
  | .krfHistSet src p => doKrfHistSet src p s
  | .krfLossSet src p => doKrfLossSet src p s
  | .krfFpRead src p => doKrfFpRead src p s
  | .objCreate src p => doObjCreate src p s
  | .objDestroy src p => doObjDestroy src p s
  | .objWrite src p data => doObjWrite src p data s
  | .objRead src p => doObjRead src p s
  | .objQuery src p => doObjQuery src p s
  | .objPin src p => doObjPin src p s
  | .objUnpin src p => unpinAndRetire src p s
  | .objPromote src p => doObjPromote src p s
  | .objDemote src p => doObjDemote src p s
  | .objGrant src p => doObjGrant src p s
  | .objRevoke src p => doObjRevoke src p s
  | .objAtomic src p => doObjAtomic src p s
  | .dvlQuery src p => doDvlQuery src p s
  | .dvlConfig src p => doDvlConfig src p s
  | .dvlPort src p => doDvlPort src p s
  | .dvlExtRead src p => doExtRead src p s
  | .dvlExtWrite src p => doExtWrite src p s
  | .cfgStage src p => doCfgStage src p s
  | .cfgCancel src p => doCfgCancel src p s
  | .cfgQuery src p => doCfgQuery src p s
  | .ckpPolicy src p => doCkpPolicy src p s
  | .ckpTake src p => doCkpTake src p s
  | .ckpRestore src p => doCkpRestore src p s
  | .ckpRelease src p => doCkpRelease src p s
  | .ckpQuery src p => doCkpQuery src p s
  | .ckpReserve src p => doCkpReserve src p s
  | .pwrState src p => doPwrState src p s
  | .pwrAlarm src p => doPwrAlarm src p s
  | .pwrQuery src p => doPwrQuery src p s
  | .pwrReplan src p m => doPwrReplan src p m s
  | .dbgLogRead src p => doLogRead src p s
  | .dbgSummaryRead src p => doSummaryRead src p s
  | .dbgView src p => doDbgView src p s
  | .dbgTest src p r => doDbgTest src p r s
  | _ => s

/-- The parameter bytes that are rsvd, and owner rights, of the commands that need data from outside. -/
def dataInfo (opcode : Nat) : Bool × List (Nat × Nat) :=
  if opcode = 0x0703 then (false, [(0x15, 3), (0x20, 16)])
  else if opcode = 0x0A04 then (true, [(0, 48)])
  else (true, [(2, 46)])

/-- Start a fetched command. One that needs data its fetch could not bring passes its checks and then stays started
until its own row brings the data (log entry 11). -/
def runFetched (opcode : Nat) (p : Bytes) (src : Src) (cmd : Instr) (s : State) : State :=
  if needsData opcode && cmdOf opcode src p == some cmd then
    start ⟨src, opcode, cmd, (dataInfo opcode).1, (dataInfo opcode).2, p⟩ (await src .started) s
  else runHostCmd cmd s

/-- The parameters a command carries, as its fetch gave them. -/
def cmdParams : Instr → Bytes
  | .objWrite _ p _ => p
  | .pwrReplan _ p _ => p
  | .dbgTest _ p _ => p
  | _ => []

/-- Start again, in fetch order, the commands that were held and are held no longer (R394, R402, R416). -/
def runHeld (s : State) : State :=
  (s.host.outst.filter fun o => o.wait == .held).foldl (fun s o =>
    if s.host.outst.any fun x => Outst.is o.src x && x.wait == .held then runFetched o.opcode (cmdParams o.cmd) o.src o.cmd s
    else s) s

/-- A FLUSH completes once every earlier command of its SQ has (R400). -/
def finishFlushes (s : State) : State :=
  (s.host.outst.filter fun o => match o.wait with
    | .flush _ _ => true
    | _ => false).foldl (fun s o => if earlier o.src s.host.outst then s else complete o.src sOk [] s) s

/-! ### COMMAND_FETCH (R393, R398) -/

/-- Is there an in-flight slot for one more command of this function (R3, R387): its reserved 128, or a share of what
is left of the module's 16,384 when every existing function has its 128? -/
def slotFree (s : State) (f : Nat) : Bool :=
  let fns := allFns.filter (fnExists s)
  let shared := (fns.map fun g => inflightOf s g - 128).foldl (· + ·) 0
  decide (inflightOf s f < 128) || decide (shared < 16384 - 128 * fns.length)

/-- Does the module fetch from this pair now (R384, R387, R390, R393, R399)? -/
def fetches (s : State) (f p : Nat) : Bool :=
  let x := fnOf s f
  x.enable && slotFree s f && !x.fatal && s.host.ready && fnExists s f && (linkOf s (fnPort f)).up && (match pairOf s f p with
    | some q => !q.closing && q.sqHead != q.sqTail
    | none => false)

/-- Is the tag in use among the outstanding commands of its ring (R393)? -/
def tagUsed (s : State) (src : Src) : Bool :=
  s.host.outst.any fun o => o.src.issuer == src.issuer && o.src.tag == src.tag

/-- Does an entry pass R398: the list of checks, the tag's uniqueness last? -/
def packetPasses (s : State) (i : Issuer) (e : Bytes) : Bool := packetOk e && !tagUsed s (packetSrc i e)

/-- A fetched command wakes a sleeping module (R416), but for IDENTIFY, EVT.WAIT and class 0x0A. -/
def fetchWakes (opcode : Nat) (s : State) : State :=
  if s.pwr.state == .sleep && opcode != 0x0101 && opcode != 0x010A && opcode / 256 != 0x0A then wakeSource 12 s else s

/-- Enter a fetched command with its fence flag (R394) and start it. -/
def launch (i : Issuer) (e : Bytes) (s : State) : State :=
  let src := packetSrc i e
  let op := getLE e 0 2
  match cmdOf op src (packetParams e) with
  | none => s
  | some cmd =>
    let s1 := { s with host := { s.host with
      outst := s.host.outst ++ [⟨src, cmd, op, bit (getLE e 2 1) 0, srcOwner s src, .started⟩] } }
    runFetched op (packetParams e) src cmd (fetchWakes op s1)

/-- An entry that fails R398 completes with S_BAD_PACKET and counts as a violation, whose value is its opcode. -/
def refusePacket (f p : Nat) (i : Issuer) (row : Instr) (e : Bytes) (s : State) : State :=
  let src := packetSrc i e
  let op := getLE e 0 2
  let s1 := { s with host := { s.host with outst := s.host.outst ++ [⟨src, row, op, false, false, .done⟩] } }
  violation f violPacket p op (setPair f p (fun q => { q with held := q.held ++ [⟨src.tag, sBadPacket, [], src.noIrq⟩] }) s1)

def doCommandFetch (f p : Fin 64) (e : Bytes) (s : State) : State :=
  if !fetches s f.val p.val then s
  else
    let s1 := setPair f.val p.val (fun q => { q with sqHead := if q.sqHead + 1 = q.sqSize then 0 else q.sqHead + 1 }) s
    if packetPasses s1 (.fn f p) e then launch (.fn f p) e s1
    else refusePacket f.val p.val (.fn f p) (.commandFetch f p e) e s1

/-! ### COMPLETION_WRITE (R395) -/

/-- One completion is written; what waited for it goes on: fenced commands, a FLUSH, a RING.DELETE. -/
def doCompletionWrite (f p : Nat) (s : State) : State :=
  let s1 := dropClosed f p (finishRingDelete f p (writeCompletion f p s))
  finishFlushes (runHeld s1)

/-! ### BUROS (R425) -/

/-- A sideband entry that fails R398 is answered with S_BAD_PACKET and logged; no function's violation is counted. -/
def refuseBuros (e : Bytes) (s : State) : State :=
  reply (.completion sBadPacket (getLE e 4 2) []) (logLimited (128 * (0x80 + violPacket))
    { code := 0x0B82, source := 10, detail := [(1, violPacket), (1, 0), (4, getLE e 0 2)] } s)

/-- The data a sideband command brings with it. -/
def withData (data : Option Bytes) : Instr → Instr
  | .objWrite src p _ => .objWrite src p data
  | i => i

/-- Commands of the sideband ring that are outstanding. -/
def sbOutst (s : State) : Nat := (s.host.outst.filter fun o => o.src.issuer == .sideband).length

def launchBuros (e : Bytes) (data : Option Bytes) (s : State) : State :=
  let src := packetSrc .sideband e
  let op := getLE e 0 2
  match cmdOf op src (packetParams e) with
  | none => s
  | some cmd =>
    let s1 := { s with host := { s.host with
      outst := s.host.outst ++ [⟨src, withData data cmd, op, bit (getLE e 2 1) 0, true, .started⟩] } }
    runFetched op (packetParams e) src (withData data cmd) s1

def doBuros (e : Bytes) (data : Option Bytes) (s : State) : State := served (fun s =>
  if 16 ≤ sbOutst s then reply (.completion sBusy (getLE e 4 2) []) s
  else if packetPasses s .sideband e then finishFlushes (runHeld (launchBuros e data s))
  else refuseBuros e s) s

/-! ### Moments at which held commands start -/

/-- FW_SWITCH (R402): at the cycle boundary, or in mode IMMEDIATE the frame boundary, once the hold has begun. -/
def doFwSwitch (s : State) : State :=
  match s.host.fwAct with
  | some a => if a.holdFrom.isSome && (!s.jig.running || a.mode == 1 || atCycle s) then runHeld (switchFirmware s) else s
  | none => s

def doFwActivateTimeout (s : State) : State := runHeld (timeoutFirmware s)

/-- WAKE_COMPLETE (R412, R416): commands held for the wake start once the module is ACTIVE. -/
def doWakeComplete (s : State) : State := runHeld (reachActive s)

/-! ### Rows of the table -/

def execCommandFetch (f : Fin 64) (pair : Fin 64) (entry : Bytes) (s : State) : Host.Outcome State Fault Refusal :=
  .next (settle s (doCommandFetch f pair entry s))

def execCompletionWrite (f : Fin 64) (pair : Fin 64) (s : State) : Host.Outcome State Fault Refusal :=
  .next (settle s (doCompletionWrite f.val pair.val s))

def execBuros (cmd : Bytes) (data : Option Bytes) (s : State) : Host.Outcome State Fault Refusal :=
  .next (settle s (doBuros cmd data s))

def execFwSwitch (s : State) : Host.Outcome State Fault Refusal := .next (settle s (doFwSwitch s))

def execFwActivateTimeout (s : State) : Host.Outcome State Fault Refusal := .next (settle s (doFwActivateTimeout s))

def execWakeComplete (s : State) : Host.Outcome State Fault Refusal := .next (settle s (doWakeComplete s))

end Sys2Proof.Machine
end

