-- ==== Sys2Proof/Machine/Dispatch.lean ====
section
/-! DEFINITION. What each command does: one arm per constructor of `Instr`, each a direct call of its meaning. -/

namespace Sys2Proof.Machine

def exec (i : Instr) (s : State) : Host.Outcome State Fault Refusal :=
  match i with
  | .identify src p => Sys2Proof.Machine.execIdentify src p s
  | .flush src p => Sys2Proof.Machine.execFlush src p s
  | .fnReset src p => Sys2Proof.Machine.execFnReset src p s
  | .moduleReset src p => Sys2Proof.Machine.execModuleReset src p s
  | .ringCreate src p => Sys2Proof.Machine.execRingCreate src p s
  | .ringDelete src p => Sys2Proof.Machine.execRingDelete src p s
  | .fwCommit src p => Sys2Proof.Machine.execFwCommit src p s
  | .fwActivate src p => Sys2Proof.Machine.execFwActivate src p s
  | .ownerSet src p => Sys2Proof.Machine.execOwnerSet src p s
  | .evtWait src p => Sys2Proof.Machine.execEvtWait src p s
  | .jigLoad src p => Sys2Proof.Machine.execJigLoad src p s
  | .jigSwitch src p => Sys2Proof.Machine.execJigSwitch src p s
  | .jigDiscard src p => Sys2Proof.Machine.execJigDiscard src p s
  | .jigQuery src p => Sys2Proof.Machine.execJigQuery src p s
  | .mqCreate src p => Sys2Proof.Machine.execMqCreate src p s
  | .mqDestroy src p => Sys2Proof.Machine.execMqDestroy src p s
  | .mqBind src p => Sys2Proof.Machine.execMqBind src p s
  | .mqUnbind src p => Sys2Proof.Machine.execMqUnbind src p s
  | .mqQuery src p => Sys2Proof.Machine.execMqQuery src p s
  | .mqPurge src p => Sys2Proof.Machine.execMqPurge src p s
  | .mqPost src p => Sys2Proof.Machine.execMqPost src p s
  | .jobSubmit src p => Sys2Proof.Machine.execJobSubmit src p s
  | .jobWait src p => Sys2Proof.Machine.execJobWait src p s
  | .jobStatus src p => Sys2Proof.Machine.execJobStatus src p s
  | .jobCancel src p => Sys2Proof.Machine.execJobCancel src p s
  | .jobRelease src p => Sys2Proof.Machine.execJobRelease src p s
  | .ctxQuery src p => Sys2Proof.Machine.execCtxQuery src p s
  | .ctxHold src p => Sys2Proof.Machine.execCtxHold src p s
  | .ctxResume src p => Sys2Proof.Machine.execCtxResume src p s
  | .ctxShare src p => Sys2Proof.Machine.execCtxShare src p s
  | .vnrQuery src p => Sys2Proof.Machine.execVnrQuery src p s
  | .vnrPin src p => Sys2Proof.Machine.execVnrPin src p s
  | .vnrUnpin src p => Sys2Proof.Machine.execVnrUnpin src p s
  | .gluQuery src p => Sys2Proof.Machine.execGluQuery src p s
  | .gluLedgerRead src p => Sys2Proof.Machine.execGluLedgerRead src p s
  | .gluLedgerLoad src p => Sys2Proof.Machine.execGluLedgerLoad src p s
  | .krfRead src p => Sys2Proof.Machine.execKrfRead src p s
  | .krfClear src p => Sys2Proof.Machine.execKrfClear src p s
  | .krfHistSet src p => Sys2Proof.Machine.execKrfHistSet src p s
  | .krfLossSet src p => Sys2Proof.Machine.execKrfLossSet src p s
  | .krfFpRead src p => Sys2Proof.Machine.execKrfFpRead src p s
  | .objCreate src p => Sys2Proof.Machine.execObjCreate src p s
  | .objDestroy src p => Sys2Proof.Machine.execObjDestroy src p s
  | .objWrite src p data => Sys2Proof.Machine.execObjWrite src p data s
  | .objRead src p => Sys2Proof.Machine.execObjRead src p s
  | .objQuery src p => Sys2Proof.Machine.execObjQuery src p s
  | .objPin src p => Sys2Proof.Machine.execObjPin src p s
  | .objUnpin src p => Sys2Proof.Machine.execObjUnpin src p s
  | .objPromote src p => Sys2Proof.Machine.execObjPromote src p s
  | .objDemote src p => Sys2Proof.Machine.execObjDemote src p s
  | .objGrant src p => Sys2Proof.Machine.execObjGrant src p s
  | .objRevoke src p => Sys2Proof.Machine.execObjRevoke src p s
  | .objAtomic src p => Sys2Proof.Machine.execObjAtomic src p s
  | .dvlQuery src p => Sys2Proof.Machine.execDvlQuery src p s
  | .dvlConfig src p => Sys2Proof.Machine.execDvlConfig src p s
  | .dvlPort src p => Sys2Proof.Machine.execDvlPort src p s
  | .dvlExtRead src p => Sys2Proof.Machine.execDvlExtRead src p s
  | .dvlExtWrite src p => Sys2Proof.Machine.execDvlExtWrite src p s
  | .cfgStage src p => Sys2Proof.Machine.execCfgStage src p s
  | .cfgCancel src p => Sys2Proof.Machine.execCfgCancel src p s
  | .cfgQuery src p => Sys2Proof.Machine.execCfgQuery src p s
  | .ckpPolicy src p => Sys2Proof.Machine.execCkpPolicy src p s
  | .ckpTake src p => Sys2Proof.Machine.execCkpTake src p s
  | .ckpRestore src p => Sys2Proof.Machine.execCkpRestore src p s
  | .ckpRelease src p => Sys2Proof.Machine.execCkpRelease src p s
  | .ckpQuery src p => Sys2Proof.Machine.execCkpQuery src p s
  | .ckpReserve src p => Sys2Proof.Machine.execCkpReserve src p s
  | .pwrState src p => Sys2Proof.Machine.execPwrState src p s
  | .pwrAlarm src p => Sys2Proof.Machine.execPwrAlarm src p s
  | .pwrQuery src p => Sys2Proof.Machine.execPwrQuery src p s
  | .pwrReplan src p m => Sys2Proof.Machine.execPwrReplan src p m s
  | .dbgLogRead src p => Sys2Proof.Machine.execDbgLogRead src p s
  | .dbgSummaryRead src p => Sys2Proof.Machine.execDbgSummaryRead src p s
  | .dbgView src p => Sys2Proof.Machine.execDbgView src p s
  | .dbgTest src p r => Sys2Proof.Machine.execDbgTest src p r s
  | .sqTailDoorbell f pair v => Sys2Proof.Machine.execSqTailDoorbell f pair v s
  | .cqHeadDoorbell f pair v => Sys2Proof.Machine.execCqHeadDoorbell f pair v s
  | .fnCtrlEnableWrite f v => Sys2Proof.Machine.execFnCtrlEnableWrite f v s
  | .reg64LowRead f off => Sys2Proof.Machine.execReg64LowRead f off s
  | .reg64LowWrite f off v => Sys2Proof.Machine.execReg64LowWrite f off v s
  | .reg64HighWrite f off v => Sys2Proof.Machine.execReg64HighWrite f off v s
  | .mqHeadWord0Read f q => Sys2Proof.Machine.execMqHeadWord0Read f q s
  | .w1cWrite f off v setNow => Sys2Proof.Machine.execW1cWrite f off v setNow s
  | .rcRead f off arriving => Sys2Proof.Machine.execRcRead f off arriving s
  | .registerWrite f off v => Sys2Proof.Machine.execRegisterWrite f off v s
  | .badWidthAccess f off width write => Sys2Proof.Machine.execBadWidthAccess f off width write s
  | .commandFetch f pair entry => Sys2Proof.Machine.execCommandFetch f pair entry s
  | .fetchError f pair => Sys2Proof.Machine.execFetchError f pair s
  | .completionWrite f pair => Sys2Proof.Machine.execCompletionWrite f pair s
  | .irqCoalTimer f => Sys2Proof.Machine.execIrqCoalTimer f s
  | .flr f => Sys2Proof.Machine.execFlr f s
  | .perstAssert h kind => Sys2Proof.Machine.execPerstAssert h kind s
  | .perstDeassert h offer => Sys2Proof.Machine.execPerstDeassert h offer s
  | .pcieLinkUp h offer => Sys2Proof.Machine.execPcieLinkUp h offer s
  | .dStateChange f d pme => Sys2Proof.Machine.execDStateChange f d pme s
  | .l1Exit h => Sys2Proof.Machine.execL1Exit h s
  | .pmeRewakeTimer f => Sys2Proof.Machine.execPmeRewakeTimer f s
  | .powerGood => Sys2Proof.Machine.execPowerGood s
  | .undervoltageTrip => Sys2Proof.Machine.execUndervoltageTrip s
  | .inputBelow41v centivolts => Sys2Proof.Machine.execInputBelow41v centivolts s
  | .emergOff => Sys2Proof.Machine.execEmergOff s
  | .inletTempHigh reading => Sys2Proof.Machine.execInletTempHigh reading s
  | .inletTempTooHigh reading => Sys2Proof.Machine.execInletTempTooHigh reading s
  | .flowLow reading => Sys2Proof.Machine.execFlowLow reading s
  | .flowTooLow reading => Sys2Proof.Machine.execFlowTooLow reading s
  | .flowLost reading => Sys2Proof.Machine.execFlowLost reading s
  | .leak => Sys2Proof.Machine.execLeak s
  | .junctionTrip die reading => Sys2Proof.Machine.execJunctionTrip die reading s
  | .comparatorClear inlet flow => Sys2Proof.Machine.execComparatorClear inlet flow s
  | .leaveFleet => Sys2Proof.Machine.execLeaveFleet s
  | .wavelengthFail bundle lane => Sys2Proof.Machine.execWavelengthFail bundle lane s
  | .firmwareBootDone found => Sys2Proof.Machine.execFirmwareBootDone found s
  | .packageSelfTestDone r => Sys2Proof.Machine.execPackageSelfTestDone r s
  | .gddr7TrainingDone r => Sys2Proof.Machine.execGddr7TrainingDone r s
  | .portBringupDone => Sys2Proof.Machine.execPortBringupDone s
  | .lightDetect port low high => Sys2Proof.Machine.execLightDetect port low high s
  | .lightLoss port => Sys2Proof.Machine.execLightLoss port s
  | .laneLoss port lane => Sys2Proof.Machine.execLaneLoss port lane s
  | .portTrainingTimeout port => Sys2Proof.Machine.execPortTrainingTimeout port s
  | .portRetryTimer port => Sys2Proof.Machine.execPortRetryTimer port s
  | .retrainTimeout port => Sys2Proof.Machine.execRetrainTimeout port s
  | .replayWindowTimer port => Sys2Proof.Machine.execReplayWindowTimer port s
  | .fecAlignLoss port => Sys2Proof.Machine.execFecAlignLoss port s
  | .noFlitTimeout port => Sys2Proof.Machine.execNoFlitTimeout port s
  | .init port l f => Sys2Proof.Machine.execInit port l f s
  | .data port flit => Sys2Proof.Machine.execData port flit s
  | .idle port l => Sys2Proof.Machine.execIdle port l s
  | .nak port l seq => Sys2Proof.Machine.execNak port l seq s
  | .keepalive port l k => Sys2Proof.Machine.execKeepalive port l k s
  | .elect port l e => Sys2Proof.Machine.execElect port l e s
  | .tsync port l t => Sys2Proof.Machine.execTsync port l t s
  | .tree port l t => Sys2Proof.Machine.execTree port l t s
  | .retrain port l => Sys2Proof.Machine.execRetrain port l s
  | .ackTimer port => Sys2Proof.Machine.execAckTimer port s
  | .keepaliveTimer port => Sys2Proof.Machine.execKeepaliveTimer port s
  | .electTimer => Sys2Proof.Machine.execElectTimer s
  | .electSettleTimer => Sys2Proof.Machine.execElectSettleTimer s
  | .tsyncTimer => Sys2Proof.Machine.execTsyncTimer s
  | .treeTimer => Sys2Proof.Machine.execTreeTimer s
  | .digestCheckTimeout => Sys2Proof.Machine.execDigestCheckTimeout s
  | .rootLostTimer => Sys2Proof.Machine.execRootLostTimer s
  | .timeUnlockTimer => Sys2Proof.Machine.execTimeUnlockTimer s
  | .rtcWriteTimer => Sys2Proof.Machine.execRtcWriteTimer s
  | .liveCalTimer port lane margin => Sys2Proof.Machine.execLiveCalTimer port lane margin s
  | .laserBiasTimer port lane want => Sys2Proof.Machine.execLaserBiasTimer port lane want s
  | .cfgActivation => Sys2Proof.Machine.execCfgActivation s
  | .mqBindMsg h queue binding srcStage destStage => Sys2Proof.Machine.execMqBindMsg h queue binding srcStage destStage s
  | .mqGrant h binding g => Sys2Proof.Machine.execMqGrant h binding g s
  | .mqBlock h handle off data => Sys2Proof.Machine.execMqBlock h handle off data s
  | .mqHeader h queue binding hdr => Sys2Proof.Machine.execMqHeader h queue binding hdr s
  | .mqCredit h binding slots acked => Sys2Proof.Machine.execMqCredit h binding slots acked s
  | .mqReject h binding seq cause => Sys2Proof.Machine.execMqReject h binding seq cause s
  | .mqSync h binding free posted refused => Sys2Proof.Machine.execMqSync h binding free posted refused s
  | .creditFlushTimer queue => Sys2Proof.Machine.execCreditFlushTimer queue s
  | .mqBindTimeout binding => Sys2Proof.Machine.execMqBindTimeout binding s
  | .collData h hdr payload => Sys2Proof.Machine.execCollData h hdr payload s
  | .anchorPropose h hdr payload => Sys2Proof.Machine.execAnchorPropose h hdr payload s
  | .anchorAgree h hdr payload => Sys2Proof.Machine.execAnchorAgree h hdr payload s
  | .collResult h hdr payload => Sys2Proof.Machine.execCollResult h hdr payload s
  | .collAbort h hdr => Sys2Proof.Machine.execCollAbort h hdr s
  | .collCredit h hdr => Sys2Proof.Machine.execCollCredit h hdr s
  | .anchorDeadline k => Sys2Proof.Machine.execAnchorDeadline k s
  | .closeT k => Sys2Proof.Machine.execCloseT k s
  | .collCommit k => Sys2Proof.Machine.execCollCommit k s
  | .collTimeout k => Sys2Proof.Machine.execCollTimeout k s
  | .rowPlan h m => Sys2Proof.Machine.execRowPlan h m s
  | .rowReady h m => Sys2Proof.Machine.execRowReady h m s
  | .rowCommit h m => Sys2Proof.Machine.execRowCommit h m s
  | .jobCtl h m => Sys2Proof.Machine.execJobCtl h m s
  | .jobRsp h m => Sys2Proof.Machine.execJobRsp h m s
  | .fpListReq h job stage step => Sys2Proof.Machine.execFpListReq h job stage step s
  | .fpList h job stage step rank fps => Sys2Proof.Machine.execFpList h job stage step rank fps s
  | .ckpCopy h c => Sys2Proof.Machine.execCkpCopy h c s
  | .ckpAck h job cseq offset refused => Sys2Proof.Machine.execCkpAck h job cseq offset refused s
  | .ckpAckTimeout job => Sys2Proof.Machine.execCkpAckTimeout job s
  | .linkState port h c => Sys2Proof.Machine.execLinkState port h c s
  | .routeRecomputeDone => Sys2Proof.Machine.execRouteRecomputeDone s
  | .msgLost h lostSrc lostId mtype => Sys2Proof.Machine.execMsgLost h lostSrc lostId mtype s
  | .msgResendTimer msgId => Sys2Proof.Machine.execMsgResendTimer msgId s
  | .msgLostHoldExpiry lostSrc lostId => Sys2Proof.Machine.execMsgLostHoldExpiry lostSrc lostId s
  | .extData sp tag off data => Sys2Proof.Machine.execExtData sp tag off data s
  | .extAck sp tag => Sys2Proof.Machine.execExtAck sp tag s
  | .extErr sp tag code => Sys2Proof.Machine.execExtErr sp tag code s
  | .extTagTimeout sp tag => Sys2Proof.Machine.execExtTagTimeout sp tag s
  | .frameBoundary => Sys2Proof.Machine.execFrameBoundary s
  | .deadlineRiskTest => Sys2Proof.Machine.execDeadlineRiskTest s
  | .bankSwitch => Sys2Proof.Machine.execBankSwitch s
  | .slotStart entry tile => Sys2Proof.Machine.execSlotStart entry tile s
  | .deferredSlotStart tile => Sys2Proof.Machine.execDeferredSlotStart tile s
  | .programLate tile lateness creditWait => Sys2Proof.Machine.execProgramLate tile lateness creditWait s
  | .calWindow => Sys2Proof.Machine.execCalWindow s
  | .gemm r d parts => Sys2Proof.Machine.execGemm r d parts s
  | .gemmSend r d => Sys2Proof.Machine.execGemmSend r d s
  | .gemmRs r d => Sys2Proof.Machine.execGemmRs r d s
  | .agGemm r d => Sys2Proof.Machine.execAgGemm r d s
  | .gemmAr r d => Sys2Proof.Machine.execGemmAr r d s
  | .attnFwd r d => Sys2Proof.Machine.execAttnFwd r d s
  | .attnBwd r d => Sys2Proof.Machine.execAttnBwd r d s
  | .elemwise r d => Sys2Proof.Machine.execElemwise r d s
  | .norm r d => Sys2Proof.Machine.execNorm r d s
  | .softmaxXent r d => Sys2Proof.Machine.execSoftmaxXent r d s
  | .distillKl r d => Sys2Proof.Machine.execDistillKl r d s
  | .optAdamw r d => Sys2Proof.Machine.execOptAdamw r d s
  | .gradQ8 r d => Sys2Proof.Machine.execGradQ8 r d s
  | .cast r d => Sys2Proof.Machine.execCast r d s
  | .copy r d => Sys2Proof.Machine.execCopy r d s
  | .gather r d => Sys2Proof.Machine.execGather r d s
  | .send r d => Sys2Proof.Machine.execSend r d s
  | .sendGroupHeader r d => Sys2Proof.Machine.execSendGroupHeader r d s
  | .recv members => Sys2Proof.Machine.execRecv members s
  | .recvTakeTail members => Sys2Proof.Machine.execRecvTakeTail members s
  | .fingerprint r d => Sys2Proof.Machine.execFingerprint r d s
  | .kerfSnapshot r d => Sys2Proof.Machine.execKerfSnapshot r d s
  | .dummy r d => Sys2Proof.Machine.execDummy r d s
  | .barrier r d => Sys2Proof.Machine.execBarrier r d s
  | .embed r d => Sys2Proof.Machine.execEmbed r d s
  | .topkLogits r d => Sys2Proof.Machine.execTopkLogits r d s
  | .ctxTeardownDone ctx => Sys2Proof.Machine.execCtxTeardownDone ctx s
  | .versionRetire ctx stage v => Sys2Proof.Machine.execVersionRetire ctx stage v s
  | .jobInputPost job => Sys2Proof.Machine.execJobInputPost job s
  | .jobComplete job => Sys2Proof.Machine.execJobComplete job s
  | .replicaRepair ctx stage shards => Sys2Proof.Machine.execReplicaRepair ctx stage shards s
  | .fillGroupTimeout tile ctx version => Sys2Proof.Machine.execFillGroupTimeout tile ctx version s
  | .fillTailPoint tile => Sys2Proof.Machine.execFillTailPoint tile s
  | .keepCurrentThreshold tile => Sys2Proof.Machine.execKeepCurrentThreshold tile s
  | .tileRampUp tile => Sys2Proof.Machine.execTileRampUp tile s
  | .slewGovernorWindow die current => Sys2Proof.Machine.execSlewGovernorWindow die current s
  | .promotionCommit handle lost => Sys2Proof.Machine.execPromotionCommit handle lost s
  | .demotionCommit handle => Sys2Proof.Machine.execDemotionCommit handle s
  | .poisonRewrite handle line => Sys2Proof.Machine.execPoisonRewrite handle line s
  | .wcbIdleTimer mem handle line => Sys2Proof.Machine.execWcbIdleTimer mem handle line s
  | .accessCountHalving => Sys2Proof.Machine.execAccessCountHalving s
  | .flashDieFailed ch die => Sys2Proof.Machine.execFlashDieFailed ch die s
  | .rebuildDone ch die lost => Sys2Proof.Machine.execRebuildDone ch die lost s
  | .blockRefresh ch die block => Sys2Proof.Machine.execBlockRefresh ch die block s
  | .wearLevelMove ch die src dst => Sys2Proof.Machine.execWearLevelMove ch die src dst s
  | .slcFold handle => Sys2Proof.Machine.execSlcFold handle s
  | .blockMapWrite => Sys2Proof.Machine.execBlockMapWrite s
  | .captureWindowExpiry job => Sys2Proof.Machine.execCaptureWindowExpiry job s
  | .captureRetain job => Sys2Proof.Machine.execCaptureRetain job s
  | .localCheckpointWrite job => Sys2Proof.Machine.execLocalCheckpointWrite job s
  | .memberLoss job addr => Sys2Proof.Machine.execMemberLoss job addr s
  | .shrinkResume job => Sys2Proof.Machine.execShrinkResume job s
  | .fwSwitch => Sys2Proof.Machine.execFwSwitch s
  | .fwActivateTimeout => Sys2Proof.Machine.execFwActivateTimeout s
  | .powerStateReached => Sys2Proof.Machine.execPowerStateReached s
  | .rtcAlarm => Sys2Proof.Machine.execRtcAlarm s
  | .wakeComplete => Sys2Proof.Machine.execWakeComplete s
  | .budgetCycle reports => Sys2Proof.Machine.execBudgetCycle reports s
  | .budgetTimeout die => Sys2Proof.Machine.execBudgetTimeout die s
  | .thermalThrottleStep die tj => Sys2Proof.Machine.execThermalThrottleStep die tj s
  | .dieNapEntry die => Sys2Proof.Machine.execDieNapEntry die s
  | .dieWake die => Sys2Proof.Machine.execDieWake die s
  | .shimPlannerRun m => Sys2Proof.Machine.execShimPlannerRun m s
  | .summaryWrite ok => Sys2Proof.Machine.execSummaryWrite ok s
  | .buros cmd data => Sys2Proof.Machine.execBuros cmd data s
  | .alertRead => Sys2Proof.Machine.execAlertRead s
  | .wake => Sys2Proof.Machine.execWake s
  | .unknownVendorMessage code => Sys2Proof.Machine.execUnknownVendorMessage code s
  | .setdasa addr => Sys2Proof.Machine.execSetdasa addr s
  | .entdaa addr => Sys2Proof.Machine.execEntdaa addr s
  | .hdrEntry => Sys2Proof.Machine.execHdrEntry s
  | .setEndpointId eid => Sys2Proof.Machine.execSetEndpointId eid s
  | .getEndpointId => Sys2Proof.Machine.execGetEndpointId s
  | .getMctpVersionSupport mtype => Sys2Proof.Machine.execGetMctpVersionSupport mtype s
  | .getMessageTypeSupport => Sys2Proof.Machine.execGetMessageTypeSupport s
  | .getVendorDefinedMsgSupport sel => Sys2Proof.Machine.execGetVendorDefinedMsgSupport sel s
  | .gettid => Sys2Proof.Machine.execGettid s
  | .getpldmversion ptype => Sys2Proof.Machine.execGetpldmversion ptype s
  | .getpldmtypes => Sys2Proof.Machine.execGetpldmtypes s
  | .getpldmcommands ptype => Sys2Proof.Machine.execGetpldmcommands ptype s
  | .getpdrrepositoryinfo => Sys2Proof.Machine.execGetpdrrepositoryinfo s
  | .getpdr record => Sys2Proof.Machine.execGetpdr record s
  | .getsensorreading id measured => Sys2Proof.Machine.execGetsensorreading id measured s
  | .getstatesensorreadings id => Sys2Proof.Machine.execGetstatesensorreadings id s
  | .getnumericeffectervalue id => Sys2Proof.Machine.execGetnumericeffectervalue id s
  | .setnumericeffectervalue id value => Sys2Proof.Machine.execSetnumericeffectervalue id value s
  | .seteventreceiver eid => Sys2Proof.Machine.execSeteventreceiver eid s
  | .platformeventmessage => Sys2Proof.Machine.execPlatformeventmessage s
  | .unsupportedPldmCmd ptype cmd => Sys2Proof.Machine.execUnsupportedPldmCmd ptype cmd s
  | .undervoltageRearm => Sys2Proof.Machine.execUndervoltageRearm s
  | .fwHoldAtT => Sys2Proof.Machine.execFwHoldAtT s
  | .alertConditionClear row => Sys2Proof.Machine.execAlertConditionClear row s

end Sys2Proof.Machine
end

