-- ==== Sys2Proof/Safety.lean ====
section
/-! DEFINITION. What counts as a safe run, and the words the claims are made in: the invariant of every step, when a
command starts at once, and what it means that a command is answered. -/

namespace Sys2Proof

open Machine

/-- What every step keeps, whatever the command (R22, R35, R433): the error log is a ring of 4,096 records, and ALERT# is
asserted exactly while PWR_GOOD is and a row of R33 holds or the sideband has a row still to read. -/
def Inv (s : State) : Prop :=
  s.dbg.log.length ≤ 4096 ∧
    s.pkg.alert = (s.pkg.pwrGood && (!s.pkg.holding.isEmpty || !s.pkg.alertStatus.isEmpty))

/-- A command starts at once: nothing holds it (R394, R402, R416), and the checks before a start pass (R390, R396,
R398). -/
def Starts (i : CmdInfo) (s : State) : Prop :=
  mustHold i (enlist i s) = false ∧ turnedAway i (enlist i s) = none

/-- The module sends `o` between two states. -/
def Sends (o : Out) (s t : State) : Prop := ∃ l, t.out = l ++ s.out ∧ o ∈ l

/-- A command is answered with a status and result words between two states: the sideband's answer is sent (R425), and a
ring pair's completion joins those that wait for its completion ring (R395); the completion of a pair that is gone is
lost with it (R432). -/
def Answered (src : Src) (status : Nat) (words : List Nat) (s t : State) : Prop :=
  match src.issuer with
  | .sideband => Sends (.sideband (.completion status src.tag words)) s t
  | .fn f p => ∀ q, pairOf t f p = some q →
      ∃ q0 l, pairOf s f p = some q0 ∧ q.held = q0.held ++ l ∧ ⟨src.tag, status, words, src.noIrq⟩ ∈ l

/-- A ring pair but for the completions that it holds. -/
def ringOf (s : State) (f p : Nat) : Option Pair := (pairOf s f p).map fun r => { r with held := [] }

/-- A command is outstanding and waits for `w` (R393). -/
def Waits (src : Src) (w : Wait) (t : State) : Prop :=
  ∃ o ∈ t.host.outst, o.src.issuer = src.issuer ∧ o.src.tag = src.tag ∧ o.wait = w

/-- An entry joins the error log between two states (R433). -/
def Logs (code : Nat) (s t : State) : Prop := ∃ r ∈ t.dbg.log, r.code = code ∧ s.dbg.nextSeq ≤ r.seq

/-- An entry whose kind of occurrence, `key`, was logged less than 1 ms ago joins that record: no new one of its code
(R433). -/
def LogsOnce (key code : Nat) (s t : State) : Prop :=
  ∀ e, s.dbg.lastLog.find? (fun x => x.1 == key) = some e → s.now < e.2.1 + 1000000 →
    ∀ r ∈ t.dbg.log, r.code = code → ∃ q ∈ s.dbg.log, q.seq = r.seq ∧ q.code = code

/-- No outstanding command has this issuer and tag: the command comes for the first time (R393). -/
def Unlisted (src : Src) (s : State) : Prop := ∀ o ∈ s.host.outst, Outst.is src o = false

/-- A message of a resendable type is handled: no copy of it came in the last 10 ms (R341). -/
def IsNew (h : MsgHdr) (s : State) : Prop :=
  (s.dvl.seen.any fun e => e.1 == h.src && e.2.1 == h.msgId && decide (s.now ≤ e.2.2 + 10000000)) = false

/-- A sound collective message comes for instance `i` of this member from the member that its header names (R237);
`first`: it is a first message. -/
def ReachesInst (first : Bool) (m : MsgHdr) (hdr : Bytes) (k : InstKey) (i : Inst) (s : State) : Prop :=
  let h := slice hdr 0 64
  IsNew m s ∧ crc32c (slice h 0 0x3C) = getLE h 0x3C 4 ∧ activeCtx (ctxOf s (hCtx h)) = true ∧
    k = ⟨hColl h, (ctxOf s (hCtx h)).job, hStep h⟩ ∧ instOf s k = some i ∧ i.members[hRank h]? = some m.src ∧
    hFirst h = first ∧ i.stopped = false

/-- A command has left every unit of the module alone but the host ports, the log, ALERT# and what is sent. -/
def UnitsKept (s t : State) : Prop :=
  t.pwr = s.pwr ∧ t.mem = s.mem ∧ t.mq = s.mq ∧ t.vnr = s.vnr ∧ t.jig = s.jig ∧ t.tile = s.tile ∧ t.glu = s.glu ∧
    t.dvl = s.dvl ∧ t.ckp = s.ckp

/-! ### Ops on a tile -/

/-- It is an op's turn on its tile (R107, R153), and the slew governor does not hold its issue (R91). -/
def OpIsDue (r : OpRun) (d : Bytes) (s : State) : Prop :=
  hasTurn (tileOf s r.tile.val) r.tile.val r.mb d = true ∧ heldBack s r.tile.val d = false

/-- The state in which an op has taken its turn. -/
def opTurn (r : OpRun) (d : Bytes) (s : State) : State := takeTurn r.tile.val r.mb d s

/-- An op runs on its tile (R96, R99, R103, R106, R107, R135): it is its turn, it acts for context `c`, nothing skips it
or turns it away, and its operands lie at `ls`. -/
def OpRuns (r : OpRun) (d : Bytes) (c : Nat) (ls : List (Opnd × Loc)) (s : State) : Prop :=
  let u := opTurn r d s
  OpIsDue r d s ∧ opCtx u r.tile.val d = some c ∧ skips u r.tile.val d = false ∧ activeCtx (ctxOf s c) = true ∧
    checksOk d = true ∧ descOk d (windowBytes s) = true ∧ gateFits u r.tile.val d = true ∧ opEmpty d = false ∧
    noVersion u (opEnv u r d c) = false ∧ resolveAll u (opEnv u r d c) (opnds d) = .ok ls

/-- The state in which an op's body starts: its turn is taken, and the granules of its operands belong to its context
(R109). -/
def opBegins (r : OpRun) (d : Bytes) (c : Nat) (ls : List (Opnd × Loc)) (s : State) : State :=
  setTile r.tile.val (fun x => { x with running := some (dKind d, dSeq d, c), opStatus := sOk })
    ((ls.flatMap fun x => touched d x.1 x.2).foldl (fun s x => touchLoc r.tile.val c x.1 x.2 s) (opTurn r d s))

/-- Tile stores, windows and every unit but the contexts, the host ports and the log hold in `t` what they hold in `w`;
so do the tiles other than `n`. A capture taken while a program of tile `n` was running takes in what it does (R365); every
other stays. -/
def TileHolds (n : Nat) (w t : State) : Prop :=
  t.tile.store = w.tile.store ∧ t.tile.window = w.tile.window ∧ t.tile.wtags = w.tile.wtags ∧
    (∀ u, u ≠ n → tileOf t u = tileOf w u) ∧ t.mem = w.mem ∧ t.mq = w.mq ∧ t.jig = w.jig ∧ t.glu = w.glu ∧
    t.dvl = w.dvl ∧ t.pwr = w.pwr ∧ { t.ckp with captures := w.ckp.captures } = w.ckp ∧
    (w.ckp.captures.any (waitsFor w n) = false → t.ckp = w.ckp)

/-- An op faults its context: tile stores and windows hold in `t` what they hold in `b`, the context is FAULTED with this
cause, and EV_CTX_FAULT is logged (R135, R178). -/
def OpFaults (c cause : Nat) (s b t : State) : Prop :=
  t.tile.store = b.tile.store ∧ t.tile.window = b.tile.window ∧ (ctxOf t c).state = .faulted ∧
    (ctxOf t c).cause = cause ∧ Logs 0x0401 s t

end Sys2Proof
end

