-- ==== Sys2Proof/Certificates/Slice0/Obligations.lean ====
section
/-! DEFINITION. The statements about the model, in the order of the spec's chapters. Each docstring names the rules it
formalises; OBLIGATIONS.json lists them. `Starts`, `Answered`, `Waits`, `Sends`, `Logs` and `UnitsKept` stand in
Sys2Proof/Safety.lean. -/

open Sys2Proof Sys2Proof.Machine

/-! ### The block as a whole -/

/-- A step takes the command at the front of the queue and runs it on the state with the queue's rest. -/
def Obligations.StepTakesTheOldestCommand : Prop :=
  ∀ (c : Instr) (r : List Instr) (s : State),
    step { s with pending := c :: r } = exec c { s with pending := r }

/-- With no command waiting, fabric time and the RTC pass by 1 ns and nothing else changes (the model's choice, log
entry 31). -/
def Obligations.EmptyQueueLetsTimePass : Prop :=
  ∀ s : State, s.pending = [] →
    step s = .next { s with now := s.now + 1, pwr := { s.pwr with rtc := s.pwr.rtc + 1 } }

/-- The reset column of the register tables, as every function reads it through the owner PF (R225, R254, R286, R363,
R390, R428): every register listed reads its reset value right after reset. -/
def Obligations.RegistersReadTheirResetValues : Prop :=
  (∀ off ∈ [0x00004, 0x00008, 0x0000C, 0x00010, 0x00014, 0x00018, 0x0001C, 0x00020, 0x00024, 0x00028],
    ∀ f : Fin 64, regWord State.reset f off = 0) ∧
  (∀ off ∈ [0x20004, 0x20008, 0x2000C, 0x20010, 0x20014, 0x20020, 0x20028, 0x30004, 0x30008, 0x3000C, 0x30010, 0x30014,
      0x40004, 0x40008, 0x4000C, 0x40010, 0x40014, 0x50004, 0x50008, 0x5000C, 0x50010, 0x50014, 0x60004, 0x60008,
      0x70004, 0x70008, 0x7000C, 0x70010, 0x70014, 0x70028, 0x80004, 0x80008, 0x80018, 0x80030, 0x80040, 0x80044,
      0x90004, 0x90010, 0x90014, 0x90020, 0xA0004, 0xA0028, 0xA0038, 0xB0004],
    ∀ f : Fin 64, regWord State.reset f off = 0) ∧
  ∀ f : Fin 64, regWord State.reset f 0x6000C = 0x0001_0000 ∧ regWord State.reset f 0xA000C = 0x1FFF ∧
    regWord State.reset f 0x90008 = 32

/-- The invariant holds right after reset. -/
def Obligations.ResetMeetsTheInvariant : Prop := Inv State.reset

/-- Every step keeps the invariant, whatever command is in front: the error log is a ring of at most 4,096 records
(R433), and ALERT# is asserted exactly while PWR_GOOD is and a row of R33 holds or the sideband has a row still to read
(R22, R35). -/
def Obligations.EveryStepKeepsTheInvariant : Prop := ∀ s t : State, Inv s → step s = .next t → Inv t

/-! ### Host ports and registers (chapters 0 and 13) -/

/-- Doorbells (R390, R393, R395): SQ_TAIL_DOORBELL sets the pair's tail when the value lies below the SQ's size, and
CQ_HEAD_DOORBELL its head when the value lies below the CQ's size and returns only entries written. The pair's other
indices, every other pair and every unit of the module stay. Refused doorbells (R403): a tail not below the SQ size, a
head not below the CQ size or beyond the entries written, and a doorbell for a pair that does not exist change no pair,
and FN_VIOL_CNT counts each. FN_CTRL (R390): with both sizes of pair 0 in 16 to 4,096 a write of 1 to ENABLE sets it,
and pair 0 stands with the bases and sizes of its registers; a write of 0 clears it and touches no ring. With a size out
of range a write of 1 is ignored, leaves every pair, and counts as a violation. -/
def Obligations.DoorbellsMoveOneIndexOrCount : Prop :=
  (∀ (f pair : Fin 64) (v : Word) (s : State) (q : Pair), pairOf s f pair = some q →
    let others (t : State) : Prop := UnitsKept s t ∧ ∀ g p : Nat, ¬ (g = f.val ∧ p = pair.val) → ringOf t g p = ringOf s g p
    (v.toNat % 4096 < q.sqSize → ∃ t, exec (.sqTailDoorbell f pair v) s = .next t ∧ others t ∧
      ringOf t f pair = some { q with sqTail := v.toNat % 4096, held := [] }) ∧
    (v.toNat % 4096 < q.cqSize →
      (v.toNat % 4096 + q.cqSize - q.cqHead) % q.cqSize ≤ (q.cqTail + q.cqSize - q.cqHead) % q.cqSize →
      ∃ t, exec (.cqHeadDoorbell f pair v) s = .next t ∧ others t ∧
        ringOf t f pair = some { q with cqHead := v.toNat % 4096, held := [] })) ∧
  (∀ (f pair : Fin 64) (v : Word) (s : State),
    let refused (c : Instr) : Prop := ∃ t, exec c s = .next t ∧
      (fnOf t f).violCnt = min ((fnOf s f).violCnt + 1) 0xFFFF_FFFF ∧
      (∀ g p : Nat, ringOf t g p = ringOf s g p) ∧ UnitsKept s t
    (pairOf s f pair = none → refused (.sqTailDoorbell f pair v) ∧ refused (.cqHeadDoorbell f pair v)) ∧
    ∀ q, pairOf s f pair = some q →
      (q.sqSize ≤ v.toNat % 4096 → refused (.sqTailDoorbell f pair v)) ∧
      (q.cqSize ≤ v.toNat % 4096 ∨
        (q.cqTail + q.cqSize - q.cqHead) % q.cqSize < (v.toNat % 4096 + q.cqSize - q.cqHead) % q.cqSize →
        refused (.cqHeadDoorbell f pair v))) ∧
  (∀ (f : Fin 64) (v : Word) (s : State),
    let x := fnOf s f
    let sq := bits x.ring0Cfg.toNat 12 0
    let cq := bits x.ring0Cfg.toNat 28 16
    let good := 16 ≤ sq ∧ sq ≤ 4096 ∧ 16 ≤ cq ∧ cq ≤ 4096
    ∃ t, exec (.fnCtrlEnableWrite f v) s = .next t ∧ UnitsKept s t ∧
      (bit v.toNat 0 = true → good → (fnOf t f).enable = true ∧
        ∃ q, pairOf t f 0 = some q ∧ q.sqBase = x.sq0Base ∧ q.sqSize = sq ∧ q.cqBase = x.cq0Base ∧ q.cqSize = cq) ∧
      (bit v.toNat 0 = true → ¬ good → (fnOf t f).enable = x.enable ∧ (∀ g p : Nat, ringOf t g p = ringOf s g p) ∧
        (fnOf t f).violCnt = min (x.violCnt + 1) 0xFFFF_FFFF) ∧
      (bit v.toNat 0 = false → (fnOf t f).enable = false ∧ ∀ g p : Nat, ringOf t g p = ringOf s g p))

/-- Low-word reads (R10): the read returns the low word and latches the high word for this function and register; the
latches of every other function and every unit stay. High-word reads (R10): the latched word after a low-word read, the
current word without one. Writes of a writable 64-bit register (R10, R390, R322), while the function is not in
QUARANTINE: the low word goes to the write latch and changes no register; the high word sets the register to the latched
low word together with itself. The low 12 bits of a ring base are rsvd, and while ENABLE is 1 a write to a ring base
changes nothing. -/
def Obligations.SixtyFourBitRegistersLatchTheirWords : Prop :=
  (∀ (f : Fin 64) (off : Nat) (s : State), is64 off = true →
    ∃ t, exec (.reg64LowRead f off) s = .next t ∧ Sends (.read f off (regValue s f off)) s t ∧
      tget 0 (fnOf t f).readLatch off = regValue s f (off + 4) ∧
      (∀ g : Nat, g ≠ f.val → (fnOf t g).readLatch = (fnOf s g).readLatch) ∧ UnitsKept s t) ∧
  (∀ (f : Fin 64) (off : Nat) (s : State), is64 off = true →
    (∀ w, (fnOf s f).readLatch.find? (fun e => e.1 == off) = some (off, w) →
      ∃ t, exec (.rcRead f (off + 4) 0) s = .next t ∧ Sends (.read f (off + 4) w) s t ∧ UnitsKept s t) ∧
    ((fnOf s f).readLatch.find? (fun e => e.1 == off) = none →
      ∃ t, exec (.rcRead f (off + 4) 0) s = .next t ∧ Sends (.read f (off + 4) (regValue s f (off + 4))) s t ∧
        UnitsKept s t)) ∧
  (∀ (f : Fin 64) (v : Word) (s : State), (fnOf s f).quarantine = false →
    let same (t : State) : Prop := (fnOf t f).sq0Base = (fnOf s f).sq0Base ∧ (fnOf t f).cq0Base = (fnOf s f).cq0Base ∧
      (fnOf t f).memSel = (fnOf s f).memSel ∧ UnitsKept s t
    (∀ off ∈ [0x10, 0x18, 0x70028],
      ((fnOf s f).enable = false ∨ off = 0x70028 → ∃ t, exec (.reg64LowWrite f off v) s = .next t ∧ same t ∧
        tget 0 (fnOf t f).writeLatch off = v.toNat) ∧
      ((fnOf s f).enable = true → off ≠ 0x70028 → ∀ c ∈ [Instr.reg64LowWrite f off v, .reg64HighWrite f (off + 4) v],
        ∃ t, exec c s = .next t ∧ same t)) ∧
    ∀ lo : Nat,
      ((fnOf s f).enable = false → (fnOf s f).writeLatch.find? (fun e => e.1 == 0x10) = some (0x10, lo) →
        ∃ t, exec (.reg64HighWrite f 0x14 v) s = .next t ∧ UnitsKept s t ∧
          (fnOf t f).sq0Base = (lo + v.toNat * 2 ^ 32) / 4096 * 4096) ∧
      ((fnOf s f).enable = false → (fnOf s f).writeLatch.find? (fun e => e.1 == 0x18) = some (0x18, lo) →
        ∃ t, exec (.reg64HighWrite f 0x1C v) s = .next t ∧ UnitsKept s t ∧
          (fnOf t f).cq0Base = (lo + v.toNat * 2 ^ 32) / 4096 * 4096) ∧
      ((fnOf s f).writeLatch.find? (fun e => e.1 == 0x70028) = some (0x70028, lo) →
        ∃ t, exec (.reg64HighWrite f 0x7002C v) s = .next t ∧ UnitsKept s t ∧
          (fnOf t f).memSel = lo + v.toNat * 2 ^ 32))

/-- W1C (R11, R12): a write by the owner PF clears the bits written 1 and no other, and a bit that the module sets in
the same cycle stays set. `setNow` is what the module sets. A write that is ignored (R14, R404: by another function, or
in QUARANTINE) clears nothing, and the bits that the module sets in its cycle stay set too. RC counters (R11, R12): a
read by the owner PF returns the count and leaves what arrived during the read. -/
def Obligations.ClearingLosesNothingThatArrives : Prop :=
  (∀ (f : Fin 64) (v setNow : Word) (s : State),
    let clears := isOwner s f && !(fnOf s f).quarantine
    let after (old : Word) (mask : Nat) : Word :=
      (if clears then old &&& ~~~v else old) ||| (setNow &&& BitVec.ofNat 32 mask)
    (∃ t, exec (.w1cWrite f 0x20004 v setNow) s = .next t ∧ t.jig.events = after s.jig.events 0xF ∧
      t.jig = { s.jig with events := t.jig.events }) ∧
    (∃ t, exec (.w1cWrite f 0x30004 v setNow) s = .next t ∧ t.mq.events = after s.mq.events 0x1F ∧
      t.mq = { s.mq with events := t.mq.events }) ∧
    (∃ t, exec (.w1cWrite f 0x40004 v setNow) s = .next t ∧ t.vnr.events = after s.vnr.events 0xF ∧
      t.vnr = { s.vnr with events := t.vnr.events }) ∧
    (∃ t, exec (.w1cWrite f 0x50004 v setNow) s = .next t ∧ t.glu.events = after s.glu.events 0xF ∧
      t.glu = { s.glu with events := t.glu.events }) ∧
    (∃ t, exec (.w1cWrite f 0x60004 v setNow) s = .next t ∧ t.vnr.krfEvents = after s.vnr.krfEvents 0xF ∧
      t.vnr = { s.vnr with krfEvents := t.vnr.krfEvents }) ∧
    (∃ t, exec (.w1cWrite f 0x70004 v setNow) s = .next t ∧ t.mem.events = after s.mem.events 0x7F ∧
      t.mem = { s.mem with events := t.mem.events }) ∧
    (∃ t, exec (.w1cWrite f 0x80004 v setNow) s = .next t ∧ t.dvl.events = after s.dvl.events 0xFFF ∧
      t.dvl = { s.dvl with events := t.dvl.events }) ∧
    (∃ t, exec (.w1cWrite f 0x90004 v setNow) s = .next t ∧ t.ckp.events = after s.ckp.events 0xF ∧
      t.ckp = { s.ckp with events := t.ckp.events }) ∧
    (∃ t, exec (.w1cWrite f 0xA0004 v setNow) s = .next t ∧ t.pwr.events = after s.pwr.events 0x3F ∧
      t.pwr = { s.pwr with events := t.pwr.events }) ∧
    (∃ t, exec (.w1cWrite f 0xB0004 v setNow) s = .next t ∧ t.dbg.events = after s.dbg.events 0x7)) ∧
  (∀ (f : Fin 64) (v setNow : Word) (s : State), ∃ t, exec (.w1cWrite f 0x28 v setNow) s = .next t ∧ UnitsKept s t ∧
    (fnOf t f).ovfl = (((fnOf s f).ovfl && !(bit v.toNat 31 && !(fnOf s f).quarantine)) || bit setNow.toNat 31)) ∧
  (∀ (f : Fin 64) (n : Nat) (s : State), isOwner s f = true →
    ∀ off ∈ [0x00008, 0x2000C, 0x20020, 0x30008, 0x3000C, 0x30010, 0x30014, 0x4000C, 0x40014, 0x50008, 0x5000C, 0x50010,
      0x50014, 0x60008, 0x70008, 0x7000C, 0x70010, 0x70014, 0x80040, 0x80044, 0x90010, 0x90014, 0xA0038],
    ∃ t, exec (.rcRead f off n) s = .next t ∧ Sends (.read f off (regWord s f off)) s t ∧
      regWord t f off = min n 0xFFFF_FFFF)

/-- A write to a module-wide block by a function that is not the owner PF (R14) changes no unit, and is logged (at
most once in 1 ms) and counted. Plain writes: FN_IRQ_COAL and the selections VNR_SEL, KRF_SEL, CKP_SEL and MEM_SEL are
written by every function for itself, rsvd bits staying 0, with no other function's copy and no unit changed;
PWR_WAKE_EN is the owner's, and its bit 1 reads 1. A function in QUARANTINE changes none of them (R404). -/
def Obligations.OnlyTheOwnerWritesModuleWideBlocks : Prop :=
  (∀ (f : Fin 64) (off : Nat) (v : Word) (s : State), isOwner s f = false → 0x20000 ≤ off → perFn off = false →
    ∀ c ∈ [Instr.registerWrite f off v, .reg64LowWrite f off v, .reg64HighWrite f off v, .w1cWrite f off v 0],
      ∃ t, exec c s = .next t ∧ UnitsKept s t ∧ (fnOf t f).violCnt = min ((fnOf s f).violCnt + 1) 0xFFFF_FFFF ∧
        ((∀ e ∈ s.dbg.lastLog, e.2.1 + 1000000 ≤ s.now) → Logs 0x0B81 s t) ∧ LogsOnce (384 + f) 0x0B81 s t) ∧
  (∀ (f : Fin 64) (v : Word) (s : State), (fnOf s f).quarantine = false →
    (∃ t, exec (.registerWrite f 0x24 v) s = .next t ∧ (fnOf t f).irqCoal = v &&& 0x00FF_FFFF ∧ UnitsKept s t ∧
      ∀ g : Nat, g ≠ f.val → (fnOf t g).irqCoal = (fnOf s g).irqCoal) ∧
    (∃ t, exec (.registerWrite f 0x40010 v) s = .next t ∧ (fnOf t f).vnrSel = v &&& 0x00FF_FFFF ∧ UnitsKept s t ∧
      ∀ g : Nat, g ≠ f.val → (fnOf t g).vnrSel = (fnOf s g).vnrSel) ∧
    (∃ t, exec (.registerWrite f 0x6000C v) s = .next t ∧ (fnOf t f).krfSel = v ∧ UnitsKept s t ∧
      ∀ g : Nat, g ≠ f.val → (fnOf t g).krfSel = (fnOf s g).krfSel) ∧
    (∃ t, exec (.registerWrite f 0x90020 v) s = .next t ∧ (fnOf t f).ckpSel = v ∧ UnitsKept s t ∧
      ∀ g : Nat, g ≠ f.val → (fnOf t g).ckpSel = (fnOf s g).ckpSel) ∧
    (∀ lo, (fnOf s f).writeLatch.find? (fun e => e.1 == 0x70028) = some (0x70028, lo) →
      ∃ t, exec (.reg64HighWrite f 0x7002C v) s = .next t ∧ UnitsKept s t ∧ (fnOf t f).memSel = lo + v.toNat * 2 ^ 32 ∧
      ∀ g : Nat, g ≠ f.val → (fnOf t g).memSel = (fnOf s g).memSel) ∧
    (isOwner s f = true → ∃ t, exec (.registerWrite f 0xA000C v) s = .next t ∧
      t.pwr = { s.pwr with wakeEn := (v &&& 0x1FFD) ||| 2 })) ∧
  (∀ (f : Fin 64) (v : Word) (s : State), (fnOf s f).quarantine = true →
    ∀ c ∈ [Instr.registerWrite f 0x24 v, .registerWrite f 0x40010 v, .registerWrite f 0x6000C v,
      .registerWrite f 0x90020 v, .reg64HighWrite f 0x7002C v, .registerWrite f 0xA000C v],
      ∃ t, exec c s = .next t ∧ UnitsKept s t ∧ (fnOf t f).irqCoal = (fnOf s f).irqCoal ∧
        (fnOf t f).vnrSel = (fnOf s f).vnrSel ∧ (fnOf t f).krfSel = (fnOf s f).krfSel ∧
        (fnOf t f).ckpSel = (fnOf s f).ckpSel ∧ (fnOf t f).memSel = (fnOf s f).memSel)

/-- An access of another width or alignment (R9): the module returns 0 for a read and ignores a write, and logs the
access (at most once in 1 ms) and counts it. -/
def Obligations.BadWidthAccessesAreRefused : Prop :=
  ∀ (f : Fin 64) (off width : Nat) (write : Option Nat) (s : State),
    ∃ t, exec (.badWidthAccess f off width write) s = .next t ∧ UnitsKept s t ∧
      (write = none → Sends (.read f off 0) s t) ∧
      (fnOf t f).violCnt = min ((fnOf s f).violCnt + 1) 0xFFFF_FFFF ∧
      ((∀ e ∈ s.dbg.lastLog, e.2.1 + 1000000 ≤ s.now) → Logs 0x0B81 s t) ∧ LogsOnce (384 + f) 0x0B81 s t

/-- The checks before a command starts (R394, R398, R402, R404, R416). Three reasons hold it, and nothing else: its fence
with an earlier command of its queue outstanding; a firmware hold that has begun, but for FN.RESET and MODULE.RESET; a
module that is not ACTIVE, but for IDENTIFY, EVT.WAIT and class 0x0A. Five turn it away, in this order, with no effect
but the answer: a quarantined function (but for FN.RESET), an owner command without owner rights, a start step not
reached (but for classes 0x01, 0x08, 0x0A and 0x0B), a set rsvd parameter bit, and a context that is not the
function's. A command that none holds or turns away runs. -/
def Obligations.ChecksTurnCommandsAwayUntouched : Prop :=
  ∀ (i : CmdInfo) (body : State → State) (s : State),
    let u := enlist i s
    let held := ((∃ o ∈ u.host.outst, Outst.is i.src o = true ∧ o.fence = true) ∧ earlier i.src u.host.outst = true) ∨
      ((∃ a t0, s.host.fwAct = some a ∧ a.holdFrom = some t0) ∧ i.opcode ≠ 0x0103 ∧ i.opcode ≠ 0x0104) ∨
      (s.pwr.state ≠ .active ∧ i.opcode ≠ 0x0101 ∧ i.opcode ≠ 0x010A ∧ i.opcode / 256 ≠ 0x0A)
    let quarantined := i.opcode ≠ 0x0103 ∧ ∃ f p : Fin 64, i.src.issuer = .fn f p ∧ (fnOf s f).quarantine = true
    let noOwner := i.owner = true ∧ srcOwner s i.src = false
    let notYet := i.opcode / 256 ∉ [0x01, 0x08, 0x0A, 0x0B] ∧ (s.dvl.step < 6 ∨ s.dvl.step = 15)
    let rsvdSet := zeroAt i.params i.rsvd = false
    let noCtx := ∃ c, i.src.ctx = some c ∧ ((ctxOf s c).state = .free ∨ (ctxOf s c).fn ≠ srcFn s i.src)
    let away (st : Nat) : Prop := Answered i.src st [] s (start i body s) ∧ UnitsKept s (start i body s)
    (held → start i body s = await i.src .held u) ∧
    (¬ held →
      (quarantined → away sQuarantined) ∧
      (¬ quarantined → noOwner → away sDenied) ∧
      (¬ quarantined → ¬ noOwner → notYet → away sBusy) ∧
      (¬ quarantined → ¬ noOwner → ¬ notYet → rsvdSet → away sBadField) ∧
      (¬ quarantined → ¬ noOwner → ¬ notYet → ¬ rsvdSet → noCtx → away sJobUnknown) ∧
      (¬ quarantined → ¬ noOwner → ¬ notYet → ¬ rsvdSet → ¬ noCtx → start i body s = body u))

/-- IDENTIFY (R391, R399) answers with ID_MODULE, the firmware version, the serial number, ID_FN and the installation
ID, writes the ID block to host memory where it names an address, and changes no unit. OWNER.SET (R386, R399) makes a PF
the owner and answers S_OK; any other function number is S_BAD_FIELD. EVT.WAIT (R399) with an event held answers with
the oldest: its code, the index of its record and its time; with none it waits, and the 17th of a function is
S_NO_RESOURCE. -/
def Obligations.IdentityOwnershipAndEventsAnswer : Prop :=
  (∀ (src : Src) (p : Bytes) (s : State), Starts ⟨src, 0x0101, .identify src p, false, [(8, 40)], p⟩ s →
    ∃ t, exec (.identify src p) s = .next t ∧ UnitsKept s t ∧
      Answered src sOk [0x00435531, s.host.fwVersion, s.dvl.serial % 2 ^ 32, s.dvl.serial / 2 ^ 32 % 2 ^ 32,
        idReg s (srcFn s src) 0x18, installId s] s t ∧
      (getLE p 0 8 ≠ 0 → Sends (.hostWrite (srcFn s src / 16) (getLE p 0 8)
        ((List.range 64).flatMap fun i => toLE 4 (idReg s (srcFn s src) (4 * i)))) s t)) ∧
  (∀ (src : Src) (p : Bytes) (s : State), Starts ⟨src, 0x0109, .ownerSet src p, true, [(1, 47)], p⟩ s →
    ∃ t, exec (.ownerSet src p) s = .next t ∧ UnitsKept s t ∧
      (getLE p 0 1 ∈ [0, 16, 32, 48] → t.host.ownerPf = getLE p 0 1 ∧ Answered src sOk [] s t) ∧
      (getLE p 0 1 ∉ [0, 16, 32, 48] → t.host.ownerPf = s.host.ownerPf ∧ Answered src sBadField [] s t)) ∧
  (∀ (src : Src) (p : Bytes) (s : State), Starts ⟨src, 0x010A, .evtWait src p, false, [(0, 48)], p⟩ s →
    let f := srcFn s src
    let waiting := (s.host.outst.filter fun o => o.wait == .event && o.src.issuer != .sideband && srcFn s o.src == f).length
    (∀ e r, (fnOf s f).evtHeld = e :: r → ∃ t, exec (.evtWait src p) s = .next t ∧ UnitsKept s t ∧
      (fnOf t f).evtHeld = r ∧ Answered src sOk [e.2.1, e.1 % 2 ^ 32, e.2.2 % 2 ^ 32, e.2.2 / 2 ^ 32 % 2 ^ 32] s t) ∧
    ((fnOf s f).evtHeld = [] → waiting < 16 →
      ∃ t, exec (.evtWait src p) s = .next t ∧ UnitsKept s t ∧ Waits src .event t) ∧
    ((fnOf s f).evtHeld = [] → 16 ≤ waiting →
      ∃ t, exec (.evtWait src p) s = .next t ∧ UnitsKept s t ∧ Answered src sNoResource [] s t))

/-- RING.CREATE (R392, R399): a pair 1-63 with sizes of 16 to 4,096, a vector of the function's table and 4 KiB
aligned rings comes to stand with head and tail 0 and phase 1; a pair that stands already is answered with S_RING, and
any other value with S_BAD_FIELD, no pair changing. RING.DELETE (R399): a pair with no other command outstanding, named
on another pair, is gone and the command completes; with one outstanding it waits and the pair fetches no more; on the
pair itself it completes, and the pair goes once that completion is written; a pair that does not exist is S_RING. -/
def Obligations.RingPairsComeAndGo : Prop :=
  (∀ (src : Src) (f p : Fin 64) (b : Bytes) (s : State), src.issuer = .fn f p → (pairOf s f p).isSome = true →
    Starts ⟨src, 0x0105, .ringCreate src b, false, [(1, 1), (0x19, 23)], b⟩ s →
    let r := getLE b 0 1
    let fine := 1 ≤ r ∧ r ≤ 63 ∧ 16 ≤ getLE b 2 2 ∧ getLE b 2 2 ≤ 4096 ∧ 16 ≤ getLE b 4 2 ∧ getLE b 4 2 ≤ 4096 ∧
      getLE b 6 2 < vectors f ∧ getLE b 8 8 % 4096 = 0 ∧ getLE b 0x10 8 % 4096 = 0 ∧ getLE b 0x18 1 ≤ 1
    ∃ t, exec (.ringCreate src b) s = .next t ∧ UnitsKept s t ∧
      (∀ g q : Nat, ¬ (g = f.val ∧ q = r) → ringOf t g q = ringOf s g q) ∧
      (fine → pairOf s f r = none → Answered src sOk [] s t ∧ ringOf t f r =
          some ⟨getLE b 8 8, getLE b 2 2, 0, 0, getLE b 0x10 8, getLE b 4 2, 0, 0, true, getLE b 6 2,
            bit (getLE b 0x18 1) 0, false, []⟩) ∧
      (fine → (pairOf s f r).isSome = true → Answered src sRing [] s t ∧ ringOf t f r = ringOf s f r) ∧
      (¬ fine → Answered src sBadField [] s t ∧ ringOf t f r = ringOf s f r)) ∧
  (∀ (src : Src) (f p : Fin 64) (b : Bytes) (s : State), src.issuer = .fn f p →
    Starts ⟨src, 0x0106, .ringDelete src b, false, [(1, 47)], b⟩ s →
    let r := getLE b 0 1
    (r = 0 ∨ 63 < r → ∃ t, exec (.ringDelete src b) s = .next t ∧ UnitsKept s t ∧ Answered src sBadField [] s t) ∧
    (1 ≤ r → r ≤ 63 → pairOf s f r = none →
      ∃ t, exec (.ringDelete src b) s = .next t ∧ UnitsKept s t ∧ Answered src sRing [] s t) ∧
    ∀ q, 1 ≤ r → r ≤ 63 → pairOf s f r = some q → (∀ o ∈ s.host.outst, o.wait ≠ .ringDelete r) →
      ∃ t, exec (.ringDelete src b) s = .next t ∧ UnitsKept s t ∧
        (∀ g k : Nat, ¬ (g = f.val ∧ k = r) → ringOf t g k = ringOf s g k) ∧
        (pairBusy s f r src = false → r ≠ p.val → pairOf t f r = none ∧ Answered src sOk [] s t) ∧
        (pairBusy s f r src = false → r = p.val → Answered src sOk [] s t ∧
          ringOf t f r = some { q with closing := true, held := [] }) ∧
        (pairBusy s f r src = true → Waits src (.ringDelete r) t ∧
          ringOf t f r = some { q with closing := true, held := [] }))

/-- FN.RESET and MODULE.RESET (R401, R445). FN.RESET by the owner, by the function itself or by its PF leaves the
function without QUARANTINE, FATAL and pairs other than pair 0, its selections at their reset values, and touches no
other function's registers; by any other function it is S_DENIED, and of a number above 63 S_BAD_FIELD. MODULE.RESET
leaves every command, queue, context, jig bank, tile and collective at its reset state, every function's registers but
for what R415 and R387 keep, and the start sequence at step 1; the epoch in force and the RTC stay. FLR (R401, R445) of a
VF returns its block to the reset values, but for what R415 and R387 keep, with no pair left and no command outstanding,
and touches no other function's registers; of a PF it does so for the PF and its VFs. PERST_ASSERT (R22, R24, R401) does
so for all 16 functions of the port while PWR_GOOD is, and leaves the link down; before PWR_GOOD it touches no
function. -/
def Obligations.ResetsReturnWhatTheyName : Prop :=
  (∀ (src : Src) (p : Bytes) (s : State),
    let f := getLE p 0 1
    Starts ⟨src, 0x0103, .fnReset src p, false, [(1, 47)], p⟩ s →
      (63 < f → ∃ t, exec (.fnReset src p) s = .next t ∧ UnitsKept s t ∧ Answered src sBadField [] s t) ∧
      (f ≤ 63 → (src.issuer = .sideband ∨ srcOwner s src = true ∨ ∃ g q : Fin 64, src.issuer = .fn g q ∧
          (g.val = f ∨ g.val % 16 = 0 ∧ f / 16 = g.val / 16)) →
        ∃ t, exec (.fnReset src p) s = .next t ∧ UnitsKept s t ∧ (fnOf t f).quarantine = false ∧
          (fnOf t f).fatal = false ∧ (∀ r : Nat, r ≠ 0 → pairOf t f r = none) ∧
          (fnOf t f).vnrSel = FnSt.reset.vnrSel ∧ (fnOf t f).krfSel = FnSt.reset.krfSel ∧ (fnOf t f).memSel = 0 ∧
          (fnOf t f).ckpSel = 0 ∧ (∀ g : Nat, g ≠ f → (fnOf t g).enable = (fnOf s g).enable ∧
            (fnOf t g).quarantine = (fnOf s g).quarantine ∧ ∀ r : Nat, ringOf t g r = ringOf s g r) ∧
          (src.issuer = .sideband → Answered src sOk [] s t) ∧
          ∀ g q : Fin 64, src.issuer = .fn g q → g.val ≠ f → Answered src sOk [] s t) ∧
      (f ≤ 63 → srcOwner s src = false → ∀ g q : Fin 64, src.issuer = .fn g q → g.val ≠ f →
          ¬ (g.val % 16 = 0 ∧ f / 16 = g.val / 16) →
        ∃ t, exec (.fnReset src p) s = .next t ∧ UnitsKept s t ∧ Answered src sDenied [] s t)) ∧
  (∀ (src : Src) (p : Bytes) (s : State), Starts ⟨src, 0x0104, .moduleReset src p, true, [(0, 48)], p⟩ s →
    ∃ t, exec (.moduleReset src p) s = .next t ∧ t.host.outst = [] ∧ t.host.ready = false ∧ t.mq = State.reset.mq ∧
      t.vnr = State.reset.vnr ∧ t.jig = State.reset.jig ∧ t.tile = State.reset.tile ∧ t.glu = State.reset.glu ∧
      t.dvl.step = 1 ∧ t.dvl.epoch = s.dvl.epoch ∧ t.pwr.rtc = s.pwr.rtc ∧ t.now = s.now ∧
      (∀ f : Nat, f < 64 → (fnOf t f).enable = false ∧ (fnOf t f).violCnt = 0 ∧ (fnOf t f).quarantine = false ∧
        (fnOf t f).wakeCause = (fnOf s f).wakeCause ∧ (fnOf t f).permille = (fnOf s f).permille ∧
        ∀ r : Nat, pairOf t f r = none) ∧
      (src.issuer = .sideband → Answered src sOk [] s t)) ∧
  (∀ s : State,
    let back (t : State) (f : Nat) : Prop := fnOf t f = { FnSt.reset with
        wakeCause := (fnOf s f).wakeCause, dstate := (fnOf s f).dstate, pmeOn := (fnOf s f).pmeOn
        wakePending := (fnOf s f).wakePending, maxCtx := (fnOf s f).maxCtx, permille := (fnOf s f).permille } ∧
      ∀ o ∈ t.host.outst, ∀ g p : Fin 64, g.val = f → o.src.issuer ≠ .fn g p
    (∀ f : Fin 64, f.val % 16 ≠ 0 → ∃ t, exec (.flr f) s = .next t ∧ UnitsKept s t ∧ back t f ∧
      ∀ g : Nat, g ≠ f.val → fnOf t g = fnOf s g) ∧
    (∀ f : Fin 64, f.val % 16 = 0 → ∃ t, exec (.flr f) s = .next t ∧ UnitsKept s t ∧
      (∀ i : Nat, i < 16 → back t (f.val + i)) ∧ ∀ g : Nat, g < f.val ∨ f.val + 16 ≤ g → fnOf t g = fnOf s g) ∧
    ∀ (h : Fin 4) (k : LinkReset), ∃ t, exec (.perstAssert h k) s = .next t ∧ UnitsKept s t ∧
      (linkOf t h).up = false ∧ (k = .perst → (linkOf t h).perst = true) ∧
      (∀ g : Fin 4, g ≠ h → linkOf t g = linkOf s g) ∧
      (s.pkg.pwrGood = true → ∀ i : Nat, i < 16 → back t (16 * h.val + i)) ∧
      (∀ g : Nat, s.pkg.pwrGood = false ∨ g < 16 * h.val ∨ 16 * h.val + 16 ≤ g → fnOf t g = fnOf s g))

/-- Firmware (R402). FW.COMMIT keeps a good image for the next activation as its record, and refuses another, or one
without the magic, with S_FW_IMAGE (what the check finds in an image's bytes is the model's free value); while an
activation is under way it is S_BUSY. FW.ACTIVATE in modes STEP and IMMEDIATE switches at once with no active bank, and
else holds commands from then on and waits; in mode AT_T it waits for T. A mode above 2 is S_BAD_FIELD, a second
activation S_BUSY. FW_HOLD_AT_T, FW_SWITCH and FW_ACTIVATE_TIMEOUT (R402): in mode AT_T the hold begins at T; once it has
begun, with no active bank, in mode IMMEDIATE, or else at the start of the cycle, the switch runs the committed image,
completes FW.ACTIVATE and raises EV_FW_ACTIVATED, and before that nothing switches; a hold of 30 s without a switch ends
it with S_FW_TIMEOUT, the old firmware continuing. -/
def Obligations.FirmwareIsCommittedHeldAndSwitched : Prop :=
  (∀ (src : Src) (p : Bytes) (s : State),
    (Starts ⟨src, 0x0107, .fwCommit src p, true, [(8, 40)], p⟩ s →
      (s.host.fwAct ≠ none → ∃ t, exec (.fwCommit src p) s = .next t ∧ Answered src sBusy [] s t ∧ UnitsKept s t) ∧
      ∀ o, s.host.fwAct = none → cmdObj s src (getLE p 0 8) 1 = .ok o →
        let b := objRead o 0 o.size
        ∃ t, exec (.fwCommit src p) s = .next t ∧ t.host.fwVersion = s.host.fwVersion ∧
          (∀ v, Config.fwImage b = some v → getLE b 0 4 = 0x5746_5855 →
            t.host.fwCommitted = some (0x0003_0000 + v.toNat) ∧ recSeq t 1 = recSeq s 1 + 1 ∧ Answered src sOk [] s t) ∧
          (Config.fwImage b = none ∨ getLE b 0 4 ≠ 0x5746_5855 →
            t.host.fwCommitted = s.host.fwCommitted ∧ Answered src sFwImage [] s t ∧ UnitsKept s t)) ∧
    (Starts ⟨src, 0x0108, .fwActivate src p, true, [(1, 7), (0x10, 32)], p⟩ s →
      let mode := getLE p 0 1
      (2 < mode → ∃ t, exec (.fwActivate src p) s = .next t ∧ Answered src sBadField [] s t ∧ UnitsKept s t) ∧
      (mode ≤ 2 → s.host.fwAct ≠ none →
        ∃ t, exec (.fwActivate src p) s = .next t ∧ Answered src sBusy [] s t ∧ UnitsKept s t) ∧
      (mode ≤ 1 → s.host.fwAct = none → s.jig.running = false → ∃ t, exec (.fwActivate src p) s = .next t ∧
        t.host.fwAct = none ∧ t.host.fwVersion = s.host.fwCommitted.getD s.host.fwVersion ∧ t.host.fwCommitted = none ∧
        Answered src sOk [] s t ∧ Logs 0x0104 s t ∧ (mode = 1 → ∀ c, activeCtx (ctxOf t c) = false) ∧
        (mode = 0 → UnitsKept s t)) ∧
      (mode ≤ 1 → s.host.fwAct = none → s.jig.running = true → ∃ t, exec (.fwActivate src p) s = .next t ∧
        t.host.fwAct = some ⟨mode, 0, some s.now, some src⟩ ∧ t.host.fwVersion = s.host.fwVersion ∧
        Waits src .fwSwitch t ∧ UnitsKept s t) ∧
      (mode = 2 → s.host.fwAct = none → ∃ t, exec (.fwActivate src p) s = .next t ∧
        t.host.fwAct = some ⟨2, getLE p 8 8, none, some src⟩ ∧ t.host.fwVersion = s.host.fwVersion ∧
        Waits src .fwSwitch t ∧ UnitsKept s t))) ∧
  (∀ (s : State) (a : FwAct) (t0 : Nat), s.host.fwAct = some a →
    (a.mode = 2 → a.holdFrom = none → ∃ t, exec .fwHoldAtT s = .next t ∧
      t.host.fwAct = some { a with holdFrom := some a.t } ∧ a.t ≤ t.now ∧ t.host.fwVersion = s.host.fwVersion) ∧
    (a.holdFrom = some t0 → (∀ o ∈ s.host.outst, o.wait ≠ .held) →
      (s.jig.running = false ∨ a.mode = 1 ∨ s.jig.pos = 0 ∧ s.jig.visit = 0 →
        ∃ t, exec .fwSwitch s = .next t ∧ t.host.fwAct = none ∧
          t.host.fwVersion = s.host.fwCommitted.getD s.host.fwVersion ∧ t.host.fwCommitted = none ∧ Logs 0x0104 s t ∧
          (a.mode = 1 → ∀ c, activeCtx (ctxOf t c) = false) ∧ (a.mode ≠ 1 → UnitsKept s t) ∧
          ∀ k, a.src = some k → Answered k sOk [] s t) ∧
      (s.jig.running = true → a.mode ≠ 1 → ¬ (s.jig.pos = 0 ∧ s.jig.visit = 0) →
        ∃ t, exec .fwSwitch s = .next t ∧ t.host.fwAct = some a ∧ t.host.fwVersion = s.host.fwVersion ∧ UnitsKept s t) ∧
      ∃ t, exec .fwActivateTimeout s = .next t ∧ t.host.fwAct = none ∧ t.host.fwVersion = s.host.fwVersion ∧
        t0 + 30000000000 ≤ t.now ∧ Logs 0x0105 s t ∧ ∀ k, a.src = some k → Answered k sFwTimeout [] s t))

/-- COMMAND_FETCH (R393, R396, R398): a pair that does not fetch takes nothing; an available entry that spells IDENTIFY
advances the head, and the command is answered; an entry that fails the checks of R398 advances it too, completes with
S_BAD_PACKET and counts as a violation. COMPLETION_WRITE (R395, R397): with room for an entry and its continuation, the
oldest completion that waits is written at the CQ's tail as R397 lays it out, its words from the seventh on in the
continuation behind it, and the tail moves on; an error status, or a pair without coalescing, is reported at once; without
room nothing is written (no command being held behind a fence, and none deleting the pair). FETCH_ERROR (R384) stops the
function's fetching, reports through AER and raises EV_FN_FATAL; IRQ_COAL_TIMER (R395) sends the interrupts of
completions not yet reported, or sets the pending bit of a vector that is masked. -/
def Obligations.FetchedCommandsRunAndComplete : Prop :=
  (∀ (f p : Fin 64) (e : Bytes) (s : State),
    (fetches s f p = false → ∃ t, exec (.commandFetch f p e) s = .next t ∧ UnitsKept s t ∧
      t.host.outst = s.host.outst ∧ ∀ g r : Nat, ringOf t g r = ringOf s g r) ∧
    ∀ q, fetches s f p = true → pairOf s f p = some q →
      let src := packetSrc (.fn f p) e
      let next := if q.sqHead + 1 = q.sqSize then 0 else q.sqHead + 1
      (packetPasses s (.fn f p) e = true → getLE e 0 2 = 0x0101 → (fnOf s f).quarantine = false →
        zeroAt (packetParams e) [(8, 40)] = true → src.ctx = none →
        (bit (getLE e 2 1) 0 = false ∨ ∀ o ∈ s.host.outst, o.src.issuer ≠ .fn f p) →
        (∀ a, s.host.fwAct = some a → a.holdFrom = none) →
        ∃ t, exec (.commandFetch f p e) s = .next t ∧ UnitsKept s t ∧
          ringOf t f p = some { q with sqHead := next, held := [] } ∧
          Answered src sOk [0x00435531, s.host.fwVersion, s.dvl.serial % 2 ^ 32, s.dvl.serial / 2 ^ 32 % 2 ^ 32,
            idReg s f 0x18, installId s] s t) ∧
      (packetPasses s (.fn f p) e = false → ∃ t, exec (.commandFetch f p e) s = .next t ∧ UnitsKept s t ∧
        ringOf t f p = some { q with sqHead := next, held := [] } ∧ Answered src sBadPacket [] s t ∧
        (fnOf t f).violCnt = min ((fnOf s f).violCnt + 1) 0xFFFF_FFFF)) ∧
  (∀ (f p : Fin 64) (s : State) (q : Pair) (c : Completion) (r : List Completion), pairOf s f p = some q →
    q.held = c :: r → (fnOf s f).fatal = false → (linkOf s (f / 16)).up = true → q.closing = false →
    (∀ o ∈ s.host.outst, o.wait ≠ .held ∧ o.wait ≠ .ringDelete p) →
    let more := decide (6 < c.words.length)
    let used := (q.cqTail + q.cqSize - q.cqHead) % max q.cqSize 1
    let need := if more then 2 else 1
    (used + need < q.cqSize → ∃ t, exec (.completionWrite f p) s = .next t ∧
      ringOf t f p = some { (if more then cqStep (cqStep q) else cqStep q) with held := [] } ∧
      (∃ fl, bit fl 0 = q.phase ∧ bit fl 1 = more ∧
        Sends (.hostWrite (f / 16) (q.cqBase + 32 * q.cqTail)
          (toLE 2 c.tag ++ toLE 2 c.status ++ toLE 2 (q.sqHead % 4096) ++ toLE 1 fl ++ toLE 1 p ++
            (List.range 6).flatMap fun i => toLE 4 (c.words.getD i 0))) s t) ∧
      (more = true → ∃ fl, bit fl 0 = (cqStep q).phase ∧
        Sends (.hostWrite (f / 16) (q.cqBase + 32 * (cqStep q).cqTail)
          (toLE 2 c.tag ++ toLE 2 c.status ++ toLE 2 (q.sqHead % 4096) ++ toLE 1 fl ++ toLE 1 p ++
            (List.range 6).flatMap fun i => toLE 4 (c.words.getD (6 + i) 0))) s t) ∧
      (c.noIrq = false → c.status ≠ 0 ∨ q.coalesce = false → (fnOf s f).msixOn = true →
        bit (tget 1 (fnOf s f).msixTable (16 * q.vector + 12)) 0 = false → Sends (.msix f q.vector) s t)) ∧
    (q.cqSize ≤ used + need → ∃ t, exec (.completionWrite f p) s = .next t ∧ UnitsKept s t ∧
      ∀ g k : Nat, ringOf t g k = ringOf s g k)) ∧
  (∀ (f p : Fin 64) (s : State),
    (∃ t, exec (.fetchError f p) s = .next t ∧ (fnOf t f).fatal = true ∧ Sends (.aer f) s t ∧ Logs 0x0102 s t ∧
      UnitsKept s t ∧ fetches t f p = false) ∧
    (0 < (fnOf s f).coalPend → (fnOf s f).msixOn = true → ∃ t, exec (.irqCoalTimer f) s = .next t ∧ UnitsKept s t ∧
      (fnOf t f).coalPend = 0 ∧ ∀ v ∈ (fnOf s f).coalVectors,
        (bit (tget 1 (fnOf s f).msixTable (16 * v + 12)) 0 = false → Sends (.msix f v) s t) ∧
        (bit (tget 1 (fnOf s f).msixTable (16 * v + 12)) 0 = true → v ∈ (fnOf t f).pba)))

/-- PCIE_LINK_UP (R24, R382): a port out of reset trains to the widest common width of 8, 4, 2 and 1, and to the offered
rate, at most 64 GT/s with FLIT mode and 32 GT/s without, raising EV_HOST_LINK in that case; a port in reset does not
train. Functions and power (R22, R382, R415-R417): a D-state write takes effect, and one of D0 satisfies a pending wake
request; leaving PERST# while PWR_GOOD is brings a port's functions out of D3cold and trains its link, and before
PWR_GOOD ends the reset alone; a function back in D3hot with a wake cause and PME enabled is asked again. -/
def Obligations.LinksTrainAndFunctionsSleep : Prop :=
  (∀ (h : Fin 4) (o : LinkOffer) (s : State),
    ((linkOf s h).perst = false → 1 ≤ o.rate → o.rate ≤ 6 → 1 ≤ o.width →
      ∃ t, exec (.pcieLinkUp h o) s = .next t ∧ UnitsKept s t ∧ (linkOf t h).up = true ∧ (linkOf t h).flit = o.flit ∧
        (linkOf t h).rate = min o.rate (if o.flit then 6 else 5) ∧ (linkOf t h).width ∈ [1, 2, 4, 8] ∧
        (linkOf t h).width ≤ o.width ∧ (∀ w ∈ [1, 2, 4, 8], w ≤ o.width → w ≤ (linkOf t h).width) ∧
        (o.flit = false → Logs 0x0103 s t)) ∧
    ((linkOf s h).perst = true → ∃ t, exec (.pcieLinkUp h o) s = .next t ∧ UnitsKept s t ∧ linkOf t h = linkOf s h)) ∧
  (∀ (f : Fin 64) (d : DState) (pme : Bool) (h : Fin 4) (o : LinkOffer) (s : State),
    (∃ t, exec (.dStateChange f d pme) s = .next t ∧ (fnOf t f).dstate = d ∧ (fnOf t f).pmeOn = pme ∧
      (d = .d0 → (fnOf t f).wakePending = false) ∧ t.mem = s.mem ∧ t.tile = s.tile) ∧
    (s.pkg.pwrGood = true → ∃ t, exec (.perstDeassert h o) s = .next t ∧ (linkOf t h).perst = false ∧
      (linkOf t h).up = true ∧
      (∀ i : Fin 16, (fnOf s (16 * h + i)).dstate = .d3cold → (fnOf t (16 * h + i)).dstate = .d0) ∧ t.mem = s.mem) ∧
    (s.pkg.pwrGood = false → ∃ t, exec (.perstDeassert h o) s = .next t ∧ (linkOf t h).perst = false ∧
      (linkOf t h).up = (linkOf s h).up ∧ (∀ g, fnOf t g = fnOf s g) ∧ UnitsKept s t) ∧
    ((fnOf s f).dstate = .d3hot → (fnOf s f).pmeOn = true → (fnOf s f).wakePending = false → (fnOf s f).wakeCause ≠ 0 →
      ∃ t, exec (.pmeRewakeTimer f) s = .next t ∧ Sends (.pme f) s t ∧ UnitsKept s t))


/-! ### Objects and memory tiers (chapter 10) -/

/-- OBJ.CREATE (R288, R289, R297, R319) of an admissible object: the two result words are a handle under which the object
stands, reading zero, owned by the issuer, with its context and home, no grant and no pin; RESIDENT where slack has room,
and a PERSISTENT one in FLASH where it has none; every other object stays. A bad size, kind or home is S_BAD_FIELD,
another's context S_JOB_UNKNOWN, and no room S_NO_RESOURCE. OBJ.DESTROY (R288, R302, R319) of an object that the issuer
owns: with nothing that pins, holds or names it, its handle names nothing any more and every other object stays; else it
is S_OBJ_BUSY. OBJ.GRANT and OBJ.REVOKE (R292, R319) by the object's owner: a grant to function f stands with its right
until it is revoked, and no other function's right changes; a ninth grant is S_NO_RESOURCE, another value S_BAD_FIELD. A
handle of no object is S_OBJ_UNKNOWN to each, and one of another owner's object S_OBJ_UNKNOWN or S_DENIED. -/
def Obligations.ObjectsAreMadeGrantedAndDestroyed : Prop :=
  (∀ (src : Src) (p : Bytes) (s : State), Starts ⟨src, 0x0701, .objCreate src p, false, [(0x0C, 36)], p⟩ s →
    let size := getLE p 0 8
    let kind := getLE p 8 1
    let home := getLE p 9 1
    let c := getLE p 0x0A 2
    let fine := 1 ≤ size ∧ size ≤ 64 * gib ∧ kind ≤ 1 ∧ (home ≤ 3 ∨ home = 0xFF)
    let mine := c = 0xFFFF ∨ c < 4096 ∧ (ctxOf s c).state ≠ .free ∧ (ctxOf s c).fn = srcFn s src
    let room := (size + 65535) / 65536 * 65536 ≤ slackFree s
    let full := (kind = 1 ∧ ¬ room) ∨ (kind = 0 ∧ flashFree s < (size + 16383) / 16384 * 16384) ∨
      4194303 ≤ (liveObjs s).length
    let refused (st : Nat) : Prop := ∃ t, exec (.objCreate src p) s = .next t ∧ Answered src st [] s t ∧ UnitsKept s t
    (¬ fine → refused sBadField) ∧ (fine → ¬ mine → refused sJobUnknown) ∧ (fine → mine → full → refused sNoResource) ∧
    (fine → mine → ¬ full →
      ∃ t h o, exec (.objCreate src p) s = .next t ∧ Answered src sOk [h % 2 ^ 32, h / 2 ^ 32 % 2 ^ 32] s t ∧
        findObj s h = none ∧ findObj t h = some o ∧ o.size = size ∧ o.scratch = (kind == 1) ∧ o.ownerFn = srcFn s src ∧
        o.ownerCtx = (if c = 0xFFFF then none else some c) ∧ (home ≤ 3 → o.home = home) ∧ o.home ≤ 3 ∧
        (room → o.state = .resident) ∧ (¬ room → o.state = .flash) ∧ o.mem = [] ∧ o.grants = [] ∧ o.pinRefs = 0 ∧
        ∀ k, hSlot k ≠ hSlot h → findObj t k = findObj s k)) ∧
  (∀ (src : Src) (p : Bytes) (s : State), Starts ⟨src, 0x0702, .objDestroy src p, false, [(8, 40)], p⟩ s →
    let h := getLE p 0 8
    (∀ st, cmdObj s src h 3 = .error st → (st = sObjUnknown ∨ st = sDenied) ∧
      ∃ t, exec (.objDestroy src p) s = .next t ∧ Answered src st [] s t ∧ UnitsKept s t) ∧
    ∀ o, cmdObj s src h 3 = .ok o →
      let free := isPinned s h o = false ∧ inVersion s h = false ∧ heldByCapture s h = false ∧ inManifest s h = false
      (free → ∃ t, exec (.objDestroy src p) s = .next t ∧ Answered src sOk [] s t ∧ findObj t h = none ∧
        ∀ k, hSlot k ≠ hSlot h → findObj t k = findObj s k) ∧
      (¬ free → ∃ t, exec (.objDestroy src p) s = .next t ∧ Answered src 0x0702 [] s t ∧ UnitsKept s t)) ∧
  (∀ (src : Src) (p : Bytes) (s : State),
    let h := getLE p 0 8
    let f := getLE p 8 1
    let refused (c : Instr) (st : Nat) : Prop := ∃ t, exec c s = .next t ∧ Answered src st [] s t ∧ UnitsKept s t
    (Starts ⟨src, 0x070A, .objGrant src p, false, [(0x0A, 38)], p⟩ s →
      (∀ st, cmdObj s src h 3 = .error st → (st = sObjUnknown ∨ st = sDenied) ∧ refused (.objGrant src p) st) ∧
      ∀ o, cmdObj s src h 3 = .ok o →
        (63 < f ∨ 1 < getLE p 9 1 → refused (.objGrant src p) sBadField) ∧
        (f ≤ 63 → getLE p 9 1 ≤ 1 → 8 ≤ (o.grants.filter fun g => g.1 != f).length →
          refused (.objGrant src p) sNoResource) ∧
        (f ≤ 63 → getLE p 9 1 ≤ 1 → (o.grants.filter fun g => g.1 != f).length < 8 →
          ∃ t o', exec (.objGrant src p) s = .next t ∧ Answered src sOk [] s t ∧ findObj t h = some o' ∧
            (o.ownerFn ≠ f → fnRights f o' = 1 + getLE p 9 1) ∧ (∀ g, g ≠ f → fnRights g o' = fnRights g o) ∧
            o'.mem = o.mem ∧ ∀ k, hSlot k ≠ hSlot h → findObj t k = findObj s k)) ∧
    (Starts ⟨src, 0x070B, .objRevoke src p, false, [(9, 39)], p⟩ s →
      (∀ st, cmdObj s src h 3 = .error st → (st = sObjUnknown ∨ st = sDenied) ∧ refused (.objRevoke src p) st) ∧
      ∀ o, cmdObj s src h 3 = .ok o →
        (63 < f → refused (.objRevoke src p) sBadField) ∧
        (f ≤ 63 → ∃ t o', exec (.objRevoke src p) s = .next t ∧ Answered src sOk [] s t ∧ findObj t h = some o' ∧
          (o.ownerFn ≠ f → fnRights f o' = 0) ∧ (∀ g, g ≠ f → fnRights g o' = fnRights g o) ∧ o'.mem = o.mem ∧
          ∀ k, hSlot k ≠ hSlot h → findObj t k = findObj s k)))

/-- OBJ.WRITE and OBJ.READ (R292, R295, R300, R318, R320). A write within the object changes its bytes in the range
and no other byte of it or of another object; while the context store holds the committed copy, or with the durable
flag, the durable content of a PERSISTENT object takes the same bytes, and else it stays; a rsvd flag is S_BAD_FIELD. A
read of a range with no
poisoned line sends exactly the object's bytes to host memory and changes no content; of one with a poisoned line it is
S_OBJ_POISONED. A range beyond the object is S_OBJ_RANGE, one of more than 16 MiB S_BAD_FIELD, and host memory that
cannot be read S_HOST_DMA, nothing changing, as with no bytes to move. OBJ.ATOMIC (R133, R303, R319) at an aligned offset of an object whose
committed copy is in GDDR7: it answers the old value and writes the result, wrapped to its width, in one step, and a
demotion under way is cancelled; every other byte stays. Of one in FLASH or on its way it waits for the promotion, its
content unchanged. -/
def Obligations.ObjectBytesAreWrittenAndRead : Prop :=
  (∀ (src : Src) (p : Bytes) (s : State) (o : Obj) (d : Bytes),
    let h := getLE p 0 8
    let off := getLE p 8 8
    let n := getLE p 0x10 4
    let refused (c : Instr) (st : Nat) : Prop := ∃ t, exec c s = .next t ∧ Answered src st [] s t ∧ UnitsKept s t
    (Starts ⟨src, 0x0703, .objWrite src p (some d), false, [(0x15, 3), (0x20, 16)], p⟩ s → cmdObj s src h 2 = .ok o →
      (1 < getLE p 0x14 1 → refused (.objWrite src p (some d)) sBadField) ∧
      (getLE p 0x14 1 ≤ 1 →
      (16 * mib < n → refused (.objWrite src p (some d)) sBadField) ∧
      (n = 0 → off ≤ o.size → refused (.objWrite src p (some d)) sOk) ∧
      (n ≤ 16 * mib → o.size < off + n → refused (.objWrite src p (some d)) 0x0703) ∧
      (1 ≤ n → n ≤ 16 * mib → off + n ≤ o.size → Memory.wf o.mem = true → Memory.wf o.durable = true → d.length = n →
        let durably := getLE p 0x14 1 = 1 ∨ o.state = .flash ∨ o.state = .promoting
        ∃ t o', exec (.objWrite src p (some d)) s = .next t ∧ Answered src sOk [] s t ∧ findObj t h = some o' ∧
          (∀ a, memGet o'.mem a = if off ≤ a ∧ a < off + n then d.getD (a - off) 0 else memGet o.mem a) ∧
          (o.scratch = false → durably →
            ∀ a, memGet o'.durable a = if off ≤ a ∧ a < off + n then d.getD (a - off) 0 else memGet o.durable a) ∧
          (o.scratch = true ∨ ¬ durably → o'.durable = o.durable) ∧ Memory.wf o'.mem = true ∧ o'.size = o.size ∧
          o'.state = o.state ∧ (∀ k, hSlot k ≠ hSlot h → findObj t k = findObj s k) ∧ t.tile = s.tile ∧ t.vnr = s.vnr ∧
          t.mq = s.mq))) ∧
    (Starts ⟨src, 0x0703, .objWrite src p none, false, [(0x15, 3), (0x20, 16)], p⟩ s → cmdObj s src h 2 = .ok o →
      getLE p 0x14 1 ≤ 1 → 1 ≤ n → n ≤ 16 * mib → off + n ≤ o.size → refused (.objWrite src p none) sHostDma) ∧
    (Starts ⟨src, 0x0704, .objRead src p, false, [(0x14, 4), (0x20, 16)], p⟩ s → cmdObj s src h 1 = .ok o →
      (16 * mib < n → refused (.objRead src p) sBadField) ∧
      (n = 0 → off ≤ o.size → refused (.objRead src p) sOk) ∧
      (n ≤ 16 * mib → o.size < off + n → refused (.objRead src p) 0x0703) ∧
      (1 ≤ n → n ≤ 16 * mib → off + n ≤ o.size → poisonedIn o off n = true → refused (.objRead src p) 0x0704) ∧
      (1 ≤ n → n ≤ 16 * mib → off + n ≤ o.size → poisonedIn o off n = false →
        ∃ t o', exec (.objRead src p) s = .next t ∧ Answered src sOk [] s t ∧
          Sends (.hostWrite (srcFn s src / 16) (getLE p 0x18 8) (memRead o.mem off n)) s t ∧
          findObj t h = some o' ∧ o'.mem = o.mem ∧ o'.durable = o.durable ∧
          (∀ k, hSlot k ≠ hSlot h → findObj t k = findObj s k) ∧ t.tile = s.tile))) ∧
  (∀ (src : Src) (p : Bytes) (s : State) (o : Obj),
    let h := getLE p 0 8
    let off := getLE p 8 8
    let op := getLE p 0x10 1
    let w := getLE p 0x11 1
    let old := leNat (memRead o.mem off w)
    let m := 2 ^ (8 * w)
    let refused (st : Nat) : Prop := ∃ t, exec (.objAtomic src p) s = .next t ∧ Answered src st [] s t ∧ UnitsKept s t
    let good := op ≤ 4 ∧ (w = 4 ∨ w = 8 ∧ op ∉ [1, 2])
    Starts ⟨src, 0x070C, .objAtomic src p, false, [(0x12, 6), (0x28, 8)], p⟩ s → cmdObj s src h 2 = .ok o →
    (¬ good → refused sBadField) ∧
    (good → o.size < off + w ∨ off % w ≠ 0 → refused 0x0703) ∧
    (good → off % w = 0 → off + w ≤ o.size → poisonedIn o off w = true → refused 0x0704) ∧
    (good → off % w = 0 → off + w ≤ o.size → poisonedIn o off w = false →
      (o.state = .resident ∨ o.state = .demoting → Memory.wf o.mem = true →
        ∃ t o', exec (.objAtomic src p) s = .next t ∧ Answered src sOk [old % 2 ^ 32, old / 2 ^ 32 % 2 ^ 32] s t ∧
          findObj t h = some o' ∧ o'.state = .resident ∧
          (∀ a, memGet o'.mem a = if off ≤ a ∧ a < off + w then
              (toLE w (atomicResult op w old (getLE p 0x18 8 % m) (getLE p 0x20 8 % m))).getD (a - off) 0
            else memGet o.mem a) ∧
          ∀ k, hSlot k ≠ hSlot h → findObj t k = findObj s k) ∧
      (o.state = .flash ∨ o.state = .promoting →
        ∃ t o', exec (.objAtomic src p) s = .next t ∧ Waits src (.atomic h off op w (getLE p 0x18 8) (getLE p 0x20 8)) t ∧
          findObj t h = some o' ∧ o'.mem = o.mem ∧ o'.durable = o.durable)))

/-- OBJ.QUERY, OBJ.PIN, OBJ.UNPIN and OBJ.PROMOTE (R302, R303, R319, R322) of an object that the issuer may read. The
query answers MEM_OBJ words 0-3. A pin of a RESIDENT object, or of one that a demotion had not yet left, takes one
reference more; one of an object in FLASH or PROMOTING waits for its promotion; with 255 references, or with no room for
the object even once every victim has left, it is S_NO_RESOURCE. A promotion of a RESIDENT object has nothing to do, one
of a DEMOTING object cancels the demotion, and any other waits. None changes the object's content. OBJ.UNPIN (R174,
R302, R319): with a reference of OBJ.PIN left it takes one away, and with none it is S_OBJ_BUSY; the last reference of a
retired version's object destroys the object, and so does that of a training object without its context. -/
def Obligations.PinsHoldResidentObjects : Prop :=
  (∀ (src : Src) (p : Bytes) (s : State) (o : Obj), Starts ⟨src, 0x0705, .objQuery src p, false, [(8, 40)], p⟩ s →
    findObj s (getLE p 0 8) = some o → 1 ≤ fnRights (srcFn s src) o ∨ srcOwner s src = true →
    ∃ t, exec (.objQuery src p) s = .next t ∧ Answered src sOk (memObjWords o) s t ∧ UnitsKept s t) ∧
  (∀ (src : Src) (p : Bytes) (s : State) (o : Obj),
    let h := getLE p 0 8
    cmdObj s src h 1 = .ok o →
    (Starts ⟨src, 0x0706, .objPin src p, false, [(8, 40)], p⟩ s →
      (255 ≤ pinCount o → ∃ t, exec (.objPin src p) s = .next t ∧ Answered src sNoResource [] s t ∧ UnitsKept s t) ∧
      (pinCount o < 255 → o.state = .resident ∨ o.state = .demoting → ∃ t, exec (.objPin src p) s = .next t ∧
        Answered src sOk [] s t ∧ findObj t h = some { o with pinRefs := o.pinRefs + 1, state := .resident }) ∧
      (pinCount o < 255 → o.state = .flash → mostRoom s o < gddrBytes o →
        ∃ t, exec (.objPin src p) s = .next t ∧ Answered src sNoResource [] s t ∧ UnitsKept s t) ∧
      (pinCount o < 255 → o.state = .promoting ∨ o.state = .flash ∧ gddrBytes o ≤ mostRoom s o →
        ∃ t o', exec (.objPin src p) s = .next t ∧ Waits src (.pin h) t ∧ findObj t h = some o' ∧
          o'.pinRefs = o.pinRefs ∧ o'.mem = o.mem)) ∧
    (Starts ⟨src, 0x0708, .objPromote src p, false, [(8, 40)], p⟩ s →
      (o.state = .resident → ∃ t, exec (.objPromote src p) s = .next t ∧ Answered src sOk [] s t ∧ UnitsKept s t) ∧
      (o.state = .demoting → ∃ t, exec (.objPromote src p) s = .next t ∧ Answered src sOk [] s t ∧
        findObj t h = some { o with state := .resident }) ∧
      (o.state = .flash ∨ o.state = .promoting → ∃ t o', exec (.objPromote src p) s = .next t ∧
        Waits src (.promote h) t ∧ findObj t h = some o' ∧ o'.mem = o.mem ∧
        (gddrBytes o ≤ roomFor s o → o'.state = .promoting)))) ∧
  (∀ (src : Src) (p : Bytes) (s : State) (o : Obj), Starts ⟨src, 0x0707, .objUnpin src p, false, [(8, 40)], p⟩ s →
    let h := getLE p 0 8
    let last := o.pinRefs = 1 ∧ o.sysPins = 0 ∧ heldByCapture s h = false ∧
      ((∃ c g, o.role = .version c g) ∧ inVersion s h = false ∨ (∃ c g, o.role = .training c g) ∧ o.ownerCtx = none)
    cmdObj s src h 1 = .ok o →
    (o.pinRefs = 0 → ∃ t, exec (.objUnpin src p) s = .next t ∧ Answered src 0x0702 [] s t ∧ UnitsKept s t) ∧
    (0 < o.pinRefs → ¬ last → ∃ t, exec (.objUnpin src p) s = .next t ∧ Answered src sOk [] s t ∧
      findObj t h = some { o with pinRefs := o.pinRefs - 1 }) ∧
    (last → ∃ t, exec (.objUnpin src p) s = .next t ∧ Answered src sOk [] s t ∧ findObj t h = none))

/-- OBJ.DEMOTE (R300, R301, R303): a clean RESIDENT object that nothing pins, protects or plans goes to FLASH at once and
the command completes, a dirty one to DEMOTING and it waits; one in FLASH is done, a promotion under way is cancelled, a
SCRATCH one is S_OBJ_KIND and one that may not go S_OBJ_BUSY. DEMOTION_COMMIT makes its content durable and puts it in
FLASH, answering what waits for it; PROMOTION_COMMIT makes a PROMOTING object RESIDENT, with the lines lost poisoned, and
answers the pins and promotions that wait for it. What reads return is the same throughout (but for an atomic that has
waited). FLUSH (R318, R400) with no earlier command outstanding, of one object or of
every object that the function may write: at level 1 the durable content of a PERSISTENT object is its content, at both
levels no line of it waits in the write-combining buffer, and what reads return is unchanged. With an earlier command of
its queue outstanding it waits; of an object it may not write it is S_OBJ_UNKNOWN. -/
def Obligations.MovesKeepContent : Prop :=
  (∀ (src : Src) (p : Bytes) (s : State) (o : Obj), Starts ⟨src, 0x0709, .objDemote src p, false, [(8, 40)], p⟩ s →
    let h := getLE p 0 8
    let stays := isPinned s h o = true ∨ isProtected s o = true ∨ o.planned = true
    cmdObj s src h 2 = .ok o →
    (o.scratch = true → ∃ t, exec (.objDemote src p) s = .next t ∧ Answered src 0x0705 [] s t ∧ UnitsKept s t) ∧
    (o.scratch = false → stays → ∃ t, exec (.objDemote src p) s = .next t ∧ Answered src 0x0702 [] s t ∧ UnitsKept s t) ∧
    (o.scratch = false → ¬ stays →
      ∃ t o', exec (.objDemote src p) s = .next t ∧ findObj t h = some o' ∧ o'.mem = o.mem ∧
        (o.state = .resident → o.dirty = false → o'.state = .flash ∧ o'.durable = o.mem ∧
          (Unlisted src s → Answered src sOk [] s t)) ∧
        (o.state = .resident → o.dirty = true → o'.state = .demoting ∧ Waits src (.demote h) t) ∧
        (o.state = .demoting → o'.state = .demoting ∧ Waits src (.demote h) t) ∧
        (o.state = .flash ∨ o.state = .promoting → o'.state = .flash ∧ Answered src sOk [] s t))) ∧
  (∀ (h : Nat) (lost : List Nat) (s : State) (o : Obj), findObj s h = some o →
    (o.state = .demoting → o.scratch = false →
      ∃ t o', exec (.demotionCommit h) s = .next t ∧ findObj t h = some o' ∧ o'.state = .flash ∧ o'.mem = o.mem ∧
        o'.durable = o.mem ∧ o'.dirty = false ∧ ∀ x ∈ s.host.outst, x.wait = .demote h → Answered x.src sOk [] s t) ∧
    (o.state = .promoting →
      ∃ t o', exec (.promotionCommit h lost) s = .next t ∧ findObj t h = some o' ∧ o'.state = .resident ∧
        (∀ x ∈ s.host.outst, x.wait = .pin h ∨ x.wait = .promote h → Answered x.src sOk [] s t) ∧
        ((∀ x ∈ s.host.outst, ∀ off op w v c, x.wait ≠ .atomic h off op w v c) →
          o'.mem = o.mem ∧ o'.poisoned = o.poisoned ++ lost))) ∧
  (∀ (src : Src) (p : Bytes) (s : State),
    let i : CmdInfo := ⟨src, 0x0102, .flush src p, false, [(1, 7), (0x10, 32)], p⟩
    let h := getLE p 8 8
    let may (o : Obj) : Prop := 2 ≤ fnRights (srcFn s src) o
    Starts i s →
    (1 < getLE p 0 1 → ∃ t, exec (.flush src p) s = .next t ∧ Answered src sBadField [] s t ∧ UnitsKept s t) ∧
    (getLE p 0 1 ≤ 1 → h ≠ 0 → (∀ o, findObj s h = some o → ¬ may o) →
      ∃ t, exec (.flush src p) s = .next t ∧ Answered src sObjUnknown [] s t ∧ UnitsKept s t) ∧
    (getLE p 0 1 ≤ 1 → h = 0 ∨ (∃ o, findObj s h = some o ∧ may o) →
      ∃ t, exec (.flush src p) s = .next t ∧ t.tile = s.tile ∧ t.mq = s.mq ∧ t.vnr = s.vnr ∧
        (earlier src (enlist i s).host.outst = false → Answered src sOk [] s t) ∧
        (earlier src (enlist i s).host.outst = true → Waits src (.flush (getLE p 0 1) h) t) ∧
        ∀ k o, (h = 0 ∨ k = h) → findObj s k = some o → may o →
          ∃ o', findObj t k = some o' ∧ o'.mem = o.mem ∧
            (getLE p 0 1 = 1 → o.scratch = false → o'.durable = o.mem ∧ o'.dirty = false) ∧
            ∀ e ∈ t.mem.wcb, e.handle ≠ k))

/-- Events of the GDDR7 tier (R295, R296, R298): a poisoned line of a clean PERSISTENT object is rewritten from its
durable content and its mark goes; an idle line leaves the write-combining buffer; access counts halve. Stripes of the
context store (R306, R307): an object's pages lie at different addresses, on the channels of their stripe's group, its
parity page on a channel with none of them, and a page reads as its durable content also where its die has failed.
Events of the context store (R307-R310, R317): a failed die is marked and rebuilt with its events, the contents staying;
a second one of its group and die number that fails before the rebuild ends poisons the pages of a stripe on both; a
block refreshed or moved is erased once more, staged data is folded with its content unchanged, and the block map's
record takes the next sequence number. -/
def Obligations.MemoryTiersKeepThemselves : Prop :=
  (∀ (s : State) (h line : Nat) (o : Obj),
    (findObj s h = some o → line ∈ o.poisoned → o.scratch = false → o.dirty = false → Memory.wf o.mem = true →
      ∃ t o', exec (.poisonRewrite h line) s = .next t ∧ findObj t h = some o' ∧ line ∉ o'.poisoned ∧
        ∀ a, memGet o'.mem a = if 256 * line ≤ a ∧ a < 256 * line + 256 then memGet o.durable a else memGet o.mem a) ∧
    (∀ m : Fin 4, ∃ t, exec (.wcbIdleTimer m h line) s = .next t ∧
      (∀ e, e ∈ t.mem.wcb ↔ e ∈ s.mem.wcb ∧ ¬ (e.die = m.val ∧ e.handle = h ∧ e.line = line)) ∧
      t.mem.objs = s.mem.objs) ∧
    ∃ t, exec .accessCountHalving s = .next t ∧ t.tile = s.tile ∧ t.mq = s.mq ∧ t.vnr = s.vnr ∧
      (findObj s h = some o → ∃ o', findObj t h = some o' ∧ o'.access = o.access / 2 ∧ o'.mem = o.mem)) ∧
  (∀ (s : State) (o : Obj) (i j : Nat),
    (i < objPages o → flashPage s o i = pageBytes o i) ∧
    (∀ a, o.stripeSkip = [] → pageAddr o i = some a → pageAddr o j = some a → i = j) ∧
    ∀ p a, pageStripe o i = some p → pageAddr o i = some a →
      a.1 / 16 = stripeGroup p.1 ∧ a.1 ≠ parityChan o.stripeSkip p.1) ∧
  (∀ (s : State) (ch : Fin 128) (die : Fin 4),
    ((ch.val, die.val) ∉ s.mem.flashFailed → ∃ t, exec (.flashDieFailed ch die) s = .next t ∧
      t.mem.flashFailed = s.mem.flashFailed ++ [(ch.val, die.val)] ∧
      t.mem.rebuilding = s.mem.rebuilding ++ [(ch.val, die.val)] ∧
      ((∀ r ∈ s.mem.rebuilding, ¬ (r.1 / 16 = ch.val / 16 ∧ r.2 = die.val)) → Logs 0x0703 s t ∧ t.mem.objs = s.mem.objs) ∧
      ∀ h o, findObj s h = some o → ∃ o', findObj t h = some o' ∧ o'.mem = o.mem ∧ o'.durable = o.durable ∧
        ∀ r ∈ s.mem.rebuilding, r.1 / 16 = ch.val / 16 → r.2 = die.val → inFlash o = true →
          ∀ i ∈ lostPages o r.1 ch die, ∀ k, k < 64 → 64 * i + k ∈ o'.poisoned) ∧
    (∀ lost, (ch.val, die.val) ∈ s.mem.rebuilding → ∃ t, exec (.rebuildDone ch die lost) s = .next t ∧
      t.mem.rebuilding = s.mem.rebuilding.erase (ch.val, die.val) ∧ Logs 0x0704 s t ∧ t.mem.objs = s.mem.objs) ∧
    (∀ b, s.pwr.state = .active → ∃ t, exec (.blockRefresh ch die b) s = .next t ∧
      (tget freshBlock t.mem.blocks (blockKey ch die b)).erases =
        (tget freshBlock s.mem.blocks (blockKey ch die b)).erases + 1 ∧
      t.mem.refreshCnt = min (s.mem.refreshCnt + 1) 0xFFFF_FFFF ∧ t.mem.objs = s.mem.objs) ∧
    (∀ b c, b ≠ c → b < 65536 → c < 65536 →
      (tget freshBlock s.mem.blocks (blockKey ch die b)).erases + 300 <
        (tget freshBlock s.mem.blocks (blockKey ch die c)).erases →
      ∃ t, exec (.wearLevelMove ch die b c) s = .next t ∧
        (tget freshBlock t.mem.blocks (blockKey ch die b)).erases =
          (tget freshBlock s.mem.blocks (blockKey ch die b)).erases + 1 ∧ t.mem.objs = s.mem.objs) ∧
    (∀ h o, findObj s h = some o → ∃ t, exec (.slcFold h) s = .next t ∧
      findObj t h = some { o with slc := false } ∧ t.mem.journalSeq = s.mem.journalSeq + 1) ∧
    ∃ t, exec .blockMapWrite s = .next t ∧ recSeq t 0x0007 = recSeq s 0x0007 + 1 ∧ t.mem.objs = s.mem.objs ∧
      s.mem.lastMapWrite + 60000000000 ≤ t.now)

/-! ### Package, power and sideband (chapters 1, 13 and 14) -/

/-- Power good (R22, R25, R29, R33): with the comparator armed, POWER_GOOD brings the rails up and starts the sequence at
step 1, unless a protective condition holds the module in DEEP; with it not armed nothing comes up. UNDERVOLTAGE_TRIP
takes PWR_GOOD away and leaves what stands in NOR and the context store alone: every command, queue, context and tile is
at its reset state, persistent objects keep their durable content, and the others are gone. UNDERVOLTAGE_REARM arms the
comparator and brings the always-on domain up. -/
def Obligations.PowerComesAndGoes : Prop :=
  ∀ s : State,
    (s.pkg.pwrGood = false → s.pkg.uvArmed = true →
      (s.pwr.state ≠ .deep → s.pwr.entering = none → ∃ t, exec .powerGood s = .next t ∧ t.pkg.pwrGood = true ∧
        t.pkg.rails = true ∧ t.pwr.state = .active ∧ t.dvl.step = 1 ∧ t.mem = s.mem) ∧
      (s.pwr.state = .deep ∨ s.pwr.entering ≠ none → ∃ t, exec .powerGood s = .next t ∧ t.pkg.pwrGood = true ∧
        t.pkg.rails = s.pkg.rails ∧ UnitsKept s t)) ∧
    (s.pkg.uvArmed = false → ∃ t, exec .powerGood s = .next t ∧ t.pkg.pwrGood = s.pkg.pwrGood ∧
      t.pkg.rails = s.pkg.rails ∧ UnitsKept s t) ∧
    (∃ t, exec .undervoltageTrip s = .next t ∧ t.pkg.pwrGood = false ∧ t.pkg.rails = false ∧ t.pkg.uvArmed = false ∧
      t.pwr.state = .off ∧ t.host.outst = [] ∧ t.mq = State.reset.mq ∧ t.vnr = State.reset.vnr ∧
      t.jig = State.reset.jig ∧ t.tile = State.reset.tile ∧ t.dvl.step = 0 ∧ t.mem.records = s.mem.records ∧
      ∀ h o, findObj s h = some o →
        (o.scratch = false → ∃ o', findObj t h = some o' ∧ o'.mem = o.durable ∧ o'.state = .flash) ∧
        (o.scratch = true → findObj t h = none)) ∧
    ∃ t, exec .undervoltageRearm s = .next t ∧ t.pkg.uvArmed = true ∧ t.pkg.aonValid = true ∧ t.pwr.state ≠ .off ∧
      (s.pwr.state ≠ .off → t.pwr = s.pwr) ∧ UnitsKept { s with pwr := t.pwr } t

/-- Protective rows that only alert (R22, R33, R34): INLET_TEMP_HIGH and FLOW_LOW hold their row until it clears, keep the
reading, and touch no tile, queue, object or power state; ALERT# is asserted while PWR_GOOD is, and EV_PWR_ALERT is
raised while firmware runs. In OFF they hold nothing. Clearing (R34, R35, R416): ALERT_CONDITION_CLEAR ends a row's
condition and no other; COMPARATOR_CLEAR ends those of the flow at 4.0 L/min or more and those of the inlet at 45.0 °C or
less, no other, and with both wakes a module that one of them put to sleep. ALERT# stays while a row holds or has not
been read. -/
def Obligations.ConditionsRaiseAndClearAlert : Prop :=
  (∀ (v : Nat) (s : State),
    let runs := s.host.ready = true ∧ (s.pwr.state = .active ∨ s.pwr.state = .sleep)
    let kept (t : State) : Prop := t.pwr.state = s.pwr.state ∧ t.tile = s.tile ∧ t.mq = s.mq ∧ t.mem = s.mem ∧
      t.vnr = s.vnr ∧ t.jig = s.jig
    (s.pwr.state ≠ .off →
      (∃ t, exec (.inletTempHigh v) s = .next t ∧ t.pkg.alert = s.pkg.pwrGood ∧ .inletHigh ∈ t.pkg.holding ∧
        t.pwr.inlet = v ∧ (runs → Logs 0x0A02 s t) ∧ kept t) ∧
      ∃ t, exec (.flowLow v) s = .next t ∧ t.pkg.alert = s.pkg.pwrGood ∧ .flowLow ∈ t.pkg.holding ∧ t.pwr.flow = v ∧
        t.pkg.flowOk = false ∧ (runs → Logs 0x0A02 s t) ∧ kept t) ∧
    (s.pwr.state = .off → ∀ c ∈ [Instr.inletTempHigh v, .flowLow v], ∃ t, exec c s = .next t ∧
      t.pkg.holding = s.pkg.holding ∧ kept t)) ∧
  (∀ (s : State) (r : ProtectRow) (inlet flow : Nat),
    (∃ t, exec (.alertConditionClear r) s = .next t ∧ r ∉ t.pkg.holding ∧
      (∀ q, q ≠ r → (q ∈ t.pkg.holding ↔ q ∈ s.pkg.holding)) ∧ t.pkg.latches = s.pkg.latches ∧ UnitsKept s t ∧
      t.pkg.alert = (s.pkg.pwrGood && (!t.pkg.holding.isEmpty || !s.pkg.alertStatus.isEmpty))) ∧
    ∃ t, exec (.comparatorClear inlet flow) s = .next t ∧ t.pwr.flow = flow ∧ t.pwr.inlet = inlet ∧ t.mem = s.mem ∧
      (∀ q ∈ [ProtectRow.flowLow, .flowTooLow, .flowLost],
        (q ∈ t.pkg.holding ↔ q ∈ s.pkg.holding ∧ flow < 40)) ∧
      (∀ q ∈ [ProtectRow.inletHigh, .inletTooHigh], (q ∈ t.pkg.holding ↔ q ∈ s.pkg.holding ∧ 90 < inlet)) ∧
      (∀ q ∈ [ProtectRow.leak, .junctionTrip, .undervoltage, .emergencyOff],
        (q ∈ t.pkg.holding ↔ q ∈ s.pkg.holding)) ∧
      t.pkg.alert = (s.pkg.pwrGood && (!t.pkg.holding.isEmpty || !s.pkg.alertStatus.isEmpty)) ∧
      (flow < 40 ∨ 90 < inlet → t.pwr.waking = s.pwr.waking) ∧
      (40 ≤ flow → inlet ≤ 90 → s.pwr.state = .sleep ∨ s.pwr.state = .deep → s.pwr.entering = none →
        s.pwr.waking = false → s.pkg.latches = [] → bit s.pwr.wakeEn.toNat 3 = true →
        (∃ q ∈ [ProtectRow.inletHigh, .inletTooHigh, .flowLow, .flowTooLow, .flowLost], s.pwr.entryCause = some q) →
        t.pwr.waking = true ∧ t.pwr.lastWake = 8))

/-- Protective rows that leave the fleet (R33, R34, R411): in ACTIVE, INLET_TEMP_TOO_HIGH and FLOW_TOO_LOW hold their row
and ask for an entry to SLEEP, at the next frame boundary of a running bank and at once with none, unless an entry is
under way or one to DEEP is due; LEAVE_FLEET is that boundary: tiles ramp down and ports go dark. Protective rows that
enter DEEP at once (R27, R33, R34, R411): FLOW_LOST and LEAK, and JUNCTION_TRIP while the compute dies are powered, begin
the entry without waiting for a frame boundary and end a wake under way, and leak and junction latch; EMERG_OFF leaves
the module in DEEP with its latch set and the compute dies' rails gone. ALERT# is asserted by all while PWR_GOOD is. -/
def Obligations.SevereRowsLeaveOrEnterDeep : Prop :=
  (∀ (v : Nat) (s : State), s.pwr.state = .active →
    let leaves (c : Instr) (row : ProtectRow) : Prop := ∃ t, exec c s = .next t ∧ t.pkg.alert = s.pkg.pwrGood ∧
      row ∈ t.pkg.holding ∧ t.mem = s.mem ∧ t.pwr.state = .active ∧
      (s.pwr.entering = none → (s.pwr.entryDue.map (·.1)) ≠ some .deep →
        (s.jig.running = true → t.pwr.entryDue = some (.sleep, false) ∧ t.tile = s.tile) ∧
        (s.jig.running = false → t.pwr.entering = some (.sleep, false))) ∧
      ((s.pwr.entering ≠ none ∨ (s.pwr.entryDue.map (·.1)) = some .deep) →
        t.pwr.entering = s.pwr.entering ∧ t.pwr.entryDue = s.pwr.entryDue)
    leaves (.inletTempTooHigh v) .inletTooHigh ∧ leaves (.flowTooLow v) .flowTooLow ∧
    (∀ p planned, s.pwr.entryDue = some (p, planned) → ∃ t, exec .leaveFleet s = .next t ∧
      t.pwr.entering = some (p, planned) ∧ t.pwr.entryDue = none ∧
      (∀ e ∈ t.tile.tiles, e.2.level = 0 ∧ e.2.gated = true) ∧ ∀ e ∈ t.dvl.ports, e.2.state ≤ 1)) ∧
  (∀ (v : Nat) (die : Fin 4) (s : State), s.pwr.state ≠ .off →
    let enters (t : State) (row : ProtectRow) : Prop := t.pkg.alert = s.pkg.pwrGood ∧ row ∈ t.pkg.holding ∧
      t.pwr.waking = false ∧ t.mem = s.mem ∧
      (s.pwr.state ≠ .deep → ∃ planned, t.pwr.entering = some (.deep, planned)) ∧
      (s.pwr.state = .deep → t.pwr.state = .deep)
    (s.pwr.waking = true ∨ s.pwr.state ≠ .deep →
      (s.pwr.waking = true → s.pwr.entering = none) →
      (∃ t, exec (.flowLost v) s = .next t ∧ enters t .flowLost ∧ t.pwr.flow = v) ∧
      (∃ t, exec .leak s = .next t ∧ enters t .leak ∧ .leak ∈ t.pkg.latches ∧ t.pkg.leakWet = true) ∧
      (s.pwr.state = .active → s.pkg.rails = true → ∃ t, exec (.junctionTrip die v) s = .next t ∧
        enters t .junctionTrip ∧ .junctionTrip ∈ t.pkg.latches)) ∧
    (s.pkg.rails = false ∨ s.pwr.state ≠ .active → ∃ t, exec (.junctionTrip die v) s = .next t ∧
      t.pkg.holding = s.pkg.holding ∧ UnitsKept s t) ∧
    (s.pwr.state ≠ .deep → ∃ t, exec .emergOff s = .next t ∧ t.pkg.alert = s.pkg.pwrGood ∧ t.pwr.state = .deep ∧
      .emergencyOff ∈ t.pkg.latches ∧ t.pkg.rails = false ∧ t.tile.tiles = [] ∧ t.jig.running = false))

/-- The start sequence (R346): FIRMWARE_BOOT_DONE at step 1 sets READY and goes on to step 2, running the committed
image, or the one it found, with the map and serial found; a package that finds no image is OUT with cause 1.
PACKAGE_SELF_TEST_DONE at step 2 assigns the spares, records them and goes on to step 3, or is OUT with cause 2 when a
control wire or three wavelengths of a bundle fail. At any other step neither does anything. WAVELENGTH_FAIL (R16, R18,
R436): a wavelength that fails while its bundle has a spare left is noted, with EV_DBG_LANE_SPARED where it carried
traffic; with none left the module resets at the next frame boundary of a running bank, and at once with none. The other
bundles stay. -/
def Obligations.StartSequenceAdvances : Prop :=
  (∀ (s : State) (r : TestResult) (b : BootRecords),
    (s.dvl.step = 1 →
      (∃ t, exec (.firmwareBootDone none) s = .next t ∧ t.host.ready = true ∧ t.dvl.step = 2 ∧
        t.host.fwVersion = s.host.fwCommitted.getD s.host.fwVersion ∧ t.host.fwCommitted = none ∧
        t.pkg.causesDue = [] ∧ t.mem = s.mem) ∧
      (∀ v, b.fw = some v → ∃ t, exec (.firmwareBootDone (some b)) s = .next t ∧ t.host.ready = true ∧ t.dvl.step = 2 ∧
        t.host.fwVersion = v ∧ t.host.fwCommitted = none ∧ t.dvl.map = b.map ∧ t.dvl.serial = b.serial ∧
        t.mem = s.mem) ∧
      (b.fw = none → ∃ t, exec (.firmwareBootDone (some b)) s = .next t ∧ t.dvl.step = 15 ∧ t.dvl.outCause = 1 ∧
        t.host.ready = s.host.ready ∧ Logs 0x080B s t)) ∧
    (s.dvl.step ≠ 1 → ∃ t, exec (.firmwareBootDone (some b)) s = .next t ∧ UnitsKept s t) ∧
    (s.dvl.step = 2 →
      let fails := r.wireFail = true ∨ ∃ e ∈ laneTable r, 2 < e.2.length
      (fails → ∃ t, exec (.packageSelfTestDone r) s = .next t ∧ t.dvl.step = 15 ∧ t.dvl.outCause = 2 ∧ Logs 0x080B s t) ∧
      (¬ fails → ∃ t, exec (.packageSelfTestDone r) s = .next t ∧ t.dvl.step = 3 ∧ t.dbg.lanes = laneTable r ∧
        t.pkg.selfTested = true ∧ recSeq t 0x0003 = recSeq s 0x0003 + 1)) ∧
    (s.dvl.step ≠ 2 → ∃ t, exec (.packageSelfTestDone r) s = .next t ∧ UnitsKept s t)) ∧
  (∀ (b : Fin 104) (w : Fin 34) (s : State), s.pwr.state = .active → w.val ∉ tget [] s.dbg.lanes b →
    ((tget [] s.dbg.lanes b).length < 2 → ∃ t, exec (.wavelengthFail b w) s = .next t ∧
      tget [] t.dbg.lanes b = tget [] s.dbg.lanes b ++ [w.val] ∧
      (∀ c : Nat, c ≠ b.val → tget [] t.dbg.lanes c = tget [] s.dbg.lanes c) ∧ (w.val < 32 → Logs 0x0B03 s t) ∧
      UnitsKept s t) ∧
    (2 ≤ (tget [] s.dbg.lanes b).length → ∃ t, exec (.wavelengthFail b w) s = .next t ∧ t.dbg.lanes = s.dbg.lanes ∧
      (s.jig.running = true → t.pkg.resetDue = true ∧ t.jig = s.jig ∧ t.mem = s.mem) ∧
      (s.jig.running = false → t.dvl.step = 1 ∧ t.host.ready = false ∧ t.host.outst = [] ∧ t.vnr = State.reset.vnr)))

/-- Budgets (R418): after BUDGET_CYCLE the budgets of the nine dies never sum above the limit in force, whatever the
dies report and held before; PWR_LIMIT itself stays. Dies between budgets (R413, R419-R421): 150 µs without a budget
leaves the lower of the last budget and the floor; a hot die steps down by 25 MHz; a die with no program now and none
within 200 µs naps, any other does not, and a woken one naps no more; below 41 V the limit falls by 10 % per volt, and
from 41 V on it stands whole. -/
def Obligations.BudgetsAndDiesKeepTheirLimits : Prop :=
  (∀ (reports : List DieReport) (s : State),
    let lim := match s.pwr.inputCut with
      | some c => min s.pwr.limit c
      | none => s.pwr.limit
    ∃ t, exec (.budgetCycle reports) s = .next t ∧
      ((List.range 9).map fun d => (dieOf t d).budget).sum ≤ lim ∧ t.pwr.limit = s.pwr.limit ∧ t.mem = s.mem ∧
      t.tile = s.tile ∧ s.now + 50000 ≤ t.now) ∧
  (∀ (s : State) (d : Fin 9) (c : Fin 4) (tj cv : Nat),
    (∃ t, exec (.budgetTimeout d) s = .next t ∧ (dieOf t d).budget = min (dieOf s d).budget (dieOf s d).floorW ∧
      (dieOf s d).lastBudget + 150000 ≤ t.now ∧ t.mem = s.mem) ∧
    (1020 ≤ tj → 16 < (dieOf s c).clock → ∃ t, exec (.thermalThrottleStep c tj) s = .next t ∧
      (dieOf t c).clock = (dieOf s c).clock - 1 ∧ (dieOf t c).hot = true ∧ (dieOf t c).tj = tj ∧ t.mem = s.mem) ∧
    (∃ t, exec (.dieNapEntry c) s = .next t ∧ t.tile = s.tile ∧ t.mem = s.mem ∧
      let idle := s.pwr.state = .active ∧ (∀ e ∈ s.tile.tiles, e.1 / 64 = c.val → e.2.prog = none) ∧
        programSoon c s = false
      (idle → (dieOf t c).nap = true) ∧ (¬ idle → (dieOf t c).nap = (dieOf s c).nap)) ∧
    (∃ t, exec (.dieWake c) s = .next t ∧ (dieOf t c).nap = false ∧ (dieOf t c).clock = (dieOf s c).clock ∧
      t.tile = s.tile ∧ t.mem = s.mem) ∧
    ∃ t, exec (.inputBelow41v cv) s = .next t ∧ t.pwr.volts = cv ∧ t.pwr.limit = s.pwr.limit ∧
      (cv < 4100 → t.pwr.inputCut = some (3600 - 360 * (4100 - cv) / 100)) ∧ (4100 ≤ cv → t.pwr.inputCut = none))

/-- The shim planner (R422, R423): in ACTIVE a run, or PWR.REPLAN, writes the next record and makes a plan. With no bank
running the plan is in use at once, with EV_MARGIN_REPLANNED; with one running it waits, the old one staying in use. From
a plan within the limits of R423 every value of the new one is within them, whatever was measured; but for the first run
since a wake no guard band falls and no flash limit rises. A need beyond a limit is reported with EV_MARGIN_CRITICAL.
PWR.REPLAN answers the record's number, and outside ACTIVE is S_PWR_STATE; there a run does nothing. -/
def Obligations.ShimPlansStayWithinLimits : Prop :=
  let within (q : ShimPlan) : Prop := (∀ d : Nat, d < 4 → 15 ≤ q.guardBand.getD d 0 ∧ q.guardBand.getD d 0 ≤ 60) ∧
    48 ≤ q.corrBits ∧ q.corrBits ≤ 96 ∧ 2 ≤ q.retryLevel ∧ q.retryLevel ≤ 5 ∧ 30 ≤ q.retentionDays ∧
    q.retentionDays ≤ 90 ∧ 1 ≤ q.calPeriodMs ∧ q.calPeriodMs ≤ 4 ∧ (∀ e ∈ q.laserCeil, 100 ≤ e.2 ∧ e.2 ≤ 130) ∧
    20 ≤ q.eyeMargin ∧ q.eyeMargin ≤ 50
  ∀ (m : ShimMeasure) (src : Src) (p : Bytes) (s : State),
    let old := s.pwr.nextPlan.getD s.pwr.plan
    let planned (t : State) : Prop := recSeq t 0x0004 = recSeq s 0x0004 + 1 ∧ t.pwr.shimSeq = recSeq t 0x0004 ∧
      t.tile = s.tile ∧ (beyond m ≠ [] → Logs 0x0A05 s t) ∧
      ∃ q, (s.jig.running = false → t.pwr.plan = q ∧ t.pwr.nextPlan = none ∧ Logs 0x0A04 s t) ∧
        (s.jig.running = true → t.pwr.nextPlan = some q ∧ t.pwr.nextPlanSeq = recSeq t 0x0004 ∧
          t.pwr.plan = s.pwr.plan) ∧
        (within old → within q) ∧
        (s.pwr.planAtWake = false → q.corrBits ≤ old.corrBits ∧ q.retryLevel ≤ old.retryLevel ∧
          q.retentionDays ≤ old.retentionDays ∧ ∀ d : Nat, d < 4 → old.guardBand.getD d 0 ≤ q.guardBand.getD d 0)
    (s.pwr.state = .active → ∃ t, exec (.shimPlannerRun m) s = .next t ∧ planned t) ∧
    (s.pwr.state ≠ .active → ∃ t, exec (.shimPlannerRun m) s = .next t ∧ UnitsKept s t) ∧
    (Starts ⟨src, 0x0A04, .pwrReplan src p m, true, [(0, 48)], p⟩ s →
      (s.pwr.state = .active → ∃ t, exec (.pwrReplan src p m) s = .next t ∧ planned t ∧
        Answered src sOk [t.pwr.shimSeq % 2 ^ 32, t.pwr.shimSeq / 2 ^ 32 % 2 ^ 32] s t) ∧
      (s.pwr.state ≠ .active → ∃ t, exec (.pwrReplan src p m) s = .next t ∧ Answered src 0x0A01 [] s t ∧ UnitsKept s t))

/-- Power commands (R410, R411, R415, R426). PWR.STATE with a limit of 1,500 to 3,600 W, or 0 for the one in force, sets
it. To the state the module is in, it is done. To ACTIVE from SLEEP, or from DEEP with the flow back, it begins the wake
and waits; behind a latch it is S_PWR_LATCHED but for the sideband once every latched condition has cleared, which clears
the latches; from DEEP to SLEEP, from DEEP without the flow, or with contexts that run and no force, it is S_PWR_STATE.
To SLEEP or DEEP otherwise it begins the entry, at the next frame boundary of a running bank and else at once, where a
forced one has ended every context, and waits. Any other target, flag or limit is S_BAD_FIELD. PWR.ALARM sets an alarm of
the future, or none, and refuses a past one. PWR.QUERY answers state, last wake, draw, limit and latches. -/
def Obligations.PowerCommandsAct : Prop :=
  ∀ (src : Src) (p : Bytes) (s : State),
    (Starts ⟨src, 0x0A01, .pwrState src p, true, [(2, 2), (8, 40)], p⟩ s →
      let target := getLE p 0 1
      let force := bit (getLE p 1 1) 0
      let limit := if getLE p 4 4 = 0 then s.pwr.limit else getLE p 4 4
      let fine := target ≤ 2 ∧ getLE p 1 1 ≤ 1 ∧ (getLE p 4 4 = 0 ∨ 1500 ≤ getLE p 4 4 ∧ getLE p 4 4 ≤ 3600)
      let answers (st : Nat) : Prop := ∃ t, exec (.pwrState src p) s = .next t ∧ Answered src st [] s t ∧
        t.pwr = { s.pwr with limit := limit } ∧ UnitsKept { s with pwr := t.pwr } t
      let blocked := s.pkg.latches ≠ [] ∧
        (src.issuer ≠ .sideband ∨ ∃ r ∈ s.pkg.latches, r ∈ s.pkg.holding)
      let busy := ∃ e ∈ s.vnr.ctxs, activeCtx e.2 = true
      (¬ fine → ∃ t, exec (.pwrState src p) s = .next t ∧ Answered src sBadField [] s t ∧ UnitsKept s t) ∧
      (fine →
        (target = 0 → s.pwr.state = .active → answers sOk) ∧
        (target = 1 → s.pwr.state = .sleep → answers sOk) ∧
        (target = 2 → s.pwr.state = .deep → answers sOk) ∧
        (target = 1 → s.pwr.state = .deep → answers 0x0A01) ∧
        (target = 0 → s.pwr.state = .sleep ∨ s.pwr.state = .deep →
          (blocked → answers 0x0A02) ∧
          (¬ blocked → s.pwr.state = .deep → s.pkg.flowOk = false → answers 0x0A01) ∧
          (¬ blocked → s.pwr.state = .sleep ∨ s.pkg.flowOk = true → s.pwr.entering = none →
            ∃ t, exec (.pwrState src p) s = .next t ∧ Waits src (.pwrState 0) t ∧ t.pwr.waking = true ∧
              t.pkg.latches = [] ∧ t.pwr.limit = limit ∧ t.mem = s.mem)) ∧
        ((target = 1 ∧ s.pwr.state = .active) ∨ (target = 2 ∧ (s.pwr.state = .active ∨ s.pwr.state = .sleep)) →
          (busy → force = false → answers 0x0A01) ∧
          (¬ busy ∨ force = true →
            let entry : Option (PowerState × Bool) := some (if target = 1 then .sleep else .deep, true)
            ∃ t, exec (.pwrState src p) s = .next t ∧ Waits src (.pwrState target) t ∧ t.pwr.limit = limit ∧
              (s.jig.running = true → s.pwr.state = .active → t.pwr.entryDue = entry ∧ t.vnr = s.vnr) ∧
              (s.jig.running = false ∨ s.pwr.state = .sleep → t.pwr.entering = entry ∧
                ∀ c, activeCtx (ctxOf t c) = false))))) ∧
    (Starts ⟨src, 0x0A02, .pwrAlarm src p, true, [(8, 40)], p⟩ s →
      (logTime s < getLE p 0 8 ∨ getLE p 0 8 = 0 → ∃ t, exec (.pwrAlarm src p) s = .next t ∧ Answered src sOk [] s t ∧
        t.pwr = { s.pwr with alarm := getLE p 0 8 }) ∧
      (getLE p 0 8 ≠ 0 → getLE p 0 8 ≤ logTime s → ∃ t, exec (.pwrAlarm src p) s = .next t ∧
        Answered src sBadField [] s t ∧ UnitsKept s t)) ∧
    (Starts ⟨src, 0x0A03, .pwrQuery src p, false, [(0, 48)], p⟩ s → ∃ t, exec (.pwrQuery src p) s = .next t ∧
      Answered src sOk [pwrStatus s, s.pwr.lastWake, s.pwr.draw, s.pwr.limit, latchBits s] s t ∧ UnitsKept s t)

/-- Entries and wakes (R34, R318, R410, R412, R415-R417, R437). POWER_STATE_REACHED ends an entry: to SLEEP, where
contexts, banks, tiles and objects stay and time is not locked; or to DEEP, where the bank and the tiles are gone, SCRATCH
objects too, and PERSISTENT ones come back with their content after an entry on command, which has written it, and with
their durable content after a protective one; an entry on command has written block map and summary too. An enabled source
wakes a module without a latch that is asleep, or in DEEP with the flow back, with its cause bit in LAST_WAKE; a disabled
one does not, and a latch blocks every source but the sideband's. The alarm fires once. WAKE_COMPLETE brings the module to
ACTIVE and answers the PWR.STATE that waits (no command being held); after DEEP the firmware runs again where the self-test
has passed, and else the start sequence begins; a module that is OUT stays so. -/
def Obligations.SleepAndWake : Prop :=
  (∀ (planned : Bool) (s : State),
    let done (t : State) : Prop := t.pwr.entering = none ∧ t.dvl.locked = false ∧ Logs 0x0A01 s t ∧
      (∀ w ∈ s.host.outst, w.wait = .pwrState 1 ∨ w.wait = .pwrState 2 → Answered w.src sOk [] s t) ∧
      (planned = true → recSeq t 7 = recSeq s 7 + 1 ∧ recSeq t 5 = recSeq s 5 + 1)
    (s.pwr.entering = some (.sleep, planned) → ∃ t, exec .powerStateReached s = .next t ∧ t.pwr.state = .sleep ∧ done t ∧
      t.jig = { s.jig with paused := s.jig.running } ∧ t.mem.objs = s.mem.objs ∧ t.tile = s.tile ∧ t.vnr = s.vnr ∧
      t.mq = s.mq) ∧
    (s.pwr.entering = some (.deep, planned) → ∃ t, exec .powerStateReached s = .next t ∧ t.pwr.state = .deep ∧ done t ∧
      t.pkg.rails = false ∧ t.jig.running = false ∧ t.jig.bank0 = [] ∧ t.jig.bank1 = [] ∧ t.tile.tiles = [] ∧
      t.tile.store = [] ∧ ∀ h o, findObj s h = some o →
        (o.scratch = true → findObj t h = none) ∧
        (o.scratch = false → ∃ o', findObj t h = some o' ∧ o'.state = .flash ∧
          o'.mem = if planned then o.mem else o.durable))) ∧
  (∀ (h : Fin 4) (f : Fin 64) (pme : Bool) (o : LinkOffer) (a b : Nat) (s : State),
    let ready := s.pwr.state = .sleep ∨ (s.pwr.state = .deep ∧ s.pkg.flowOk = true)
    (ready → s.pkg.latches = [] → s.pwr.entering = none → s.pwr.waking = false →
      (bit s.pwr.wakeEn.toNat (8 + h) = true → ∃ t, exec (.l1Exit h) s = .next t ∧ t.pwr.waking = true ∧
        t.pwr.lastWake = 2 ^ (8 + h.val) ∧ Logs 0x0A06 s t ∧ t.mem = s.mem) ∧
      (bit s.pwr.wakeEn.toNat (8 + h) = false → ∃ t, exec (.l1Exit h) s = .next t ∧ t.pwr.waking = false) ∧
      (bit s.pwr.wakeEn.toNat 0 = true → s.pwr.alarm ≠ 0 → ∃ t, exec .rtcAlarm s = .next t ∧ t.pwr.alarm = 0 ∧
        t.pwr.waking = true ∧ t.pwr.lastWake = 1 ∧ s.pwr.alarm ≤ t.pwr.rtc ∧ t.mem = s.mem)) ∧
    (s.pwr.alarm = 0 → ∃ t, exec .rtcAlarm s = .next t ∧ UnitsKept s t) ∧
    (s.pkg.latches ≠ [] → ∀ c ∈ [Instr.l1Exit h, .rtcAlarm, .comparatorClear a b, .perstDeassert h o,
      .dStateChange f .d0 pme], ∃ t, exec c s = .next t ∧ t.pwr.waking = s.pwr.waking ∧ t.pwr.state = s.pwr.state)) ∧
  (∀ s : State,
    (s.pwr.waking = true → s.pwr.entering = none → (∀ o ∈ s.host.outst, o.wait ≠ .held) →
      ∃ t, exec .wakeComplete s = .next t ∧ t.pwr.state = .active ∧ t.pwr.waking = false ∧ t.mem.objs = s.mem.objs ∧
        t.tile = s.tile ∧ Logs 0x0A01 s t ∧ (s.dvl.step = 15 → t.dvl.step = 15) ∧
        (s.pwr.state = .deep → s.pkg.selfTested = true → t.host.ready = true ∧ (s.dvl.step ≠ 15 → t.dvl.step = 6)) ∧
        (s.pwr.state = .deep → s.pkg.selfTested = false → s.dvl.step ≠ 15 → t.dvl.step = 1) ∧
        ∀ w ∈ s.host.outst, w.wait = .pwrState 0 → Answered w.src sOk [] s t) ∧
    (s.pwr.waking = false ∨ s.pwr.entering ≠ none → (∀ o ∈ s.host.outst, o.wait ≠ .held) →
      ∃ t, exec .wakeComplete s = .next t ∧ UnitsKept s t))

/-- The I3C bus and the vendor messages (R23, R35, R424): from PWR_GOOD on, SETDASA to the static address 0x2C and ENTDAA
give an unaddressed module its address, and no other does; HDR is ignored until the exit pattern that the next message
shows; ALERT_READ answers the rows held since the last read and lets ALERT# go once none holds; an unknown vendor message
is answered with error code 1. Before PWR_GOOD none does anything. The sideband's WAKE (R34, R416): it wakes a module
asleep, or in DEEP with the flow back, and clears the latches once every latched condition has cleared; while one still
holds, or without the flow, it is refused. That a module with a latch waits for the flow too is the model's choice (log
entry 94). -/
def Obligations.SidebandBusAndWakeMessages : Prop :=
  (∀ (d : Dasa) (a code : Nat) (s : State),
    (s.pkg.pwrGood = true →
      (s.pkg.i3cAddr = none →
        (d.static = 0x2C → ∃ t, exec (.setdasa d) s = .next t ∧ t.pkg.i3cAddr = some d.addr ∧ UnitsKept s t) ∧
        (d.static ≠ 0x2C → ∃ t, exec (.setdasa d) s = .next t ∧ t.pkg.i3cAddr = none ∧ UnitsKept s t) ∧
        ∃ t, exec (.entdaa a) s = .next t ∧ t.pkg.i3cAddr = some a ∧ UnitsKept s t) ∧
      (s.pkg.i3cAddr ≠ none → ∀ c ∈ [Instr.setdasa d, .entdaa a], ∃ t, exec c s = .next t ∧
        t.pkg.i3cAddr = s.pkg.i3cAddr ∧ UnitsKept s t) ∧
      (∃ t, exec .hdrEntry s = .next t ∧ t.pkg.hdrIgnore = true ∧ UnitsKept s t) ∧
      (∃ t, exec .alertRead s = .next t ∧ t.pkg.alertStatus = [] ∧ t.pkg.hdrIgnore = false ∧ UnitsKept s t ∧
        Sends (.sideband (.alert (alertBits s))) s t ∧ (s.pkg.holding = [] → t.pkg.alert = false)) ∧
      ∃ t, exec (.unknownVendorMessage code) s = .next t ∧ Sends (.sideband (.vendorError 1)) s t ∧ UnitsKept s t) ∧
    (s.pkg.pwrGood = false → ∀ c ∈ [Instr.setdasa d, .entdaa a, .hdrEntry, .alertRead, .unknownVendorMessage code, .wake],
      ∃ t, exec c s = .next t ∧ t.pkg.i3cAddr = s.pkg.i3cAddr ∧ t.pkg.alertStatus = s.pkg.alertStatus ∧
        t.pkg.hdrIgnore = s.pkg.hdrIgnore ∧ t.out = s.out ∧ UnitsKept s t)) ∧
  (∀ s : State, s.pkg.pwrGood = true → s.pwr.state = .sleep ∨ s.pwr.state = .deep →
    let free := (∀ r ∈ s.pkg.latches, r ∉ s.pkg.holding) ∧ (s.pwr.state = .deep → s.pkg.flowOk = true)
    (free → s.pwr.entering = none → ∃ t, exec .wake s = .next t ∧ t.pkg.latches = [] ∧ t.pwr.waking = true ∧
      Sends (.sideband (.woken true)) s t ∧ t.mem = s.mem) ∧
    (¬ free → ∃ t, exec .wake s = .next t ∧ t.pkg.latches = s.pkg.latches ∧ Sends (.sideband (.woken false)) s t ∧
      UnitsKept s t))

/-- BUROS (R425): a command that spells IDENTIFY is answered on the sideband, and OWNER.SET, which only the owner may,
takes effect in ACTIVE: sideband commands have owner rights. The 17th outstanding command is answered S_BUSY, and an entry
that fails R398 S_BAD_PACKET; neither touches a unit. (No command is held, the entry has no fence or nothing before it,
and no firmware hold has begun.) -/
def Obligations.BurosRunsHostCommands : Prop :=
  ∀ (e : Bytes) (data : Option Bytes) (s : State), s.pkg.pwrGood = true →
    let mine := (s.host.outst.filter fun o => o.src.issuer == .sideband).length
    (16 ≤ mine → ∃ t, exec (.buros e data) s = .next t ∧
      Sends (.sideband (.completion sBusy (getLE e 4 2) [])) s t ∧ UnitsKept s t) ∧
    (mine < 16 → packetPasses s .sideband e = false → ∃ t, exec (.buros e data) s = .next t ∧
      Sends (.sideband (.completion sBadPacket (getLE e 4 2) [])) s t ∧ UnitsKept s t) ∧
    (mine < 16 → packetPasses s .sideband e = true → (packetSrc .sideband e).ctx = none →
      bit (getLE e 2 1) 0 = false ∨ mine = 0 → (∀ a, s.host.fwAct = some a → a.holdFrom = none) →
      (∀ o ∈ s.host.outst, o.wait ≠ .held) →
      (getLE e 0 2 = 0x0101 → zeroAt (packetParams e) [(8, 40)] = true → ∃ t, exec (.buros e data) s = .next t ∧
        UnitsKept s t ∧ Sends (.sideband (.completion sOk (getLE e 4 2) [0x00435531, s.host.fwVersion,
          s.dvl.serial % 2 ^ 32, s.dvl.serial / 2 ^ 32 % 2 ^ 32, idReg s s.host.ownerPf 0x18, installId s])) s t) ∧
      (getLE e 0 2 = 0x0109 → zeroAt (packetParams e) [(1, 47)] = true → s.pwr.state = .active →
        getLE (packetParams e) 0 1 ∈ [0, 16, 32, 48] → ∃ t, exec (.buros e data) s = .next t ∧ UnitsKept s t ∧
          t.host.ownerPf = getLE (packetParams e) 0 1 ∧
          Sends (.sideband (.completion sOk (getLE e 4 2) [])) s t))

/-- MCTP control (R424): SET_ENDPOINT_ID sets the endpoint ID that GET_ENDPOINT_ID answers; the message types are PLDM
and vendor-defined PCI beside control; version support answers for the type asked. PLDM (R424): the types are 0 and 2;
a numeric sensor answers what it measures, the leak, power-state and latch sensors what the module holds, and any other
number is an error; effecter 0x0100 reads and, within 1,500 to 3,600 W, sets PWR_LIMIT, any other value or number being
an error that sets nothing; the event receiver is set; the oldest platform event leaves by In-Band Interrupt, but not
while the module has no address or ignores the bus (R22, R23); and any other command is an error. PLDM contents that the
spec does not state (the model's free values, log entry 75): each of these messages is answered, begins with what was
asked, and changes no unit. -/
def Obligations.MctpAndPldmAnswer : Prop :=
  (∀ (eid n : Nat) (s : State), s.pkg.pwrGood = true →
    (∃ t, exec (.setEndpointId eid) s = .next t ∧ t.pkg.eid = eid ∧ Sends (.sideband (.mctp [0, eid])) s t ∧
      UnitsKept s t) ∧
    (∃ t, exec .getEndpointId s = .next t ∧ Sends (.sideband (.mctp [0, s.pkg.eid])) s t ∧ UnitsKept s t) ∧
    (∃ t, exec .getMessageTypeSupport s = .next t ∧ Sends (.sideband (.mctp [0, 0x00, 0x01, 0x7E])) s t ∧
      UnitsKept s t) ∧
    (∃ t v, exec (.getMctpVersionSupport n) s = .next t ∧ Sends (.sideband (.mctp [0, n, v])) s t ∧ UnitsKept s t) ∧
    ∃ t v, exec (.getVendorDefinedMsgSupport n) s = .next t ∧ Sends (.sideband (.mctp [0, n, v])) s t ∧ UnitsKept s t) ∧
  (∀ (n m : Nat) (s : State), s.pkg.pwrGood = true →
    let sensor := (1 ≤ n ∧ n ≤ 5) ∨ (0x10 ≤ n ∧ n ≤ 0x18) ∨ (0x20 ≤ n ∧ n ≤ 0x45)
    let errs (c : Instr) : Prop := ∃ t, exec c s = .next t ∧ (∃ code, Sends (.sideband (.pldmError code)) s t) ∧
      UnitsKept s t
    (∃ t, exec .getpldmtypes s = .next t ∧ Sends (.sideband (.pldm [0, 2])) s t ∧ UnitsKept s t) ∧
    (sensor → ∃ t, exec (.getsensorreading n m) s = .next t ∧ Sends (.sideband (.pldm [n, m])) s t ∧ UnitsKept s t) ∧
    (¬ sensor → errs (.getsensorreading n m)) ∧
    (∃ t, exec (.getstatesensorreadings 0x0006) s = .next t ∧ UnitsKept s t ∧
      Sends (.sideband (.pldm [0x0006, if s.pkg.leakWet then 1 else 0])) s t) ∧
    (∃ t, exec (.getstatesensorreadings 0x0050) s = .next t ∧ UnitsKept s t ∧
      Sends (.sideband (.pldm [0x0050, pwrCode s])) s t) ∧
    (∃ t, exec (.getstatesensorreadings 0x0051) s = .next t ∧ UnitsKept s t ∧
      Sends (.sideband (.pldm [0x0051, latchBits s])) s t) ∧
    (n ∉ [0x0006, 0x0050, 0x0051] → errs (.getstatesensorreadings n)) ∧
    (∃ t, exec (.getnumericeffectervalue 0x0100) s = .next t ∧ UnitsKept s t ∧
      Sends (.sideband (.pldm [0x0100, s.pwr.limit])) s t) ∧
    (n ≠ 0x0100 → errs (.getnumericeffectervalue n) ∧ errs (.setnumericeffectervalue n m)) ∧
    (1500 ≤ n → n ≤ 3600 → ∃ t, exec (.setnumericeffectervalue 0x0100 n) s = .next t ∧
      t.pwr = { s.pwr with limit := n } ∧ Sends (.sideband (.pldm [0x0100])) s t ∧ t.mem = s.mem ∧ t.tile = s.tile) ∧
    (n < 1500 ∨ 3600 < n → errs (.setnumericeffectervalue 0x0100 n)) ∧
    (∃ t, exec (.seteventreceiver n) s = .next t ∧ t.pkg.eventReceiver = some n ∧ Sends (.sideband (.pldm [n])) s t ∧
      UnitsKept s t) ∧
    (∀ c r, s.pkg.ibiQueue = c :: r →
      (s.pkg.i3cAddr.isSome = true → s.pkg.hdrIgnore = false → ∃ t, exec .platformeventmessage s = .next t ∧
        Sends (.sideband (.ibi c)) s t ∧ t.pkg.ibiQueue = r ∧ UnitsKept s t) ∧
      (s.pkg.i3cAddr = none ∨ s.pkg.hdrIgnore = true → ∃ t, exec .platformeventmessage s = .next t ∧ t.out = s.out ∧
        t.pkg.ibiQueue = c :: r ∧ UnitsKept s t)) ∧
    errs (.unsupportedPldmCmd n m)) ∧
  (∀ (n : Nat) (s : State), s.pkg.pwrGood = true →
    (∃ t v, exec .gettid s = .next t ∧ Sends (.sideband (.pldm [v])) s t ∧ UnitsKept s t) ∧
    (∃ t v, exec (.getpldmversion n) s = .next t ∧ Sends (.sideband (.pldm [n, v])) s t ∧ UnitsKept s t) ∧
    (∃ t v, exec (.getpldmcommands n) s = .next t ∧ Sends (.sideband (.pldm [n, v])) s t ∧ UnitsKept s t) ∧
    (∃ t v, exec .getpdrrepositoryinfo s = .next t ∧ Sends (.sideband (.pldm [v])) s t ∧ UnitsKept s t) ∧
    ∃ t v, exec (.getpdr n) s = .next t ∧ Sends (.sideband (.pldm [n, v])) s t ∧ UnitsKept s t)

/-! ### The jig (chapter 7) -/

/-- JIG.LOAD (R208, R223): an image that fails a check is answered with the status of the first that fails and the offset
of the failing field, and the shadow bank stays, emptied first where the clear flag says so; an image that passes stands at
its cycle position of the shadow bank, every other position as it was, answered with its number of entries. A rsvd flag is
S_BAD_FIELD, a pending switch S_JIG_PENDING, and an object that the issuer may not read is refused with its own status, the
shadow bank unchanged. The active bank is never disturbed. -/
def Obligations.JigLoadFillsTheShadowBank : Prop :=
  ∀ (src : Src) (p : Bytes) (s : State),
    let i : CmdInfo := ⟨src, 0x0201, .jigLoad src p, true, [(9, 39)], p⟩
    let flags := getLE p 8 1
    let refused (st : Nat) : Prop := ∃ t, exec (.jigLoad src p) s = .next t ∧ Answered src st [] s t ∧ UnitsKept s t
    Starts i s →
      (1 < flags → refused sBadField) ∧
      (flags ≤ 1 → s.jig.pend ≠ none → refused 0x0207) ∧
      (flags ≤ 1 → s.jig.pend = none →
        (∀ st, cmdObj s src (getLE p 0 8) 1 = .error st → refused st) ∧
        ∀ o, cmdObj s src (getLE p 0 8) 1 = .ok o →
          let b := objRead o 0 o.size
          let u := if flags = 1 then discardShadow (enlist i s) else enlist i s
          ∃ t, exec (.jigLoad src p) s = .next t ∧ activeBank t = activeBank s ∧ t.jig.running = s.jig.running ∧
            t.jig.pend = none ∧ t.jig.rows = s.jig.rows ∧ (flags = 1 → shadowBank u = []) ∧
            (flags = 0 → shadowBank u = shadowBank s) ∧
            (∀ st off, loadFault u (shadowBank u) b o.size = some (st, off) →
              Answered src st [0, off] s t ∧ shadowBank t = shadowBank u) ∧
            (loadFault u (shadowBank u) b o.size = none →
              Answered src sOk [imgEntries b, 0] s t ∧ tget [] (shadowBank t) (imgPos b) = b.take (imgLen b) ∧
              ∀ k, k ≠ imgPos b → tget [] (shadowBank t) k = tget [] (shadowBank u) k))

/-- JIG.SWITCH (R220, R223): with none pending, a switch that passes its checks is pending for its time T and waits, and one
that fails is answered with the status of the first that fails; while one is pending it is answered S_JIG_PENDING, and a
rsvd flag S_BAD_FIELD. JIG.DISCARD (R222, R223) empties the shadow bank and leaves the active one, or is answered
S_JIG_PENDING while a switch is pending. JIG.QUERY (R223) answers JIG_STATUS and bits [63:0] of the active bank's digest, 0
with none active, and changes nothing. BANK_SWITCH (R220, R223, R349) with no active bank, here with no context: at T the
shadow bank becomes active with frames counted from 0, the old active bank becomes the shadow, EV_JIG_SWITCHED is raised,
and the command completes with the instant; with the idle flag no bank is active after it. Where fabric time is not locked
or the election has not settled by then, nothing is switched and the command completes with S_JIG_LATE. With no switch
pending, or before an active bank's cycle boundary at or after T, nothing happens. -/
def Obligations.JigBanksAreManagedAndSwitched : Prop :=
  (∀ (src : Src) (p : Bytes) (s : State),
    let refused (c : Instr) (st : Nat) : Prop := ∃ t, exec c s = .next t ∧ Answered src st [] s t ∧ UnitsKept s t
    (Starts ⟨src, 0x0202, .jigSwitch src p, true, [(9, 39)], p⟩ s →
      let idle := bit (getLE p 8 1) 0
      (1 < getLE p 8 1 → refused (.jigSwitch src p) sBadField) ∧
      (getLE p 8 1 ≤ 1 → s.jig.pend ≠ none → refused (.jigSwitch src p) 0x0207) ∧
      (getLE p 8 1 ≤ 1 → s.jig.pend = none →
        (∀ st, switchFault s (getLE p 0 8) idle = some st → refused (.jigSwitch src p) st) ∧
        (switchFault s (getLE p 0 8) idle = none → ∃ t, exec (.jigSwitch src p) s = .next t ∧ Waits src .jigSwitch t ∧
          t.jig = { s.jig with pend := some ⟨getLE p 0 8, idle, some src⟩ } ∧ t.mem = s.mem ∧ t.mq = s.mq ∧
          t.vnr = s.vnr ∧ t.tile = s.tile ∧ t.glu = s.glu ∧ t.dvl = s.dvl ∧ t.ckp = s.ckp ∧ t.pwr = s.pwr))) ∧
    (Starts ⟨src, 0x0203, .jigDiscard src p, true, [(0, 48)], p⟩ s →
      (s.jig.pend = none → ∃ t, exec (.jigDiscard src p) s = .next t ∧ Answered src sOk [] s t ∧ shadowBank t = [] ∧
        activeBank t = activeBank s ∧ t.jig.running = s.jig.running ∧ t.tile = s.tile ∧ t.mq = s.mq ∧ t.vnr = s.vnr) ∧
      (s.jig.pend ≠ none → refused (.jigDiscard src p) 0x0207)) ∧
    (Starts ⟨src, 0x0204, .jigQuery src p, false, [(0, 48)], p⟩ s →
      ∃ t, exec (.jigQuery src p) s = .next t ∧ UnitsKept s t ∧ Answered src sOk
        (jigStatus s :: words64 (if s.jig.running then bankDigest (activeBank s) else 0)) s t)) ∧
  (∀ s : State,
    (s.jig.pend = none ∨ (s.jig.running = true ∧ switchDue s = none) → ∃ t, exec .bankSwitch s = .next t ∧ UnitsKept s t) ∧
    ∀ q, s.jig.pend = some q → s.jig.running = false →
      (mayStart s = true → s.vnr.ctxs = [] → ∃ t, exec .bankSwitch s = .next t ∧ t.jig.pend = none ∧
        t.jig.running = !q.idle ∧ t.jig.activeNo = (if q.idle then s.jig.activeNo else 1 - s.jig.activeNo) ∧
        t.jig.frame = 0 ∧ t.jig.pos = 0 ∧ t.jig.visit = 0 ∧ t.jig.ts = max s.now q.t ∧ t.jig.bank0 = s.jig.bank0 ∧
        t.jig.bank1 = s.jig.bank1 ∧ t.now = max s.now q.t ∧ t.tile = s.tile ∧ Logs 0x0203 s t ∧
        ∀ o ∈ s.host.outst, o.wait = .jigSwitch → Answered o.src sOk (words64 (max s.now q.t)) s t) ∧
      (mayStart s = false → ∃ t, exec .bankSwitch s = .next t ∧ t.jig = { s.jig with pend := none } ∧ t.mem = s.mem ∧
        t.tile = s.tile ∧ t.vnr = s.vnr ∧ ∀ o ∈ s.host.outst, o.wait = .jigSwitch → Answered o.src 0x0208 [] s t))

/-- FRAME_BOUNDARY (R196, R221, R222) of a running bank, here with no context, job or capture and nothing else due: the next
frame begins at its instant, at its place in the cycle; where a switch is due at that boundary, the shadow bank is active
from frame 0 instead, and BANK_SWITCH there does the same. Object content, queues' entries and tiles stay, revoked grants
end, and no row has a context; a module that runs no slots gives no row. With no active bank no frame is counted. Filling
the rows (R209, R213): a context holds at most one row of the frame, and it is one that a commit for this frame lists for
that row; it was ADMITTED or RUNNING, and is RUNNING. CAL_WINDOW (R206): in a quiet interval into which no program has
overrun, all channels calibrate for 200 ns and the next window is due one calibration period after this one; else it is
put off. DEADLINE_RISK_TEST (R218): where a test is due it clears that, and in no case does it move a slot, a row or a
context, or touch data. -/
def Obligations.FramesBeginAndChannelsCalibrate : Prop :=
  (∀ s : State,
    (s.jig.running = false → ∃ t, exec .frameBoundary s = .next t ∧ UnitsKept s t) ∧
    (s.jig.running = true → s.dvl.holdDue = false → s.dvl.holdEnd = false → s.pkg.resetDue = false → s.pwr.entryDue = none →
      s.vnr.ctxs = [] → s.vnr.jobs = [] → s.ckp.captures = [] → s.ckp.rollbacks = [] →
      let kept (t : State) : Prop := t.jig.bank0 = s.jig.bank0 ∧ t.jig.bank1 = s.jig.bank1 ∧ t.tile = s.tile ∧
        frameStart s (s.jig.frame + 1) ≤ t.now ∧ (∀ r ∈ t.jig.rows, r.2.ctx = none) ∧ (runsSlots s = false → t.jig.rows = []) ∧
        (∀ q, (queueOf t q).entries = (queueOf s q).entries) ∧
        ∀ h o, findObj s h = some o → ∃ o', findObj t h = some o' ∧ o'.mem = o.mem ∧ o'.grants = o.grants ∧ o'.oldGrants = []
      (switchDue s = none → ∃ t, exec .frameBoundary s = .next t ∧ kept t ∧ t.jig.frame = s.jig.frame + 1 ∧
        (t.jig.pos, t.jig.visit) = placeOf (activeBank s) (s.jig.frame + 1) ∧ t.jig.activeNo = s.jig.activeNo) ∧
      ∀ q, switchDue s = some q → ∀ c ∈ [Instr.frameBoundary, .bankSwitch], ∃ t, exec c s = .next t ∧ kept t ∧
        t.jig.pend = none ∧ t.jig.running = !q.idle ∧ (q.idle = false → t.jig.activeNo = 1 - s.jig.activeNo) ∧
        t.jig.frame = 0 ∧ t.jig.pos = 0 ∧ t.jig.visit = 0 ∧ Logs 0x0203 s t) ∧
    (∀ t, t = fillRows s →
      (∀ r₁ r₂ c, (rowAt t r₁).ctx = some c → (rowAt t r₂).ctx = some c → r₁ = r₂) ∧
      ∀ r c, (rowAt t r).ctx = some c → (ctxOf t c).state = .running ∧
        ((ctxOf s c).state = .admitted ∨ (ctxOf s c).state = .running) ∧
        ∃ m ∈ s.jig.commits, m.frame = s.jig.frame ∧ ∃ x ∈ m.rows, x.1 = r ∧ c ∈ x.2)) ∧
  (∀ s : State,
    (quietHere s = true → overruns s = false → ∃ t, exec .calWindow s = .next t ∧ t.now = s.now + 200 ∧
      t.mem = { s.mem with nextCal := s.now + s.pwr.plan.calPeriodMs * 1000000 } ∧ t.tile = s.tile ∧ t.jig = s.jig ∧
      t.mq = s.mq) ∧
    (quietHere s = false ∨ overruns s = true → ∃ t, exec .calWindow s = .next t ∧ UnitsKept s t ∧ t.now = s.now) ∧
    (riskDue s = true → ∃ t, exec .deadlineRiskTest s = .next t ∧ t.jig.retest = false ∧ t.jig.rows = s.jig.rows ∧
      t.jig.plans = s.jig.plans ∧ t.jig.commits = s.jig.commits ∧ t.jig.frame = s.jig.frame ∧ t.vnr.ctxs = s.vnr.ctxs ∧
      t.mem = s.mem ∧ t.mq = s.mq ∧ t.tile = s.tile) ∧
    (riskDue s = false → ∃ t, exec .deadlineRiskTest s = .next t ∧ UnitsKept s t))

/-- Programs (R201-R204, R221): at its nominal start an entry's program begins on a free tile of its set, with an empty L1,
or waits behind the tile's earlier programs; it begins when they have completed, where the module runs slots then; a tile
without a program in the slot goes on as it was, and nothing starts on a tile out of the set or on a module that runs no
slots. A program not complete at its nominal start + duration + grace is late, counted once and shown as the latest, and
stays; one that waited for a credit raises EV_MQ_CREDIT_STALL. No other tile is touched. -/
def Obligations.ProgramsStartAndRunLate : Prop :=
  ∀ (entry lateness : Nat) (tile : Fin 256) (s : State),
    let x := tileOf s tile
    let others (t : State) : Prop := (∀ u : Nat, u ≠ tile.val → tileOf t u = tileOf s u) ∧ t.mem = s.mem ∧ t.mq = s.mq ∧
      t.jig.rows = s.jig.rows ∧ t.tile.window = s.tile.window
    (runsSlots s = false → ∃ t, exec (.slotStart entry tile) s = .next t ∧ UnitsKept s t) ∧
    (∀ b, runsSlots s = true → runningImage s = some b →
      let e := imgEntry b entry
      let start := frameStart s s.jig.frame + entStart e
      (imgEntries b ≤ entry ∨ tile.val ∉ tsetTiles b (entTset e) → ∃ t, exec (.slotStart entry tile) s = .next t ∧
        UnitsKept s t) ∧
      (entry < imgEntries b → tile.val ∈ tsetTiles b (entTset e) →
        ∃ t, exec (.slotStart entry tile) s = .next t ∧ start ≤ t.now ∧ others t ∧
          ((progWord b e tile).isSome = true → x.prog = none → (tileOf t tile).prog = some (entry, start, e) ∧
            (tileOf t tile).next = x.next ∧ (tileOf t tile).l1 = []) ∧
          ((progWord b e tile).isSome = true → x.prog ≠ none → (tileOf t tile).prog = x.prog ∧
            ∃ w, (tileOf t tile).next = x.next ++ [w] ∧ (w.entry, w.start, w.desc) = (entry, start, e) ∧
              w.grace = entGrace b e) ∧
          (progWord b e tile = none → (tileOf t tile).prog = x.prog ∧ (tileOf t tile).next = x.next ∧
            t.tile.store = s.tile.store))) ∧
    (∀ w r, x.prog = none → x.next = w :: r →
      (runsSlots s = true → ∃ t, exec (.deferredSlotStart tile) s = .next t ∧ others t ∧
        (tileOf t tile).prog = some (w.entry, w.start, w.desc) ∧ (tileOf t tile).next = r ∧ (tileOf t tile).l1 = [] ∧
        (tileOf t tile).grace = w.grace) ∧
      (runsSlots s = false → ∃ t, exec (.deferredSlotStart tile) s = .next t ∧ UnitsKept s t)) ∧
    (x.prog ≠ none ∨ x.next = [] → ∃ t, exec (.deferredSlotStart tile) s = .next t ∧ UnitsKept s t) ∧
    ∀ credit, (x.prog = none ∨ x.lateSeen = true → ∃ t, exec (.programLate tile lateness credit) s = .next t ∧
        UnitsKept s t) ∧
      ∀ n start e, x.prog = some (n, start, e) → x.lateSeen = false →
        ∃ t, exec (.programLate tile lateness credit) s = .next t ∧ start + entDur e + x.grace ≤ t.now ∧
          t.jig.lateCnt = min (s.jig.lateCnt + 1) 0xFFFF_FFFF ∧ t.jig.latest = (n, tile.val, lateness) ∧
          tileOf t tile = { x with lateSeen := true } ∧ (∀ u : Nat, u ≠ tile.val → tileOf t u = tileOf s u) ∧
          t.mem = s.mem ∧ t.mq.queues = s.mq.queues ∧
          (credit = true → t.mq.stallCnt = min (s.mq.stallCnt + 1) 0xFFFF_FFFF ∧ Logs 0x0303 s t) ∧
          (credit = false → t.mq = s.mq)

/-- Row messages (R211-R213, R222, R341): a plan or commit for a frame to come is taken in place of an earlier one of its
pipeline and frame, one that comes after its frame's boundary is discarded, and a report for f is taken up to the boundary
of f − 3 and counts for nothing later; a second copy of a message changes nothing. -/
def Obligations.RowMessagesAreTakenInTime : Prop :=
  ∀ (h : MsgHdr) (m : RowMsg) (r : ReadyMsg) (s : State),
    (IsNew h s →
      (s.jig.frame < m.frame →
        (∃ t, exec (.rowPlan h m) s = .next t ∧ m ∈ t.jig.plans ∧ t.jig.commits = s.jig.commits ∧
          ∀ x ∈ t.jig.plans, x.pipeline = m.pipeline → x.frame = m.frame → x = m) ∧
        ∃ t, exec (.rowCommit h m) s = .next t ∧ m ∈ t.jig.commits ∧ t.jig.plans = s.jig.plans ∧ t.mem = s.mem ∧
          t.vnr = s.vnr ∧ ∀ x ∈ t.jig.commits, x.pipeline = m.pipeline → x.frame = m.frame → x = m) ∧
      (m.frame ≤ s.jig.frame → ∀ c ∈ [Instr.rowPlan h m, .rowCommit h m], ∃ t, exec c s = .next t ∧ t.jig = s.jig ∧
        t.mem = s.mem ∧ t.vnr = s.vnr) ∧
      (s.jig.frame + 3 ≤ r.frame → ∃ t, exec (.rowReady h r) s = .next t ∧ (h.src, r) ∈ t.jig.readies ∧
        t.jig.plans = s.jig.plans ∧ t.mem = s.mem ∧ t.vnr = s.vnr) ∧
      (r.frame < s.jig.frame + 3 → ∃ t, exec (.rowReady h r) s = .next t ∧ t.jig = s.jig ∧ t.mem = s.mem ∧
        t.vnr = s.vnr)) ∧
    (¬ IsNew h s → ∀ c ∈ [Instr.rowPlan h m, .rowCommit h m, .rowReady h r], ∃ t, exec c s = .next t ∧ UnitsKept s t)

/-! ### Mortise queues (chapter 5) -/

/-- MQ.CREATE (R146, R161): with fields in range it makes the named queue, or the lowest free one, in state CREATED with
all its slots free, answered with its number and its buffer's handle, and no other queue changes; a field out of range is
S_BAD_FIELD, a queue not FREE S_MQ_EXISTS, and no free queue or no room S_NO_RESOURCE. MQ.DESTROY (R161): an empty, unbound
queue that no jig names goes with its buffer; on a FREE one it changes nothing, a BOUND one is S_MQ_BOUND, one with entries
S_MQ_NOT_EMPTY, and one that a jig names S_BUSY. MQ.QUERY answers occupancy and state. MQ.PURGE (R156, R161) of a context,
or by the owner of every one, takes those entries out, answered with their number, and keeps the order of the others; in an
unbound queue with nothing held early their slots are free. A read of word 0 of MQ_HEAD (R159) returns and latches the head
entry for the owner PF and for the function of its context, and the empty pattern for others and for an empty queue.
MQ.POST (R163) to a queue in state CREATED with a free slot, by the context's own function, from an object that it may
read: the block stands in the lowest free slot, which is posted, and the entry that MQ.POST makes is the queue's last; a
post of length 0 posts the entry alone, and one from an object in FLASH waits for its promotion. Else it posts nothing and
completes with S_BAD_FIELD, S_DENIED, S_MQ_BOUND, S_MQ_FULL or the source object's own status. -/
def Obligations.QueuesAreMadePostedAndPurged : Prop :=
  (∀ (src : Src) (p : Bytes) (s : State),
    let want := getLE p 0 2
    let depth := getLE p 2 2
    let bytes := getLE p 4 4
    let fine := (want ≤ 255 ∨ want = 0xFFFF) ∧ 1 ≤ depth ∧ depth ≤ 1024 ∧ 65536 ≤ bytes ∧ bytes ≤ 64 * mib ∧
      bytes % 65536 = 0 ∧ getLE p 8 2 < 2 ^ 14 ∧ getLE p 0x0C 4 < 2 ^ 17
    let refused (st : Nat) : Prop := ∃ t, exec (.mqCreate src p) s = .next t ∧ Answered src st [] s t ∧ UnitsKept s t
    Starts ⟨src, 0x0301, .mqCreate src p, true, [(0x0A, 2), (0x10, 32)], p⟩ s →
      (¬ fine → refused sBadField) ∧
      (fine → want ≤ 255 → (queueOf s want).state ≠ 0 → refused 0x0305) ∧
      (fine → want = 0xFFFF → (∀ q, q < 256 → (queueOf s q).state ≠ 0) → refused sNoResource) ∧
      ∀ q, q < 256 → (queueOf s q).state = 0 →
        (want = q ∨ (want = 0xFFFF ∧ ∀ r, r < q → (queueOf s r).state ≠ 0)) → fine →
        (gddrFree s < depth * bytes → refused sNoResource) ∧
        (depth * bytes ≤ gddrFree s → ∃ t h, exec (.mqCreate src p) s = .next t ∧
          Answered src sOk [q, h % 2 ^ 32, h / 2 ^ 32] s t ∧
          queueOf t q = { Queue.reset with
            state := 1, phase := bits (getLE p 8 2) 13 12, stage := getLE p 8 2 % 4096, depth := depth
            slotUnits := bytes / 65536, producer := getLE p 0x0C 4, handle := h, slots := List.replicate depth .free } ∧
          (∃ o, findObj t h = some o ∧ o.size = depth * bytes ∧ o.home = q / 64 ∧ o.state = .resident ∧ o.mem = []) ∧
          ∀ r, r ≠ q → queueOf t r = queueOf s r)) ∧
  (∀ (src : Src) (p : Bytes) (s : State),
    let q := getLE p 0 2
    let k := queueOf s q
    let refused (c : Instr) (st : Nat) : Prop := ∃ t, exec c s = .next t ∧ Answered src st [] s t ∧ UnitsKept s t
    let named := bankUsesQueue (activeBank s) q = true ∨ bankUsesQueue (shadowBank s) q = true
    (Starts ⟨src, 0x0302, .mqDestroy src p, true, [(2, 46)], p⟩ s →
      (255 < q → refused (.mqDestroy src p) sBadField) ∧ (q ≤ 255 → k.state = 0 → refused (.mqDestroy src p) sOk) ∧
      (q ≤ 255 → k.state = 2 → refused (.mqDestroy src p) 0x0302) ∧
      (q ≤ 255 → k.state = 1 → k.entries ≠ [] → refused (.mqDestroy src p) 0x0303) ∧
      (q ≤ 255 → k.state = 1 → k.entries = [] → named → refused (.mqDestroy src p) sBusy) ∧
      (q ≤ 255 → k.state = 1 → k.entries = [] → ¬ named →
        ∃ t, exec (.mqDestroy src p) s = .next t ∧ Answered src sOk [] s t ∧ queueOf t q = Queue.reset ∧
          findObj t k.handle = none ∧ ∀ r, r ≠ q → queueOf t r = queueOf s r)) ∧
    (Starts ⟨src, 0x0305, .mqQuery src p, true, [(2, 46)], p⟩ s →
      (255 < q → refused (.mqQuery src p) sBadField) ∧
      (q ≤ 255 → ∃ t, exec (.mqQuery src p) s = .next t ∧ UnitsKept s t ∧
        Answered src sOk [k.entries.length + (slotsIn k .free).length * 65536,
          k.state + k.phase % 4 * 4 + k.stage % 4096 * 16 + k.depth * 65536] s t))) ∧
  (∀ (src : Src) (p : Bytes) (s : State),
    let q := getLE p 0 2
    let c := getLE p 0x0A 2
    let k := queueOf s q
    let refused (st : Nat) : Prop := ∃ t, exec (.mqPurge src p) s = .next t ∧ Answered src st [] s t ∧ UnitsKept s t
    let owns := srcOwner s src = true ∨ ((ctxOf s c).state ≠ .free ∧ (ctxOf s c).fn = srcFn s src)
    Starts ⟨src, 0x0306, .mqPurge src p, false, [(2, 8), (0x0C, 36)], p⟩ s →
      (c = 0xFFFF → srcOwner s src = false → refused sDenied) ∧
      (c ≠ 0xFFFF ∨ srcOwner s src = true → 255 < q ∨ (4095 < c ∧ c ≠ 0xFFFF) → refused sBadField) ∧
      (q ≤ 255 → c ≤ 4095 → ¬ owns → refused sJobUnknown) ∧
      ∀ hit : QEntry → Bool,
        ((c = 0xFFFF ∧ srcOwner s src = true ∧ ∀ e, hit e = true) ∨
          (c ≤ 4095 ∧ owns ∧ ∀ e, hit e = (hdrCtx e.hdr == c))) → q ≤ 255 →
        ∃ t l, exec (.mqPurge src p) s = .next t ∧ Answered src sOk [(k.entries.filter hit).length] s t ∧
          (queueOf t q).entries = (k.entries.filter fun e => !hit e) ++ l ∧ (k.early = [] → l = []) ∧
          (∀ e ∈ l, hit e = false) ∧
          (k.bound = none → k.early = [] → ∀ e ∈ k.entries, hit e = true → e.slot < k.slots.length →
            (queueOf t q).slots[e.slot]? = some .free) ∧
          (∀ r, r ≠ q → (queueOf t r).entries = (queueOf s r).entries) ∧ t.mem = s.mem ∧ t.tile = s.tile ∧ t.jig = s.jig) ∧
  (∀ (f : Fin 64) (n : Fin 256) (s : State),
    let sees (e : QEntry) : Prop := isOwner s f = true ∨ ownsCtx s f (hdrCtx e.hdr) = true
    let reads (b : Bytes) : Prop := ∃ t, exec (.mqHeadWord0Read f n) s = .next t ∧ UnitsKept s t ∧
      Sends (.read f (0x34000 + 64 * n) (getLE b 0 4)) s t ∧ tget [] (fnOf t f).headLatch n = b
    ((queueOf s n).entries = [] → reads (List.replicate 64 0xFF)) ∧
    ∀ e r, (queueOf s n).entries = e :: r → (sees e → reads (slice e.hdr 0 64)) ∧
      (¬ sees e → reads (List.replicate 64 0xFF))) ∧
  (∀ (src : Src) (p : Bytes) (s : State),
    let q := getLE p 0 2
    let k := queueOf s q
    let x := ctxOf s (getLE p 2 2 % 4096)
    let len := getLE p 0x14 4
    let h := getLE p 0x18 8
    let off := getLE p 0x20 8
    let fine := q ≤ 255 ∧ getLE p 0x0A 2 ≤ 1 ∧ getLE p 0x10 4 < 2 ^ 23 ∧ k.state ≠ 0 ∧ len ≤ slotBytes k
    let owns := x.state ≠ .free ∧ x.fn = srcFn s src
    let refused (st : Nat) : Prop := ∃ t, exec (.mqPost src p) s = .next t ∧ Answered src st [] s t ∧ UnitsKept s t
    let posts (slot : Nat) (t : State) : Prop := exec (.mqPost src p) s = .next t ∧ Answered src sOk [] s t ∧
      (queueOf t q).entries = k.entries ++ [⟨postHdr s k p slot, slot⟩] ∧ (queueOf t q).slots[slot]? = some .posted ∧
      (queueOf t q).posted = seqNext k.posted ∧ ∀ z, z ≠ q → queueOf t z = queueOf s z
    Starts ⟨src, 0x0307, .mqPost src p, false, [(0x0E, 2), (0x28, 8)], p⟩ s →
      (¬ fine → refused sBadField) ∧ (fine → ¬ owns → refused sDenied) ∧ (fine → owns → k.state = 2 → refused 0x0302) ∧
      (fine → owns → k.state = 1 → slotsIn k .free = [] → refused 0x0301) ∧
      ∀ slot r, fine → owns → k.state = 1 → slotsIn k .free = slot :: r →
        (len = 0 → ∃ t, posts slot t ∧ t.mem = s.mem) ∧
        (1 ≤ len → ∀ st, cmdObj s src h 1 = .error st → refused st) ∧
        ∀ o, 1 ≤ len → cmdObj s src h 1 = .ok o →
          (o.size < off + len → refused 0x0703) ∧
          (off + len ≤ o.size → poisonedIn o off len = true → refused 0x0704) ∧
          (off + len ≤ o.size → poisonedIn o off len = false →
            (inFlash o = true → ∃ t, exec (.mqPost src p) s = .next t ∧ Waits src (.mqPost h) t ∧ t.mq = s.mq) ∧
            ∀ b, inFlash o = false → findObj s k.handle = some b → Memory.wf b.mem = true →
              ∃ t b', posts slot t ∧ findObj t k.handle = some b' ∧
                (∀ i, i < len → memGet b'.mem (slot * slotBytes k + i) = memGet o.mem (off + i)) ∧
                ∀ a, a < slot * slotBytes k ∨ slot * slotBytes k + len ≤ a → memGet b'.mem a = memGet b.mem a))

/-- MQ.BIND (R147, R162): with fields in range, an IDLE binding and a route for its ports, to another module it sends
MQ_BIND and waits; to this module's own queue, unbound, naming this module and the stage, it is ACTIVE at once with a
credit for every free slot, and any other queue refuses it. S_BAD_FIELD, S_MQ_BOUND, S_MQ_NO_ROUTE and S_MQ_REFUSED are
answered as the table says, the binding as it was or IDLE. A grant from the destination makes a PENDING binding ACTIVE with
its credits and completes MQ.BIND; a refusal, or no answer within the time, leaves it IDLE with S_MQ_REFUSED; an MQ.UNBIND
that waited for the attempt then completes too, the binding IDLE. A grant from elsewhere, or for a binding not PENDING,
changes nothing. MQ.UNBIND (R162) of an ACTIVE binding with an empty window leaves it IDLE and its queue here CREATED with
no slot granted, or tells the destination; with headers unacknowledged it closes and waits; a PENDING or CLOSING one waits;
on an IDLE one it changes nothing, and one that a jig names is S_BUSY. -/
def Obligations.BindingsOpenAndClose : Prop :=
  (∀ (src : Src) (p : Bytes) (s : State),
    let n := getLE p 0 1
    let q := getLE p 2 2
    let dest := getLE p 4 4
    let ds := getLE p 0x0A 2
    let fine := 1 ≤ getLE p 1 1 ∧ getLE p 1 1 ≤ 4 ∧ q ≤ 255 ∧ dest < 2 ^ 17 ∧ getLE p 8 2 < 4096 ∧ ds < 4096
    let route := dest = s.dvl.addr ∨ getLE p 1 1 ≤ (candidates s dest false).length
    let refused (st : Nat) : Prop := ∃ t, exec (.mqBind src p) s = .next t ∧ Answered src st [] s t ∧ UnitsKept s t
    Starts ⟨src, 0x0303, .mqBind src p, true, [(0x0C, 36)], p⟩ s →
      (¬ fine → refused sBadField) ∧ (fine → (bindOf s n).state ≠ 0 → refused 0x0302) ∧
      (fine → (bindOf s n).state = 0 → ¬ route → refused 0x0306) ∧
      (fine → (bindOf s n).state = 0 → route →
        (dest ≠ s.dvl.addr → ∃ t, exec (.mqBind src p) s = .next t ∧ Waits src (.bind n) t ∧
          bindOf t n = { Binding.reset with state := 1, ports := getLE p 1 1, destQueue := q, destStage := ds,
                                            destAddr := dest, srcStage := getLE p 8 2 } ∧
          Sends (msgOut s.dvl.addr dest s.dvl.nextMsgId (.mqBind q n (getLE p 8 2) ds)) s t ∧ t.mq.queues = s.mq.queues ∧
          t.mem = s.mem) ∧
        (dest = s.dvl.addr → (∀ o ∈ s.host.outst, o.wait ≠ .unbind n) → Unlisted src s →
          (mayBind s q dest ds = true → ∃ t, exec (.mqBind src p) s = .next t ∧ t.mem = s.mem ∧
            Answered src sOk [(slotsIn (queueOf s q) .free).length, slotBytes (queueOf s q)] s t ∧
            (bindOf t n).state = 2 ∧ (bindOf t n).credits = slotsIn (queueOf s q) .free ∧ (bindOf t n).loc = true ∧
            (queueOf t q).bound = some (dest, n) ∧ (queueOf t q).state = 2 ∧ slotsIn (queueOf t q) .free = []) ∧
          (mayBind s q dest ds = false → ∃ t, exec (.mqBind src p) s = .next t ∧ t.mq.queues = s.mq.queues ∧
            t.mem = s.mem ∧ Answered src 0x0304 [] s t ∧ bindOf t n = Binding.reset)))) ∧
  (∀ (b : Fin 256) (h : MsgHdr) (g : Grant) (s : State),
    let x := bindOf s b
    let ends (c : Instr) : Prop := ∃ t, exec c s = .next t ∧ bindOf t b = Binding.reset ∧ t.mq.queues = s.mq.queues ∧
      t.mem = s.mem ∧ (∀ o ∈ s.host.outst, o.wait = .bind b → Answered o.src 0x0304 [] s t) ∧
      ∀ o ∈ s.host.outst, o.wait = .unbind b → Answered o.src sOk [] s t
    (x.state = 1 → x.destAddr = h.src →
      ((∀ o ∈ s.host.outst, o.wait ≠ .unbind b) → ∃ t, exec (.mqGrant h b (some g)) s = .next t ∧ t.mem = s.mem ∧
        bindOf t b = { x with state := 2, credits := g.slots, slotBytes := g.slotBytes, handle := g.handle } ∧
        ∀ o ∈ s.host.outst, o.wait = .bind b → Answered o.src sOk [g.slots.length, g.slotBytes] s t) ∧
      ((∃ o ∈ s.host.outst, o.wait = .unbind b) → ∃ t, exec (.mqGrant h b (some g)) s = .next t ∧ t.mem = s.mem ∧
        bindOf t b = Binding.reset ∧
        (∀ o ∈ s.host.outst, o.wait = .bind b → Answered o.src sOk [g.slots.length, g.slotBytes] s t) ∧
        ∀ o ∈ s.host.outst, o.wait = .unbind b → Answered o.src sOk [] s t) ∧
      ends (.mqGrant h b none)) ∧
    (x.state = 1 → ends (.mqBindTimeout b)) ∧
    (x.state ≠ 1 → ∀ c ∈ [Instr.mqGrant h b (some g), .mqGrant h b none, .mqBindTimeout b], ∃ t, exec c s = .next t ∧
      UnitsKept s t) ∧
    (x.destAddr ≠ h.src → ∀ g, ∃ t, exec (.mqGrant h b g) s = .next t ∧ UnitsKept s t)) ∧
  ∀ (src : Src) (p : Bytes) (s : State),
    let n := getLE p 0 1
    let x := bindOf s n
    let named := bankUsesBinding (activeBank s) n = true ∨ bankUsesBinding (shadowBank s) n = true
    Starts ⟨src, 0x0304, .mqUnbind src p, true, [(1, 47)], p⟩ s →
      (x.state = 0 → ∃ t, exec (.mqUnbind src p) s = .next t ∧ Answered src sOk [] s t ∧ UnitsKept s t) ∧
      (x.state ≠ 0 → named → ∃ t, exec (.mqUnbind src p) s = .next t ∧ Answered src sBusy [] s t ∧ UnitsKept s t) ∧
      (x.state = 1 ∨ x.state = 3 → ¬ named → ∃ t, exec (.mqUnbind src p) s = .next t ∧ Waits src (.unbind n) t ∧
        UnitsKept s t) ∧
      (x.state = 2 → ¬ named →
        (x.window = [] → Unlisted src s → ∃ t, exec (.mqUnbind src p) s = .next t ∧ Answered src sOk [] s t ∧
          bindOf t n = Binding.reset ∧ t.mem = s.mem ∧
          (x.destAddr ≠ s.dvl.addr → t.mq.queues = s.mq.queues ∧ Sends (msgOut s.dvl.addr x.destAddr s.dvl.nextMsgId
            (.mqBind x.destQueue n (closeFlag + x.srcStage) x.destStage)) s t) ∧
          (x.destAddr = s.dvl.addr → (queueOf t x.destQueue).bound = none ∧
            slotsIn (queueOf t x.destQueue) .granted = [] ∧ (queueOf t x.destQueue).entries = (queueOf s x.destQueue).entries ∧
            ((queueOf s x.destQueue).state = 2 → (queueOf t x.destQueue).state = 1))) ∧
        (x.window ≠ [] → ∃ t, exec (.mqUnbind src p) s = .next t ∧ Waits src (.unbind n) t ∧
          bindOf t n = { x with state := 3 } ∧ t.mq.queues = s.mq.queues ∧ t.mem = s.mem))

/-- Queue messages at the receiver. MQ_BIND (R147): a bind from the producer, for the queue's stage, of an unbound queue
binds it and grants its free slots, any other is refused and changes no queue, and the one that closes a binding (log entry
18) releases its queue. A block (R155) lands in its granted slot and nowhere else. A header (R145, R148) that passes the
checks and is next in sequence becomes the queue's next entry, one that is early is held, and one posted already is
discarded and acknowledged again. One that fails a check never becomes an entry: it is counted, its cause goes back, and
EV_MQ_HDR_CRC or EV_MQ_REFUSED is raised, but not for CTX_GONE of a context torn down in the last 10 ms; on a first CRC
refusal its slot and seq wait for the resend, else the slot goes back, and a queue bound otherwise stays as it was. -/
def Obligations.QueueMessagesKeepOrderAndCredits : Prop :=
  (∀ (h : MsgHdr) (q b ss ds : Nat) (s : State),
    let k := queueOf s q
    (IsNew h s →
      (ss < 4096 → mayBind s q h.src ds = true → ∃ t, exec (.mqBindMsg h q b ss ds) s = .next t ∧
        Sends (msgOut s.dvl.addr h.src s.dvl.nextMsgId (.mqGrant b (some ⟨slotsIn k .free, slotBytes k, k.handle⟩))) s t ∧
        (queueOf t q).bound = some (h.src, b) ∧ (queueOf t q).state = 2 ∧ (queueOf t q).nextSeq = 0 ∧
        slotsIn (queueOf t q) .free = [] ∧ (queueOf t q).entries = k.entries ∧ t.mem = s.mem) ∧
      (ss < 2 ^ 15 → 4096 ≤ ss ∨ mayBind s q h.src ds = false → ∃ t, exec (.mqBindMsg h q b ss ds) s = .next t ∧
        Sends (msgOut s.dvl.addr h.src s.dvl.nextMsgId (.mqGrant b none)) s t ∧ t.mq = s.mq ∧ t.mem = s.mem) ∧
      (2 ^ 15 ≤ ss → k.bound = some (h.src, b) → ∃ t, exec (.mqBindMsg h q b ss ds) s = .next t ∧ t.mem = s.mem ∧
        (queueOf t q).bound = none ∧ slotsIn (queueOf t q) .granted = [] ∧ (queueOf t q).entries = k.entries ∧
        (k.state = 2 → (queueOf t q).state = 1)) ∧
      (2 ^ 15 ≤ ss → k.bound ≠ some (h.src, b) → ∃ t, exec (.mqBindMsg h q b ss ds) s = .next t ∧ t.mq = s.mq)) ∧
    (¬ IsNew h s → ∃ t, exec (.mqBindMsg h q b ss ds) s = .next t ∧ UnitsKept s t) ∧
    (∀ handle off data o, findObj s handle = some o →
      let lands := o.role = .queueBuf q ∧ k.handle = handle ∧ (∃ b, k.bound = some (h.src, b)) ∧
        k.slots[off / max (slotBytes k) 1]? = some .granted ∧ off % max (slotBytes k) 1 + data.length ≤ slotBytes k
      (lands → Memory.wf o.mem = true → ∃ t o', exec (.mqBlock h handle off data) s = .next t ∧
        findObj t handle = some o' ∧ t.mq = s.mq ∧ (∀ z, hSlot z ≠ hSlot handle → findObj t z = findObj s z) ∧
        ∀ a, memGet o'.mem a = if off ≤ a ∧ a < off + data.length then data.getD (a - off) 0 else memGet o.mem a) ∧
      (o.role = .queueBuf q → ¬ lands → ∃ t, exec (.mqBlock h handle off data) s = .next t ∧ UnitsKept s t) ∧
      ((∀ z, o.role ≠ .queueBuf z) → ∃ t, exec (.mqBlock h handle off data) s = .next t ∧ UnitsKept s t)) ∧
    ∀ hdr, hdr.length = 64 →
      let seq := hdrSeq hdr
      let sound := crc32c (slice hdr 0 0x3C) = hdrCrc hdr
      let slot := slotOfHdr k hdr
      (k.bound = some (h.src, b) →
        (hdrCause s q h.src hdr = none → seq = k.nextSeq → ∃ t l, exec (.mqHeader h q b hdr) s = .next t ∧
          (queueOf t q).entries = k.entries ++ ⟨hdr, slot⟩ :: l ∧ (k.early = [] → l = []) ∧
          (queueOf t q).slots[slot]? = some .posted ∧ t.mem = s.mem) ∧
        (hdrCause s q h.src hdr = none → seq ≠ k.nextSeq → seqLe k.nextSeq seq = true →
          (k.early.any fun e => e.1 == seq) = false → ∃ t, exec (.mqHeader h q b hdr) s = .next t ∧
          (queueOf t q).entries = k.entries ∧ (queueOf t q).early = k.early ++ [(seq, hdr)] ∧ t.mem = s.mem) ∧
        (sound → seqLe k.nextSeq seq = false → h.src ≠ s.dvl.addr → ∃ t, exec (.mqHeader h q b hdr) s = .next t ∧
          (queueOf t q).entries = k.entries ∧ (queueOf t q).early = k.early ∧ t.mem = s.mem ∧
          Sends (msgOut s.dvl.addr h.src s.dvl.nextMsgId (.mqCredit b (k.creditPend.take 8) (ackOf k))) s t)) ∧
      ∀ cause, hdrCause s q h.src hdr = some cause → h.src ≠ s.dvl.addr →
        k.bound ≠ some (h.src, b) ∨ ¬ sound ∨ seqLe k.nextSeq seq = true →
        ∃ t l, exec (.mqHeader h q b hdr) s = .next t ∧ t.mq.refuseCnt = min (s.mq.refuseCnt + 1) 0xFFFF_FFFF ∧
          (∃ id, Sends (msgOut s.dvl.addr h.src id (.mqReject b seq cause)) s t) ∧ t.mem = s.mem ∧
          (queueOf t q).entries = k.entries ++ l ∧ (k.early = [] → l = []) ∧ (cause = 1 → Logs 0x0301 s t) ∧
          (cause ≠ 1 → ¬ (cause = 3 ∧ justGone s (hdrCtx hdr) = true) → Logs 0x0302 s t) ∧
          (k.bound ≠ some (h.src, b) → queueOf t q = k) ∧
          (k.bound = some (h.src, b) → cause = 1 → seq ∉ k.crcOnce →
            queueOf t q = { k with crcOnce := k.crcOnce ++ [seq] }) ∧
          (k.bound = some (h.src, b) → cause ≠ 1 ∨ seq ∈ k.crcOnce → k.slots[slot]? = some .granted →
            k.creditPend.length < 7 → slot ∈ (queueOf t q).creditPend)) ∧
  (∀ (h : MsgHdr) (b : Nat) (s : State),
    let x := bindOf s b
    (x.destAddr = h.src → x.state ≠ 0 →
      (∀ slots acked,
        let left := match acked with
          | some a => x.window.filter fun e => !seqLe e.1 a
          | none => x.window
        (x.state ≠ 3 ∨ left ≠ [] → ∃ t, exec (.mqCredit h b slots acked) s = .next t ∧
          bindOf t b = { x with credits := x.credits ++ x.reclaim ++ slots, reclaim := [], window := left } ∧
          t.mq.queues = s.mq.queues ∧ t.mem = s.mem) ∧
        (x.state = 3 → left = [] → ∃ t, exec (.mqCredit h b slots acked) s = .next t ∧ bindOf t b = Binding.reset ∧
          t.mem = s.mem ∧ ∀ o ∈ s.host.outst, o.wait = .unbind b → Answered o.src sOk [] s t)) ∧
      (x.state ≠ 3 → ∀ free posted, IsNew h s → ∃ t, exec (.mqSync h b free posted []) s = .next t ∧
        (bindOf t b).credits = free ∧ (bindOf t b).reclaim = [] ∧ t.mem = s.mem ∧
        ∀ e ∈ (bindOf t b).window, e ∈ x.window ∧ ∀ a, posted = some a → seqLe e.1 a = false)) ∧
    (x.destAddr = h.src → ∀ seq cause,
      ((x.window.find? fun e => e.1 == seq) = none → ∃ t, exec (.mqReject h b seq cause) s = .next t ∧ UnitsKept s t) ∧
      ∀ e, (x.window.find? fun e => e.1 == seq) = some e →
        (cause = 1 → seq ∉ x.crcRefused → ∃ t, exec (.mqReject h b seq cause) s = .next t ∧
          Sends (msgOut s.dvl.addr h.src s.dvl.nextMsgId (.mqHeader x.destQueue b e.2.2)) s t ∧
          (bindOf t b).crcRefused = x.crcRefused ++ [seq] ∧
          t.mq.resendCnt = min (s.mq.resendCnt + 1) 0xFFFF_FFFF ∧ t.vnr = s.vnr ∧ t.mem = s.mem) ∧
        (cause ≠ 1 ∨ seq ∈ x.crcRefused → activeCtx (ctxOf s e.2.1) = true →
          ∃ t, exec (.mqReject h b seq cause) s = .next t ∧ (ctxOf t e.2.1).state = .faulted ∧
            (ctxOf t e.2.1).cause = 0x0B ∧ Logs 0x0401 s t) ∧
        (cause = 3 → activeCtx (ctxOf s e.2.1) = false → ∃ t, exec (.mqReject h b seq cause) s = .next t ∧
          UnitsKept s t)) ∧
    (x.destAddr ≠ h.src → ∀ slots acked seq cause,
      ∀ c ∈ [Instr.mqCredit h b slots acked, .mqReject h b seq cause], ∃ t, exec c s = .next t ∧ UnitsKept s t) ∧
    (¬ IsNew h s → ∀ free posted refused, ∃ t, exec (.mqSync h b free posted refused) s = .next t ∧ UnitsKept s t)) ∧
  ∀ (q : Fin 256) (s : State),
    let k := queueOf s q
    (∀ a b, k.bound = some (a, b) → k.creditPend ≠ [] ∨ k.ackPend = true → a ≠ s.dvl.addr →
      ∃ t, exec (.creditFlushTimer q) s = .next t ∧ t.mem = s.mem ∧
        Sends (msgOut s.dvl.addr a s.dvl.nextMsgId (.mqCredit b (k.creditPend.take 8) (ackOf k))) s t ∧
        queueOf t q = { k with creditPend := k.creditPend.drop 8, ackPend := false }) ∧
    (k.bound = none ∨ (k.creditPend = [] ∧ k.ackPend = false) → ∃ t, exec (.creditFlushTimer q) s = .next t ∧
      UnitsKept s t)

/-! ### Versions, contexts and jobs (chapter 6) -/

/-- JOB.SUBMIT (R165, R182-R184, R187): a rsvd flag, or a field, manifest or hyperparameter object out of its limits, is
S_BAD_FIELD; a tag that the function and tenant have submitted already is answered with the first one's job; a function at
its limit of contexts is S_NO_RESOURCE; none of these changes anything. On a module with no map, else: with no context or
no room for one it is S_NO_RESOURCE, and one that makes a deadline miss, and may not, S_DEADLINE with the job that would
miss, and no job is left of either; a job that misses none, or may, is admitted at once on the lowest free context, with
its first version current on every stage here, answered with its job ID and that context. JOB.WAIT, JOB.STATUS, JOB.CANCEL
and JOB.RELEASE (R187, R189, R190) of a job that the issuer may not name are S_JOB_UNKNOWN. A wait is answered with status
and words of a DONE job, and else waits; a status query answers state, cause, steps done and what is expected; a cancel
acts at the next frame boundary of a running bank, here and on every member, and at once with none running; a release of a
DONE job frees its context and forgets it; a cancel of a DONE job, and a release of any other, is S_CTX_STATE. -/
def Obligations.JobsAreSubmittedAndControlled : Prop :=
  (∀ (src : Src) (p : Bytes) (s : State),
    let f := srcFn s src
    let tenant := getLE p 0 3
    let pipe := getLE p 4 1
    let flags := getLE p 6 2
    let man := getLE p 0x10 8
    let steps := getLE p 0x20 4
    let mb := manifestBytes s man
    let same := s.vnr.jobs.find? fun j => j.2.fn == f && j.2.tenant == tenant && j.2.jobTag == getLE p 0x28 8
    let id := newJobId s
    let fine := 1 ≤ steps ∧ pipeM (planBank s) pipe = some (getLE p 0x24 2) ∧ manifestOk s f pipe man = true ∧
      hyperOk (hyperOf s mb) = true ∧ maxHypSel s pipe < getLE (hyperOf s mb) 4 4 ∧
      (bit flags 0 = true → 3 ≤ (mapGroups s).length)
    let refused (st : Nat) : Prop := ∃ t, exec (.jobSubmit src p) s = .next t ∧ Answered src st [] s t ∧ UnitsKept s t
    Starts ⟨src, 0x0401, .jobSubmit src p, false, [(3, 1), (5, 1), (0x26, 2)], p⟩ s →
      (15 < flags → refused sBadField) ∧
      (flags ≤ 15 → ∀ k j, same = some (k, j) → ∃ t, exec (.jobSubmit src p) s = .next t ∧
        Answered src sOk [k, (ctxOfJob s k).getD 0] s t ∧ UnitsKept s t) ∧
      (flags ≤ 15 → same = none → ¬ fine → refused sBadField) ∧
      (flags ≤ 15 → same = none → fine → (fnOf s f).maxCtx ≤ fnContexts s f → refused sNoResource) ∧
      (flags ≤ 15 → same = none → fine → fnContexts s f < (fnOf s f).maxCtx → s.dvl.map = none → Unlisted src s →
        (∀ e ∈ s.vnr.ctxs, e.2.job ≠ id) → (∀ e ∈ s.vnr.jobs, e.1 ≠ id) →
        let load := sortBy dueLe ((getLE p 8 8, id, steps * rowFramesPerStep (planBank s) pipe) :: pipeLoad s pipe 0)
        let miss := firstMiss s (planBank s) pipe 0 load
        (freeCtxId s = none ∨ ctxRoom s pipe = false → ∃ t, exec (.jobSubmit src p) s = .next t ∧
          Answered src sNoResource [] s t ∧ jobOf t id = none ∧ t.vnr.ctxs = s.vnr.ctxs ∧ t.mem = s.mem) ∧
        ∀ c, freeCtxId s = some c → ctxRoom s pipe = true →
          (∀ m, miss = some m → bit flags 2 = false → ∃ t w0 w1, exec (.jobSubmit src p) s = .next t ∧
            Answered src 0x0401 [w0, w1, m] s t ∧ jobOf t id = none ∧ (∀ d, d ≠ c → ctxOf t d = ctxOf s d) ∧
            (ctxOf t c).state = .free ∧ t.mem = s.mem) ∧
          (miss = none ∨ bit flags 2 = true →
            (commitFits s c pipe (initOf s mb) = false → ∃ t, exec (.jobSubmit src p) s = .next t ∧
              Answered src sNoResource [] s t ∧ jobOf t id = none ∧ (ctxOf t c).state = .free ∧ t.mem = s.mem) ∧
            (commitFits s c pipe (initOf s mb) = true → ∃ t j, exec (.jobSubmit src p) s = .next t ∧
              Answered src sOk [id, c] s t ∧ jobOf t id = some j ∧ j.admission = .admitted ∧ j.fn = f ∧ j.tenant = tenant ∧
              j.deadline = getLE p 8 8 ∧ j.steps = steps ∧ (ctxOf t c).state = .admitted ∧ (ctxOf t c).job = id ∧
              (ctxOf t c).fn = f ∧ (ctxOf t c).tenant = tenant ∧ (ctxOf t c).steps = steps ∧
              (∀ r ∈ pipeStages s pipe, currentVer (ctxOf t c) r.stage = some (getLE mb 0x0C 1 % 16)) ∧
              (∀ d, d ≠ c → ctxOf t d = ctxOf s d) ∧ t.mq = s.mq ∧ t.tile = s.tile)))) ∧
  (∀ (src : Src) (p : Bytes) (s : State),
    let job := getLE p 0 4
    let refused (c : Instr) (st : Nat) : Prop := ∃ t, exec c s = .next t ∧ Answered src st [] s t ∧ UnitsKept s t
    let told (m : JobCtl) (j : Job) (t : State) : Prop :=
      ∀ a ∈ j.members, a ≠ s.dvl.addr → ∃ id, Sends (msgOut s.dvl.addr a id (.jobCtl m)) s t
    (Starts ⟨src, 0x0402, .jobWait src p, false, [(4, 44)], p⟩ s →
      (cmdJob s src job = none → refused (.jobWait src p) sJobUnknown) ∧
      ∀ j, cmdJob s src job = some j →
        (∀ st, j.status = some st → ∃ t, exec (.jobWait src p) s = .next t ∧ Answered src st (jobWords j st) s t ∧
          UnitsKept s t) ∧
        (j.status = none → ∃ t, exec (.jobWait src p) s = .next t ∧ Waits src (.job job) t ∧ UnitsKept s t)) ∧
    (Starts ⟨src, 0x0403, .jobStatus src p, false, [(4, 44)], p⟩ s →
      (cmdJob s src job = none → refused (.jobStatus src p) sJobUnknown) ∧
      ∀ j, cmdJob s src job = some j →
        let state := if j.status.isSome then 5 else ((ctxOfJob s job).map fun c => ctxCode (ctxOf s c).state).getD 5
        ∃ t, exec (.jobStatus src p) s = .next t ∧ UnitsKept s t ∧
          Answered src sOk ([state + j.cause % 256 * 256, j.stepsDone] ++ words64 (j.finish.getD (2 ^ 64 - 1)) ++
            [min ((j.steps - j.stepsDone) * rowFramesPerStep (planBank s) j.pipeline) 0xFFFFFFFF]) s t) ∧
    (Starts ⟨src, 0x0404, .jobCancel src p, false, [(4, 44)], p⟩ s →
      (cmdJob s src job = none → refused (.jobCancel src p) sJobUnknown) ∧
      ∀ j, cmdJob s src job = some j →
        (j.status.isSome = true → refused (.jobCancel src p) sCtxState) ∧
        (j.status = none → s.jig.running = true →
          ∃ t, exec (.jobCancel src p) s = .next t ∧ Waits src (.cancel job) t ∧
            jobOf t job = some { j with cancelling := true } ∧
            (∀ c, ctxOfJob s job = some c → (ctxOf t c).acts = (ctxOf s c).acts ++ [.cancel] ∧
              (ctxOf t c).state = (ctxOf s c).state) ∧
            told (.cancel job) j t ∧ t.mem = s.mem) ∧
        ∀ c, j.status = none → s.jig.running = false → j.members = [s.dvl.addr] → leadAt s job = s.dvl.addr → job ≠ 0 →
          j.cause = 0 → j.deadlineCkp = false → ctxOfJob s job = some c → activeCtx (ctxOf s c) = true → Unlisted src s →
          ∃ t, exec (.jobCancel src p) s = .next t ∧ Answered src sOk [] s t ∧ (ctxOf t c).state = .done ∧
            (jobOf t job).map (·.status) = some (some 0x0404) ∧ Logs 0x0402 s t) ∧
    (Starts ⟨src, 0x0405, .jobRelease src p, false, [(4, 44)], p⟩ s →
      (cmdJob s src job = none → refused (.jobRelease src p) sJobUnknown) ∧
      ∀ j, cmdJob s src job = some j →
        (j.status = none → refused (.jobRelease src p) sCtxState) ∧
        (j.status.isSome = true → ∃ t, exec (.jobRelease src p) s = .next t ∧ Answered src sOk [] s t ∧
          jobOf t job = none ∧ (∀ c, ctxOfJob s job = some c → ctxOf t c = Ctx.free) ∧
          (∀ d, ctxOfJob s job ≠ some d → ctxOf t d = ctxOf s d) ∧ (j.result ≠ 0 → findObj t j.result = none) ∧
          told (.free job) j t ∧ t.mq = s.mq ∧ t.tile = s.tile)))

/-- CTX.* and VNR.* commands (R173, R190, R191, R193): a context, job or version that the issuer may not name, or a field
out of range, is refused. Queries answer the register words and change nothing. A hold of a job by its owner, and a resume,
act at the next frame boundary of a running bank, here and on every member, and at once with none running: the context is
held under that reason, and resumed leaves the state it was held in once no reason is left, a divergence halt ending with
the command's hold. A DONE job has neither. CTX.SHARE sets a function's share. VNR.PIN and VNR.UNPIN give a READY version
one pin and one reference more, and take them away, and are refused where there is none to take or to give. -/
def Obligations.ContextCommandsAct : Prop :=
  ∀ (src : Src) (p : Bytes) (s : State),
    let refused (c : Instr) (st : Nat) : Prop := ∃ t, exec c s = .next t ∧ Answered src st [] s t ∧ UnitsKept s t
    (Starts ⟨src, 0x0411, .ctxQuery src p, false, [(2, 46)], p⟩ s →
      (cmdCtx s src (getLE p 0 2) = none → refused (.ctxQuery src p) sJobUnknown) ∧
      ∀ x, cmdCtx s src (getLE p 0 2) = some x →
        ∃ t, exec (.ctxQuery src p) s = .next t ∧ Answered src sOk (ctxStateWords x) s t ∧ UnitsKept s t) ∧
    (let job := getLE p 0 4
      let told (m : JobCtl) (j : Job) (t : State) : Prop :=
        ∀ a ∈ j.members, a ≠ s.dvl.addr → ∃ id, Sends (msgOut s.dvl.addr a id (.jobCtl m)) s t
      (Starts ⟨src, 0x0412, .ctxHold src p, false, [(4, 44)], p⟩ s →
        (cmdJob s src job = none → refused (.ctxHold src p) sJobUnknown) ∧
        ∀ j, cmdJob s src job = some j →
          (j.status.isSome = true → refused (.ctxHold src p) sCtxState) ∧
          ∀ c, j.status = none → ctxOfJob s job = some c →
            (s.jig.running = true → ∃ t, exec (.ctxHold src p) s = .next t ∧ Waits src (.holdJob job false) t ∧
              (ctxOf t c).acts = (ctxOf s c).acts ++ [.hold .command] ∧ (ctxOf t c).state = (ctxOf s c).state ∧
              told (.hold job (holdCode .command)) j t ∧ t.mem = s.mem ∧ t.mq = s.mq) ∧
            (s.jig.running = false → activeCtx (ctxOf s c) = true →
              ∃ t, exec (.ctxHold src p) s = .next t ∧ Answered src sOk [] s t ∧ (ctxOf t c).state = .held ∧
                .command ∈ (ctxOf t c).holds ∧ (∀ r ∈ (ctxOf s c).holds, r ∈ (ctxOf t c).holds) ∧
                ((ctxOf s c).state ≠ .held → (ctxOf t c).heldFrom = (ctxOf s c).state) ∧
                told (.hold job (holdCode .command)) j t ∧ (∀ d, d ≠ c → ctxOf t d = ctxOf s d) ∧ t.mem = s.mem ∧
                t.mq = s.mq)) ∧
      (Starts ⟨src, 0x0413, .ctxResume src p, false, [(4, 44)], p⟩ s →
        (cmdJob s src job = none → refused (.ctxResume src p) sJobUnknown) ∧
        ∀ j, cmdJob s src job = some j →
          (j.status.isSome = true → refused (.ctxResume src p) sCtxState) ∧
          ∀ c, j.status = none → ctxOfJob s job = some c →
            let left := (ctxOf s c).holds.filter fun r => r != .command && (r != .divergence || !j.repairing.isEmpty)
            (s.jig.running = true → ∃ t, exec (.ctxResume src p) s = .next t ∧ Waits src (.holdJob job true) t ∧
              .resume .command ∈ (ctxOf t c).acts ∧ (ctxOf t c).state = (ctxOf s c).state ∧
              told (.resume job (holdCode .command)) j t ∧ t.mem = s.mem ∧ t.mq = s.mq) ∧
            (s.jig.running = false → (ctxOf s c).state = .held →
              ∃ t, exec (.ctxResume src p) s = .next t ∧ Answered src sOk [] s t ∧ (ctxOf t c).holds = left ∧
                (ctxOf t c).state = (if left = [] then (ctxOf s c).heldFrom else .held) ∧
                told (.resume job (holdCode .command)) j t ∧ (∀ d, d ≠ c → ctxOf t d = ctxOf s d) ∧ t.mem = s.mem ∧
                t.mq = s.mq))) ∧
    (Starts ⟨src, 0x0414, .ctxShare src p, true, [(1, 1), (6, 42)], p⟩ s →
      let fine := getLE p 0 1 ≤ 63 ∧ getLE p 2 2 ≤ 4096 ∧ getLE p 4 2 ≤ 1000
      (¬ fine → refused (.ctxShare src p) sBadField) ∧
      (fine → ∃ t, exec (.ctxShare src p) s = .next t ∧ Answered src sOk [] s t ∧ UnitsKept s t ∧
        (fnOf t (getLE p 0 1)).maxCtx = getLE p 2 2 ∧ (fnOf t (getLE p 0 1)).permille = getLE p 4 2)) ∧
    (let ver (t : State) : Version := verOf t (getLE p 0 2) (getLE p 2 2) (getLE p 4 1)
      let kept (t : State) : Prop := Answered src sOk [] s t ∧ t.mem = s.mem ∧ t.mq = s.mq ∧ t.tile = s.tile ∧
        ∀ d, d ≠ getLE p 0 2 → ctxOf t d = ctxOf s d
      (Starts ⟨src, 0x0421, .vnrQuery src p, false, [(5, 43)], p⟩ s →
        (∀ st, cmdVer s src p = .error st → refused (.vnrQuery src p) st) ∧
        ∀ v, cmdVer s src p = .ok v → ∃ t, exec (.vnrQuery src p) s = .next t ∧ Answered src sOk (vnrWords v) s t ∧
          UnitsKept s t) ∧
      (Starts ⟨src, 0x0422, .vnrPin src p, false, [(5, 43)], p⟩ s →
        (∀ st, cmdVer s src p = .error st → refused (.vnrPin src p) st) ∧
        ∀ v, cmdVer s src p = .ok v → (v.state ≠ 2 → refused (.vnrPin src p) sCtxState) ∧
          (v.state = 2 → 15 ≤ v.pins → refused (.vnrPin src p) sNoResource) ∧
          (v.state = 2 → v.pins < 15 → ∃ t, exec (.vnrPin src p) s = .next t ∧ kept t ∧
            ver t = { v with pins := v.pins + 1, refs := v.refs + 1 })) ∧
      (Starts ⟨src, 0x0423, .vnrUnpin src p, false, [(5, 43)], p⟩ s →
        (∀ st, cmdVer s src p = .error st → refused (.vnrUnpin src p) st) ∧
        ∀ v, cmdVer s src p = .ok v → (v.pins = 0 → refused (.vnrUnpin src p) sCtxState) ∧
          (0 < v.pins → ∃ t, exec (.vnrUnpin src p) s = .next t ∧ kept t ∧
            ver t = { v with pins := v.pins - 1, refs := v.refs - 1 })))

/-- Events of contexts and jobs. CTX_TEARDOWN_DONE (R178) leaves a faulted context DONE, with no version current or LOADING
and none of its other objects its own, and tells its lead; of any other context it changes nothing. VERSION_RETIRE (R174):
an unreferenced READY version becomes EMPTY and its unpinned objects go; any other stays. JOB_INPUT_POST (R186, R375): the
last micro-batch of a step, with its extent resident, is posted into stage 0's input queue here, with its step, number and
bytes, or sent to the member whose turn it is; with no extent to post, or no context, nothing is. JOB_COMPLETE (R188): a
job that this member has finished is, with every other member's part in, DONE with status 0 and its result object, which
holds the gathered stages, and its waits are answered with it; parts not in are asked for; one not finished stays. -/
def Obligations.ContextsAndJobsEnd : Prop :=
  ∀ (c stage v job : Nat) (s : State),
    let x := ctxOf s c
    (x.state = .faulted → ∃ t, exec (.ctxTeardownDone c) s = .next t ∧ (ctxOf t c).state = .done ∧
      (∀ e ∈ (ctxOf t c).vers, ∀ w ∈ e.2, w.current = false ∧ w.state ≠ 1) ∧ t.tile = s.tile ∧
      (∀ h o, findObj s h = some o → o.ownerCtx = some c → isVersionObj o = false →
        findObj t h = none ∨ ∃ o', findObj t h = some o' ∧ o'.ownerCtx = none) ∧
      (x.job ≠ 0 → leadAt s x.job ≠ s.dvl.addr →
        Sends (msgOut s.dvl.addr (leadAt s x.job) s.dvl.nextMsgId (.jobRsp (.done x.job))) s t)) ∧
    (x.state ≠ .faulted → ∃ t, exec (.ctxTeardownDone c) s = .next t ∧ UnitsKept s t) ∧
    (v < 16 → (verOf s c stage v).state = 2 → (verOf s c stage v).refs = 0 →
      ∃ t, exec (.versionRetire c stage v) s = .next t ∧ verOf t c stage v = Version.empty ∧ t.mq = s.mq ∧
        (∀ u, u ≠ v → verOf t c stage u = verOf s c stage u) ∧
        ∀ o ∈ (verOf s c stage v).objects, ∀ y, findObj s o.2 = some y →
          findObj t o.2 = if y.pinRefs = 0 then none else some y) ∧
    ((verOf s c stage v).state ≠ 2 ∨ (verOf s c stage v).refs ≠ 0 →
      ∃ t, exec (.versionRetire c stage v) s = .next t ∧ UnitsKept s t) ∧
    (ctxOfJob s job = none ∨ (ctxOfJob s job = some c ∧ (activeCtx x = false ∨ (nextInput s c = none ∧ x.inputs = []))) →
      ∃ t, exec (.jobInputPost job) s = .next t ∧ UnitsKept s t) ∧
    (∀ m, ctxOfJob s job = some c → activeCtx x = true → x.inputs = [] → nextInput s c = some m →
      x.mbPerStep = x.nextMb + 1 →
      let who := (inputMember s job m.mb).getD s.dvl.addr
      (who ≠ s.dvl.addr → ∃ t, exec (.jobInputPost job) s = .next t ∧ (ctxOf t c).nextMb = x.nextMb + 1 ∧ t.mq = s.mq ∧
        t.mem = s.mem ∧ Sends (msgOut s.dvl.addr who s.dvl.nextMsgId (.jobCtl (.input job m))) s t) ∧
      ∀ r q, who = s.dvl.addr → (ctxStages s c).find? (fun r => r.stage == 0) = some r → r.fwdQ = some q →
        let k := queueOf s q
        (slotsIn k .free = [] ∨ slotBytes k < m.data.length → ∃ t, exec (.jobInputPost job) s = .next t ∧ UnitsKept s t) ∧
        ∀ slot l b, slotsIn k .free = slot :: l → m.data.length ≤ slotBytes k → findObj s k.handle = some b →
          Memory.wf b.mem = true →
          ∃ t hdr b', exec (.jobInputPost job) s = .next t ∧ (queueOf t q).entries = k.entries ++ [⟨hdr, slot⟩] ∧
            hdrStep hdr = x.step % 2 ^ 32 ∧ hdrMb hdr = x.nextMb % 2 ^ 16 ∧ hdrCtx hdr = c % 4096 ∧
            (ctxOf t c).nextMb = x.nextMb + 1 ∧ (ctxOf t c).extent = x.extent + 1 ∧ findObj t k.handle = some b' ∧
            ∀ i, i < m.data.length → memGet b'.mem (slot * slotBytes k + i) = m.data.getD i 0) ∧
    (∀ j, jobOf s job = some j → ctxOfJob s job = some c →
      let ready := j.status = none ∧ memberFinished s c = true ∧ j.finalLists = []
      let out (a : Nat) : Prop := a ∈ j.members ∧ a ≠ s.dvl.addr ∧ ∀ g ∈ j.gathered, g.member ≠ a
      let bytes := resultBytes job x.step ((memberFinal s c).1 ++ j.gathered.flatMap (·.stages))
      (¬ ready → ∃ t, exec (.jobComplete job) s = .next t ∧ UnitsKept s t) ∧
      (ready → (∃ a, out a) → ∃ t, exec (.jobComplete job) s = .next t ∧ t.vnr = s.vnr ∧ t.mem = s.mem ∧
        ∀ a, out a → ∃ id, Sends (msgOut s.dvl.addr a id (.jobCtl (.gather job))) s t) ∧
      (ready → (∀ a, ¬ out a) → (liveObjs s).length < 4194303 →
        ∃ t k o, exec (.jobComplete job) s = .next t ∧ jobOf t job = some k ∧ k.status = some sOk ∧ k.stepsDone = x.step ∧
          k.fingerprint = jobFingerprint ((memberFinal s c).2 ++ j.gathered.flatMap (·.fps)) ∧
          findObj t k.result = some o ∧ o.role = .result job ∧ o.ownerFn = j.fn ∧ memRead o.mem 0 bytes.length = bytes ∧
          (ctxOf t c).state = .done ∧ Logs 0x0402 s t ∧
          (∀ a ∈ j.members, a ≠ s.dvl.addr → ∃ id, Sends (msgOut s.dvl.addr a id (.jobCtl (.complete job))) s t) ∧
          ∀ w ∈ s.host.outst, w.wait = .job job →
            Answered w.src sOk (words64 k.result ++ words64 k.fingerprint ++ [x.step]) s t))

/-- Job control between modules (R178, R179, R183, R186, R188, R190, R218, R251, R281, R282, R338). At a member: it
reserves a context with room and answers it, or refuses; a commit of its reservation that fits is admitted with its peer
map and answered, and without a reservation refused; told of a fault it faults its context with PEER; a hold, resume or
cancel waits for the boundary of a running bank; completion and release end its context; it answers with its ledger, takes
one, keeps rows for a step to come, gathers what it has finished, and sends a list asked for. At the lead: the first fault
is recorded and passed on; the last commit that comes in admits the job and answers JOB.SUBMIT; the last member's end ends
a cancelled job; a projected finish is kept, and raises EV_DEADLINE_AT_RISK when it becomes a risk. A list that differs
from this member's own is counted and reported to the lead, an equal one is not; a repaired member reports the shards it
copied. A second copy of any of these messages changes nothing. -/
def Obligations.JobMessagesAct : Prop :=
  ∀ (h : MsgHdr) (job c : Nat) (s : State),
    let x := ctxOf s c
    let back (m : JobRsp) (t : State) : Prop := Sends (msgOut s.dvl.addr h.src s.dvl.nextMsgId (.jobRsp m)) s t
    (IsNew h s →
      (∀ tenant fn deadline seed steps pipe flags mb tag,
        let m := JobCtl.reserve job tenant fn deadline seed steps pipe flags mb tag
        (freeCtxId s = some c → ctxRoom s pipe = true → ∃ t, exec (.jobCtl h m) s = .next t ∧
          back (.reserved job c ((pipeStages s pipe).map (·.stage))) t ∧ (ctxOf t c).job = job ∧
          (ctxOf t c).tenant = tenant ∧ (ctxOf t c).steps = steps ∧ (ctxOf t c).pipeline = pipe ∧
          (ctxOf t c).state = .free ∧ (∀ d, d ≠ c → ctxOf t d = ctxOf s d) ∧ t.mem = s.mem) ∧
        (freeCtxId s = none ∨ ctxRoom s pipe = false → ∃ t, exec (.jobCtl h m) s = .next t ∧ back (.refused job) t ∧
          t.vnr = s.vnr ∧ t.mem = s.mem)) ∧
      (∀ v0 peers init hyper,
        let m := JobCtl.commit job c v0 peers init hyper
        let held := s.vnr.ctxs.find? fun e => e.2.job == job && e.2.state == .free
        (∀ y, held = some (c, y) → commitFits s c x.pipeline init = true → ∃ t, exec (.jobCtl h m) s = .next t ∧
          back (.committed job) t ∧ (ctxOf t c).state = .admitted ∧ (ctxOf t c).peers = peers ∧
          ∀ d, d ≠ c → ctxOf t d = ctxOf s d) ∧
        (held = none → ∃ t, exec (.jobCtl h m) s = .next t ∧ back (.refused job) t ∧ t.vnr.ctxs = s.vnr.ctxs ∧
          t.mem = s.mem)) ∧
      (∀ cause, ctxOfJob s job = some c → activeCtx x = true →
        (jobOf s job = none → ∃ t, exec (.jobCtl h (.fault job cause)) s = .next t ∧ (ctxOf t c).state = .faulted ∧
          (ctxOf t c).cause = 0x0C ∧ t.vnr.faultCnt = min (s.vnr.faultCnt + 1) 0xFFFF_FFFF) ∧
        ∀ j, jobOf s job = some j → j.status = none → j.cause = 0 → cause ≠ 0 →
          ∃ t k, exec (.jobCtl h (.fault job cause)) s = .next t ∧ (ctxOf t c).state = .faulted ∧
            (ctxOf t c).cause = 0x0C ∧ jobOf t job = some k ∧ k.cause = cause ∧ k.causeMember = h.src ∧
            ∀ a ∈ j.members, a ≠ h.src → a ≠ s.dvl.addr →
              ∃ id, Sends (msgOut s.dvl.addr a id (.jobCtl (.fault job 0x0C))) s t) ∧
      (jobOf s job = none → ctxOfJob s job = some c → s.jig.running = true → ∀ r,
        (∃ t, exec (.jobCtl h (.hold job r)) s = .next t ∧ (ctxOf t c).acts = x.acts ++ [.hold (holdOf r)]) ∧
        (∃ t, exec (.jobCtl h (.resume job r)) s = .next t ∧ (ctxOf t c).acts = x.acts ++ [.resume (holdOf r)]) ∧
        ∃ t, exec (.jobCtl h (.cancel job)) s = .next t ∧ (ctxOf t c).acts = x.acts ++ [.cancel]) ∧
      (ctxOfJob s job = some c →
        (∃ t, exec (.jobCtl h (.complete job)) s = .next t ∧ (ctxOf t c).state = .done) ∧
        (∃ t, exec (.jobCtl h (.free job)) s = .next t ∧ ctxOf t c = Ctx.free ∧ ∀ d, d ≠ c → ctxOf t d = ctxOf s d) ∧
        (∃ t, exec (.jobCtl h (.release job)) s = .next t ∧ ctxOf t c = Ctx.free) ∧
        (∀ l, ∃ t, exec (.jobCtl h (.ledgerLoad job l)) s = .next t ∧ back (.ledgerHeld job) t ∧ (ctxOf t c).replay = l ∧
          (ctxOf t c).replayLoaded = true) ∧
        (∀ m, activeCtx x = true → x.inputs = [] → x.step < m.step → ∃ t, exec (.jobCtl h (.input job m)) s = .next t ∧
          (ctxOf t c).inputs = [m] ∧ t.mq = s.mq) ∧
        (memberFinished s c = true → ∃ t, exec (.jobCtl h (.gather job)) s = .next t ∧ t.vnr = s.vnr ∧
          back (.gathered job true (memberFinal s c).1 (memberFinal s c).2) t) ∧
        (memberFinished s c = false → ∃ t, exec (.jobCtl h (.gather job)) s = .next t ∧ t.vnr = s.vnr ∧
          back (.gathered job false [] []) t)) ∧
      (∃ t, exec (.jobCtl h (.ledgerRead job)) s = .next t ∧ t.mem = s.mem ∧ t.vnr = s.vnr ∧
        back (.ledger job (ownLedger s job)) t) ∧
      (∀ j, jobOf s job = some j →
        (∀ time risk, ∃ t k, exec (.jobCtl h (.finish job time risk)) s = .next t ∧ jobOf t job = some k ∧
          k.finish = some time ∧ (risk = true → k.risk = true ∧ (j.risk = false → Logs 0x0201 s t)) ∧ t.mem = s.mem) ∧
        (j.admission = .committing [h.src] → ctxOfJob s job = some c →
          ∃ t, exec (.jobRsp h (.committed job)) s = .next t ∧ (jobOf t job).map (·.admission) = some .admitted ∧
            t.mem = s.mem ∧ ∀ w ∈ s.host.outst, w.wait = .submit job → Answered w.src sOk [job, c] s t) ∧
        (j.status = none → j.cause = 0 → j.deadlineCkp = false → j.cancelling = true →
          (∀ a ∈ j.members, a = h.src ∨ a ∈ j.doneMembers) →
          ∃ t, exec (.jobRsp h (.done job)) s = .next t ∧ (jobOf t job).map (·.status) = some (some 0x0404) ∧
            Logs 0x0402 s t ∧ ∀ w ∈ s.host.outst, w.wait = .cancel job → Answered w.src sOk [] s t)) ∧
      (∀ stage step,
        (ownList s job stage step = none → ∃ t, exec (.fpListReq h job stage step) s = .next t ∧ t.mem = s.mem ∧
          t.vnr = s.vnr ∧ Sends (msgOut s.dvl.addr h.src s.dvl.nextMsgId (.fpList job stage step 0 [])) s t) ∧
        ∀ f, ownList s job stage step = some f →
          (∃ t, exec (.fpListReq h job stage step) s = .next t ∧ t.mem = s.mem ∧ t.vnr = s.vnr ∧
            Sends (msgOut s.dvl.addr h.src s.dvl.nextMsgId
              (.fpList job stage step (listRank s job f) ((fpShards f).map (·.fp)))) s t) ∧
          (∀ rank fps y other, jobOf s job = none → firstDiff f fps = some (y, other) → leadAt s job ≠ s.dvl.addr →
            ∃ t, exec (.fpList h job stage step rank fps) s = .next t ∧ Logs 0x0603 s t ∧
              t.vnr.divergeCnt = min (s.vnr.divergeCnt + 1) 0xFFFF_FFFF ∧ t.mem = s.mem ∧
              Sends (msgOut s.dvl.addr (leadAt s job) s.dvl.nextMsgId (.jobCtl (.diverged job stage step y.no))) s t) ∧
          ∀ rank fps, jobOf s job = none → firstDiff f fps = none →
            ∃ t, exec (.fpList h job stage step rank fps) s = .next t ∧ t.vnr = s.vnr ∧ t.mem = s.mem)) ∧
    (∀ stage shards,
      (∀ step v, (x.repairs.find? fun r => r.1 == stage) = some (stage, step) → currentVer x stage = some v →
        leadAt s x.job ≠ s.dvl.addr →
        ∃ t, exec (.replicaRepair c stage shards) s = .next t ∧
          (ctxOf t c).repairs = x.repairs.filter (· != (stage, step)) ∧
          (verOf t c stage v).objects.map (·.1) = (verOf s c stage v).objects.map (·.1) ∧
          Sends (msgOut s.dvl.addr (leadAt s x.job) s.dvl.nextMsgId (.jobRsp (.repaired x.job stage step
            ((fpListOf x stage step).shards.filter fun y => shards.any fun b => b.1 == y.no).length))) s t) ∧
      ((x.repairs.find? fun r => r.1 == stage) = none ∨ currentVer x stage = none →
        ∃ t, exec (.replicaRepair c stage shards) s = .next t ∧ UnitsKept s t)) ∧
    (¬ IsNew h s → ∀ m r stage step rank fps, ∀ i ∈ [Instr.jobCtl h m, .jobRsp h r, .fpListReq h job stage step,
      .fpList h job stage step rank fps], ∃ t, exec i s = .next t ∧ UnitsKept s t)

/-! ### Collectives and kerf commands (chapters 8 and 9) -/

/-- GLU.* commands (R251, R252). GLU.QUERY answers the deferrals, drops and mismatches of the job's context here.
GLU.LEDGER_READ asks every other member of the job for its records and waits for those that are not in; with all in, the
sorted ledger is written, and its length answered, or S_NO_RESOURCE where the object is too small. GLU.LEDGER_LOAD of an
ADMITTED REPLAY job keeps the records of a valid object here, sends them to every other member, and waits for those that
do not hold them yet. A job that the issuer may not name is S_JOB_UNKNOWN, a job that is not an ADMITTED REPLAY one
S_CTX_STATE, an invalid ledger object S_BAD_FIELD, and an object that the issuer may not use has its own status. KRF.*
commands (R273, R276, R284, R285), on a context that the issuer sees: any other is S_JOB_UNKNOWN, and rsvd flag bits, or
a histogram slot, exponent or loss figure out of range, S_BAD_FIELD. KRF.READ writes the snapshot into an object, and
KRF.FP_READ the fingerprint list of a stage and step, S_FP_ABSENT where there is none; an object too small is
S_NO_RESOURCE, and one that the issuer may not write has its own status. KRF.CLEAR, KRF.HIST_SET and KRF.LOSS_SET wait
for the next frame boundary while a bank runs, and act at once with none running (the model's choice, log entry 24): the
parts named are cleared, and k, alpha and warmup outlast a clear; the slot's first exponent and its clearing are set,
and its bins cleared; the figures of the monitor are set; and no other context changes. -/
def Obligations.LedgersAndKerfAreReadAndSet : Prop :=
  (∀ (src : Src) (p : Bytes) (s : State),
    let job := getLE p 0 4
    let h := getLE p 8 8
    let refused (c : Instr) (st : Nat) : Prop := ∃ t, exec c s = .next t ∧ Answered src st [] s t ∧ UnitsKept s t
    let others (j : Job) : List Nat := j.ledgerGot.filter (fun g => g.1 != s.dvl.addr) |>.map (·.1)
    let lacks (j : Job) : Prop := ∃ m ∈ j.members, m ≠ s.dvl.addr ∧ m ∉ others j
    let told (m : JobCtl) (j : Job) (t : State) : Prop :=
      ∀ a ∈ j.members, a ≠ s.dvl.addr → ∃ id, Sends (msgOut s.dvl.addr a id (.jobCtl m)) s t
    (Starts ⟨src, 0x0501, .gluQuery src p, false, [(4, 44)], p⟩ s →
      ((∀ c, ctxOfJob s job = some c → cmdCtx s src c = none) → refused (.gluQuery src p) sJobUnknown) ∧
      ∀ c x, ctxOfJob s job = some c → cmdCtx s src c = some x → ∃ t, exec (.gluQuery src p) s = .next t ∧
        Answered src sOk [x.deferrals % 2 ^ 32, x.drops % 2 ^ 32, x.mismatches % 2 ^ 32] s t ∧ UnitsKept s t) ∧
    (Starts ⟨src, 0x0502, .gluLedgerRead src p, false, [(4, 4), (0x10, 32)], p⟩ s →
      (cmdJob s src job = none → refused (.gluLedgerRead src p) sJobUnknown) ∧
      ∀ j, cmdJob s src job = some j →
        (∀ st, cmdObj s src h 2 = .error st → refused (.gluLedgerRead src p) st) ∧
        ∀ o, cmdObj s src h 2 = .ok o →
          (lacks j → ∃ t, exec (.gluLedgerRead src p) s = .next t ∧ Waits src (.ledgerRead job h) t ∧
            told (.ledgerRead job) j t ∧ t.mem = s.mem) ∧
          ∀ l, ¬ lacks j → Unlisted src s → l = sortBy (fun a b : List Nat => !ledgerLt b a)
              (ownLedger s job ++ (j.ledgerGot.filter fun g => g.1 != s.dvl.addr).flatMap (·.2)).eraseDups →
            (o.size < 64 + 16 * l.length → ∃ t, exec (.gluLedgerRead src p) s = .next t ∧ told (.ledgerRead job) j t ∧
              Answered src sNoResource [] s t ∧ findObj t h = some o) ∧
            (64 + 16 * l.length ≤ o.size → Memory.wf o.mem = true → ∃ t o', exec (.gluLedgerRead src p) s = .next t ∧
              Answered src sOk [l.length] s t ∧ told (.ledgerRead job) j t ∧ findObj t h = some o' ∧
              memRead o'.mem 0 (ledgerBytes job l).length = ledgerBytes job l)) ∧
    (Starts ⟨src, 0x0503, .gluLedgerLoad src p, false, [(4, 4), (0x10, 32)], p⟩ s →
      (cmdJob s src job = none → refused (.gluLedgerLoad src p) sJobUnknown) ∧
      ∀ j, cmdJob s src job = some j →
        ((bit j.flags 1 = false ∨ ∀ c, ctxOfJob s job = some c → (ctxOf s c).state ≠ .admitted) →
          refused (.gluLedgerLoad src p) sCtxState) ∧
        ∀ c, bit j.flags 1 = true → ctxOfJob s job = some c → (ctxOf s c).state = .admitted →
          (∀ st, cmdObj s src h 1 = .error st → refused (.gluLedgerLoad src p) st) ∧
          ∀ o, cmdObj s src h 1 = .ok o →
            (parseLedger (objRead o 0 o.size) = none → refused (.gluLedgerLoad src p) sBadField) ∧
            ∀ l, parseLedger (objRead o 0 o.size) = some l → ∃ t, exec (.gluLedgerLoad src p) s = .next t ∧
              (ctxOf t c).replay = l ∧ (ctxOf t c).replayLoaded = true ∧ told (.ledgerLoad job l) j t ∧ t.mem = s.mem ∧
              (∀ d, d ≠ c → ctxOf t d = ctxOf s d) ∧ (lacks j → Waits src (.ledgerLoad job) t) ∧
              (¬ lacks j → Unlisted src s → Answered src sOk [] s t))) ∧
  (∀ (src : Src) (p : Bytes) (s : State),
    let c := getLE p 0 2
    let h := getLE p 8 8
    let refused (i : Instr) (st : Nat) : Prop := ∃ t, exec i s = .next t ∧ Answered src st [] s t ∧ UnitsKept s t
    let waits (i : Instr) (w : Wait) : Prop := ∃ t, exec i s = .next t ∧ Waits src w t ∧ UnitsKept s t
    let acts (i : Instr) (g : Ctx → Prop) : Prop := Unlisted src s → ∃ t, exec i s = .next t ∧ Answered src sOk [] s t ∧
      g (ctxOf t c) ∧ (∀ d, d ≠ c → ctxOf t d = ctxOf s d) ∧ t.mem = s.mem ∧ t.mq = s.mq ∧ t.tile = s.tile
    let writes (i : Instr) (bs : Bytes) : Prop := (∀ st, cmdObj s src h 2 = .error st → refused i st) ∧
      ∀ o, cmdObj s src h 2 = .ok o → (o.size < bs.length → refused i sNoResource) ∧
        (bs.length ≤ o.size → Memory.wf o.mem = true → ∃ t o', exec i s = .next t ∧ Answered src sOk [] s t ∧
          findObj t h = some o' ∧ memRead o'.mem 0 bs.length = bs ∧ t.vnr = s.vnr ∧
          ∀ k, k ≠ h → findObj t k = findObj s k)
    let slot := getLE p 2 1
    let e0 := signed 16 (getLE p 4 2)
    let slotFine := 1 ≤ slot ∧ slot ≤ 16 ∧ -149 ≤ e0 ∧ e0 ≤ 66
    let lossFine := posF32 (getLE p 4 4) = true ∧ 1 ≤ getLE p 8 4 ∧ getLE p 8 4 ≤ 0x3F80_0000 ∧ getLE p 0x0C 4 ≤ 65535
    (Starts ⟨src, 0x0601, .krfRead src p, false, [(2, 6), (0x10, 32)], p⟩ s →
      (cmdCtx s src c = none → refused (.krfRead src p) sJobUnknown) ∧
      ∀ x, cmdCtx s src c = some x → writes (.krfRead src p) (kerfSnapshotBytes s c)) ∧
    (Starts ⟨src, 0x0602, .krfClear src p, false, [(3, 45)], p⟩ s →
      (7 < slot → refused (.krfClear src p) sBadField) ∧
      (slot ≤ 7 → cmdCtx s src c = none → refused (.krfClear src p) sJobUnknown) ∧
      ∀ x, slot ≤ 7 → cmdCtx s src c = some x →
        (s.jig.running = true → waits (.krfClear src p) (.krfClear c slot)) ∧
        (s.jig.running = false → acts (.krfClear src p) fun y =>
          y.kerf = (if bit slot 0 then [] else x.kerf) ∧ y.hist = (if bit slot 1 then [] else x.hist) ∧
          y.loss = (if bit slot 2 then { LossMon.reset with k := x.loss.k, alpha := x.loss.alpha, warmup := x.loss.warmup }
            else x.loss))) ∧
    (Starts ⟨src, 0x0603, .krfHistSet src p, false, [(6, 42)], p⟩ s →
      (1 < getLE p 3 1 → refused (.krfHistSet src p) sBadField) ∧
      (getLE p 3 1 ≤ 1 → cmdCtx s src c = none → refused (.krfHistSet src p) sJobUnknown) ∧
      ∀ x, getLE p 3 1 ≤ 1 → cmdCtx s src c = some x → (¬ slotFine → refused (.krfHistSet src p) sBadField) ∧
        (slotFine → s.jig.running = true → waits (.krfHistSet src p) (.krfHist c slot (getLE p 3 1) e0)) ∧
        (slotFine → s.jig.running = false → acts (.krfHistSet src p) fun y =>
          histOf y slot = ⟨e0, bit (getLE p 3 1) 0⟩ ∧ (∀ n, n ≠ slot → histOf y n = histOf x n) ∧ y.kerf = x.kerf ∧
          y.hist = x.hist.filter fun e => e.1 / 64 != slot - 1)) ∧
    (Starts ⟨src, 0x0604, .krfLossSet src p, false, [(2, 2), (0x10, 32)], p⟩ s →
      (cmdCtx s src c = none → refused (.krfLossSet src p) sJobUnknown) ∧
      ∀ x, cmdCtx s src c = some x → (¬ lossFine → refused (.krfLossSet src p) sBadField) ∧
        (lossFine → s.jig.running = true →
          waits (.krfLossSet src p) (.krfLoss c (getLE p 4 4) (getLE p 8 4) (getLE p 0x0C 4))) ∧
        (lossFine → s.jig.running = false → acts (.krfLossSet src p) fun y => y.kerf = x.kerf ∧ y.hist = x.hist ∧
          y.loss = { x.loss with k := getLE p 4 4, alpha := getLE p 8 4, warmup := getLE p 0x0C 4 })) ∧
    (Starts ⟨src, 0x0605, .krfFpRead src p, false, [(0x10, 32)], p⟩ s →
      (cmdCtx s src c = none → refused (.krfFpRead src p) sJobUnknown) ∧
      ∀ x, cmdCtx s src c = some x →
        let l := x.fps.find? fun f => f.stage == getLE p 2 2 && f.step == getLE p 4 4
        (l = none → refused (.krfFpRead src p) 0x0601) ∧ ∀ f, l = some f → writes (.krfFpRead src p) (fpBytes f)))

/-- Ops that carry a collective (R227, R232, R240, R242): GEMM_RS, AG_GEMM, GEMM_AR, BARRIER and attention with a ring join
their instance as one more part, with the operands they read, and no destination changes yet; the first part opens the
instance, the last one starts the member, and an op of a stopped instance ends with S_COLL_MISMATCH. Messages (R234, R235,
R237-R239, R242, R246): a duplicate, one with a bad CRC, and one of a rank that is not its sender's are discarded, the last
counted and logged. A first message gives its signature; a wrong configuration makes its sender late, and another signature
before close_t stops the instance. Segments of a contribution gather by rank, a page credit returns for each, and a complete
one joins the order, or is kept or dropped where the sum is closed; segments of a gathered or reduced chunk join that chunk;
data of another signature is discarded; a proposal is kept with its rank, and the last one agrees the anchors; agreed anchors
are kept with their owner; a credit frees a page of its sender's; an ABORT stops an instance that has not committed, counts a
mismatch, raises its event and goes on to the next rank, and a committed instance absorbs it. Instants (R238, R240,
R245-R247): at the anchor deadline an owner that does not wait for everyone agrees the anchors of its chunk; at close_t an
owner that absorbs lateness enters each late rank in its ledger, and with the ledger full waits instead, with one event; a
member commits once it holds its results and signatures, a BARRIER then writes what its chunks hold, and before that nothing
happens; a member whose instance runs out of time abandons it and reports the missing ranks to its lead. -/
def Obligations.CollectivesGatherAndCommit : Prop :=
  (∀ (r : OpRun) (d : Bytes) (c : Nat) (ls : List (Opnd × Loc)) (i : Instr) (ops : List Bytes) (s : State),
    OpRuns r d c ls s →
    (i = .gemmRs r d ∧ dKind d = 3) ∨ (i = .agGemm r d ∧ dKind d = 4) ∨ (i = .gemmAr r d ∧ dKind d = 5) ∨
      (i = .barrier r d ∧ dKind d = 0x16) ∨ (i = .attnFwd r d ∧ dKind d = 6 ∧ attnRing d = true) ∨
      (i = .attnBwd r d ∧ dKind d = 7 ∧ attnRing d = true) →
    let e := opEnv (opTurn r d s) r d c
    let b := opBegins r d c ls s
    let k : InstKey := ⟨cId (collExt d), (ctxOf s c).job, e.step⟩
    let part : CollPart := ⟨r.tile.val, r.mb, d, ops⟩
    let opened := match instOf s k with
      | some x => if x.committed then instOf (newInst k c r.tile.val d b) k else some x
      | none => instOf (newInst k c r.tile.val d b) k
    partOperands b e d = .ok ops →
    ∀ x, opened = some x → ∃ t, exec i s = .next t ∧ t.tile.store = b.tile.store ∧ t.tile.window = b.tile.window ∧
      t.mem = s.mem ∧ t.mq = s.mq ∧
      (x.stopped = true → instOf t k = some x ∧ (tileOf t r.tile.val).opStatus = 0x0501) ∧
      (x.stopped = false → x.parts.length + 1 ≠ x.expected →
        instOf t k = some { x with parts := x.parts ++ [part] } ∧ t.vnr = s.vnr) ∧
      (x.stopped = false → x.parts.length + 1 = x.expected →
        ∃ y, instOf t k = some y ∧ y.ready = true ∧ y.parts = x.parts ++ [part])) ∧
  (∀ (m : MsgHdr) (hdr payload : Bytes) (k : InstKey) (i : Inst) (s : State),
    let h := slice hdr 0 64
    let r := hRank h
    let nexts := i.members.getD ((i.rank + 1) % max i.members.length 1) 0
    let speaks := s.dvl.hold = false ∧ activeCtx (ctxOf s i.ctx) = true
    let sends (a type : Nat) (t : State) : Prop :=
      ∃ b, hType b = type ∧ Sends (msgOut s.dvl.addr a s.dvl.nextMsgId (.coll b [])) s t
    let kept (t : State) : Prop := t.glu = s.glu ∧ t.mem = s.mem ∧ t.tile = s.tile ∧ t.mq = s.mq ∧ t.vnr = s.vnr
    let all : List Instr := [.collData m hdr payload, .anchorPropose m hdr payload, .anchorAgree m hdr payload,
      .collResult m hdr payload, .collAbort m hdr, .collCredit m hdr]
    (¬ IsNew m s → ∀ c ∈ all, ∃ t, exec c s = .next t ∧ UnitsKept s t) ∧
    (crc32c (slice h 0 0x3C) ≠ getLE h 0x3C 4 → ∀ c ∈ all, ∃ t, exec c s = .next t ∧ kept t) ∧
    (IsNew m s → crc32c (slice h 0 0x3C) = getLE h 0x3C 4 → activeCtx (ctxOf s (hCtx h)) = true →
      k = ⟨hColl h, (ctxOf s (hCtx h)).job, hStep h⟩ → instOf s k = some i → i.members[r]? ≠ some m.src →
      ∀ c ∈ all, ∃ t, exec c s = .next t ∧ Logs 0x0B82 s t ∧ t.mem = s.mem ∧ t.tile = s.tile ∧
        t.glu = { s.glu with mismatchCnt := min (s.glu.mismatchCnt + 1) 0xFFFF_FFFF }) ∧
    (ReachesInst true m hdr k i s →
      let bad := getLE h 0x14 4 ≠ s.dvl.epoch ∨ getLE h 0x18 16 ≠ s.dvl.digest
      (hSig h = i.signature → ∃ t y, exec (.collData m hdr []) s = .next t ∧ instOf t k = some y ∧ y.stopped = false ∧
        (y.firstSeen.any fun f => f.1 == r) = true ∧ (bad → r ∈ y.late) ∧ (¬ bad → y.late = i.late) ∧
        t.mem = s.mem ∧ t.tile = s.tile) ∧
      (hSig h ≠ i.signature → i.committed = false → s.now < i.closeT → i.closed = false →
        ∃ t y, exec (.collData m hdr []) s = .next t ∧ instOf t k = some y ∧ y.stopped = true ∧ y.got = [] ∧ y.res = [] ∧
          t.glu.mismatchCnt = min (s.glu.mismatchCnt + 1) 0xFFFF_FFFF ∧ Logs 0x0501 s t ∧ t.mem = s.mem ∧
          t.tile.store = s.tile.store ∧ t.tile.window = s.tile.window)) ∧
    (ReachesInst false m hdr k i s →
      let j := ownerOfRow i (hRow h)
      let mine := reduces i = true ∧ (dKind i.desc ≠ 7 ∨ (j = i.rank ∧ gatheredAll i = true))
      let got := gotOf i r ++ payload
      (payload = [] ∨ hSig h ≠ i.signature → ∃ t, exec (.collData m hdr payload) s = .next t ∧ kept t) ∧
      (payload ≠ [] → hSig h = i.signature → mine →
        (got.length < contribBytes i ∨ i.order.contains r = true → ∃ t y, exec (.collData m hdr payload) s = .next t ∧ instOf t k = some y ∧
          gotOf y r = got ∧ y.order = i.order ∧ y.res = i.res ∧ t.mem = s.mem ∧ t.tile = s.tile ∧
          (r ≠ i.rank → speaks → sends m.src 6 t)) ∧
        (contribBytes i ≤ got.length → i.order.contains r = false →
          ∃ t y, exec (.collData m hdr payload) s = .next t ∧ instOf t k = some y ∧ y.order = i.order ++ [r] ∧
            t.mem = s.mem ∧ t.tile.store = s.tile.store ∧ (r ≠ i.rank → speaks → sends m.src 6 t) ∧
            (i.summed = true → latePolicy s i r = 1 → t.glu.dropCnt = min (s.glu.dropCnt + 1) 0xFFFF_FFFF) ∧
            (i.summed = true → latePolicy s i r ≠ 1 → t.glu.deferred = s.glu.deferred ++ [⟨k, r, got⟩]) ∧
            ∀ z : Inst, z = { i with order := i.order ++ [r], got := tset i.got r got } → i.summed = false →
              (sumReady s z = false → y.summed = false ∧ y.stopped = false) ∧
              (sumReady s z = true → chunkRows i i.rank ≠ [] →
                if isWideSum i && !anchorsMeet (wideParts s z).1 then y.stopped = true else y.summed = true))) ∧
      (payload ≠ [] → hSig h = i.signature → ¬ mine →
        isRing i.desc = false ∨ dKind i.desc = 6 ∨ i.ready = false ∨
          (tget [] i.res j ++ payload).length < chunkBytes i j →
        ∃ t y, exec (.collData m hdr payload) s = .next t ∧ instOf t k = some y ∧ y.got = i.got ∧
          tget [] y.res j = tget [] i.res j ++ payload ∧ t.mem = s.mem ∧ t.tile = s.tile) ∧
      (isRing i.desc = false → ∃ t y, exec (.collResult m hdr payload) s = .next t ∧ instOf t k = some y ∧
        tget [] y.res r = tget [] i.res r ++ payload ∧ y.got = i.got ∧ t.mem = s.mem ∧ t.tile = s.tile) ∧
      (∀ known : Bool, known = (i.proposals.any fun p => p.1 == r) →
        (known = true → ∃ t, exec (.anchorPropose m hdr payload) s = .next t ∧ kept t) ∧
        (known = false → ∃ t y, exec (.anchorPropose m hdr payload) s = .next t ∧ instOf t k = some y ∧
          y.proposals = i.proposals ++ [(r, anchorBytes payload)] ∧ t.mem = s.mem ∧
          (i.proposals.length + 1 ≠ i.members.length → y.agreed = i.agreed ∧ t.tile = s.tile) ∧
          (i.proposals.length + 1 = i.members.length → (y.agreed.any fun a => a.1 == i.rank) = true))) ∧
      (∀ known : Bool, known = (i.agreed.any fun a => a.1 == r) →
        (known = true → ∃ t, exec (.anchorAgree m hdr payload) s = .next t ∧ kept t) ∧
        (known = false → ∃ t y, exec (.anchorAgree m hdr payload) s = .next t ∧ instOf t k = some y ∧
          y.agreed = i.agreed ++ [(r, anchorBytes payload)] ∧ t.mem = s.mem)) ∧
      (∃ t, exec (.collCredit m hdr) s = .next t ∧ tget 0 t.glu.credits m.src = tget 0 s.glu.credits m.src - 1 ∧
        (∀ a, a ≠ m.src → tget 0 t.glu.credits a = tget 0 s.glu.credits a) ∧ t.glu.insts = s.glu.insts ∧ t.mem = s.mem ∧
        t.tile = s.tile) ∧
      (i.committed = true → ∃ t, exec (.collAbort m hdr) s = .next t ∧ kept t) ∧
      (i.committed = false → ∃ t y, exec (.collAbort m hdr) s = .next t ∧ instOf t k = some y ∧ y.stopped = true ∧
        y.got = [] ∧ y.res = [] ∧ t.glu.mismatchCnt = min (s.glu.mismatchCnt + 1) 0xFFFF_FFFF ∧ Logs 0x0501 s t ∧
        (speaks → sends nexts 5 t) ∧ t.mem = s.mem ∧ t.tile.store = s.tile.store ∧ t.tile.window = s.tile.window))) ∧
  (∀ (k : InstKey) (s : State), instOf s k = none →
    ∀ c ∈ [Instr.anchorDeadline k, .closeT k, .collCommit k, .collTimeout k], ∃ t, exec c s = .next t ∧ UnitsKept s t) ∧
  (∀ (k : InstKey) (i : Inst) (s : State), instOf s k = some i →
    let x := ctxOf s i.ctx
    (let missing := (List.range i.members.length).filter fun r =>
        !(i.proposals.any fun p => p.1 == r) && !(forcedLate s i).contains r
      let owner := i.stopped = false ∧ isWideSum i = true ∧ chunkRows i i.rank ≠ []
      (owner → waitsAll s i = false ∨ missing = [] → ∃ t y, exec (.anchorDeadline k) s = .next t ∧ instOf t k = some y ∧
        (y.agreed.any fun a => a.1 == i.rank) = true ∧ i.anchorT ≤ t.now) ∧
      (¬ owner ∨ (waitsAll s i = true ∧ missing ≠ []) → ∃ t, exec (.anchorDeadline k) s = .next t ∧ t.glu = s.glu ∧
        t.vnr = s.vnr ∧ i.anchorT ≤ t.now ∧ t.mem = s.mem ∧ t.tile = s.tile)) ∧
    (i.closed = true ∨ i.stopped = true → ∃ t, exec (.closeT k) s = .next t ∧ t.glu = s.glu ∧ t.vnr = s.vnr ∧
      t.mem = s.mem ∧ t.tile = s.tile) ∧
    (i.stopped = false → i.closed = false →
      (absorbs i = false ∨ chunkRows i i.rank = [] → ∃ t, exec (.closeT k) s = .next t ∧
        instOf t k = some { i with closed := true } ∧ i.closeT ≤ t.now ∧ t.mem = s.mem ∧ t.tile = s.tile) ∧
      ∀ lates, absorbs i = true → chunkRows i i.rank ≠ [] →
        lates = (if isReplay x then forcedLate s i else if waitsAll s i then []
          else (List.range i.members.length).filter fun r => !i.order.contains r || i.late.contains r) →
        (x.ledger.length + lates.length ≤ 1048576 → deferredFor s i = [] →
          ∃ t, exec (.closeT k) s = .next t ∧ (instOf t k).map (·.closed) = some true ∧ i.closeT ≤ t.now ∧
            (ctxOf t i.ctx).ledger = x.ledger ++ lates.map (fun r => [k.coll, k.step, r, latePolicy s i r, 0, i.rank]) ∧
            t.glu.lateCnt = min (s.glu.lateCnt + lates.length) 0xFFFF_FFFF ∧ t.mem = s.mem) ∧
        (1048576 < x.ledger.length + lates.length → ∃ t, exec (.closeT k) s = .next t ∧
          instOf t k = some { i with late := [] } ∧ (ctxOf t i.ctx).ledger = x.ledger ∧
          (x.ledgerFull = false → Logs 0x0503 s t ∧ (ctxOf t i.ctx).ledgerFull = true) ∧ t.mem = s.mem)) ∧
    (canCommit s i = true → ∃ t y, exec (.collCommit k) s = .next t ∧ instOf t k = some y ∧ y.committed = true ∧
      y.parts = [] ∧ t.mq = s.mq ∧
      ∀ p a bs, i.parts = [p] → dKind p.desc = 0x16 → cCount (collExt p.desc) ≠ 0 →
        let fmt := if instOp i = 3 then cType (collExt p.desc) else collFmt p.desc
        isMx fmt = false → bs = packCodes fmt ((List.range (cLen (collExt p.desc))).map fun n =>
            (stagedElem i fmt (cOff (collExt p.desc) + n)).1) →
        resolve s (opEnvAt s p.tile p.mb p.desc i.ctx) (getLE p.desc 0x14 4) bs.length = .ok (.store a) →
        Memory.wf s.tile.store = true → memRead t.tile.store a bs.length = bs) ∧
    (canCommit s i = false → ∃ t, exec (.collCommit k) s = .next t ∧ UnitsKept s t) ∧
    (i.committed = true ∨ i.stopped = true ∨ holdsResults i = true → ∃ t, exec (.collTimeout k) s = .next t ∧
      UnitsKept s t) ∧
    (i.committed = false → i.stopped = false → holdsResults i = false →
      leadAt s k.job ≠ s.dvl.addr ∨ (∀ j, jobOf s k.job = some j → j.timeouts.contains (k.coll, k.step) = true) →
      ∃ t, exec (.collTimeout k) s = .next t ∧ (instOf t k).map (·.stopped) = some true ∧ Logs 0x0504 s t ∧ t.mem = s.mem ∧
        (leadAt s k.job ≠ s.dvl.addr → Sends (msgOut s.dvl.addr (leadAt s k.job) s.dvl.nextMsgId
          (.jobCtl (.missing k.job k.coll k.step (missingRanks i)))) s t)))

/-! ### Dovetail (chapter 11) -/

/-- DVL.* and CFG.* commands (R353, R359, R360). A query answers the port's register words, and DVL.CONFIG sets the replay
limits. DVL.PORT enables, disables or retrains a port: it answers at once for one that is UP, or that is not and is
disabled; a DISABLED one starts and the command waits; an UP one goes DOWN into DISABLED, or retrains. A sound configuration
set, with a sound map where it names one, of the next epoch is staged for its T, and in HOLD one that the neighbours are at
already takes effect at once where T is past; cancelled before its last millisecond it is forgotten; CFG.QUERY answers what is
in force and what is staged. Storage-class ports (R342, R343, R360): EXT_READ and EXT_WRITE of a port with its gateway UP
take the lowest free tag, send their messages, in segments of 64 KiB, and wait; data of a read lands in its object, and the
last answers it; an acknowledgement, an error or a timeout ends the command that its tag names, with its status; of any
other tag they do nothing. A command out of its limits, on an object that it may not use, on a port that is not there, or
too late is refused with the status of its rule and changes nothing. -/
def Obligations.FabricCommandsAct : Prop :=
  (∀ (src : Src) (p : Bytes) (s : State),
    let refused (c : Instr) (st : Nat) (ws : List Nat) : Prop :=
      ∃ t, exec c s = .next t ∧ Answered src st ws s t ∧ UnitsKept s t
    let n := getLE p 0 1
    let x := portOf s n
    (Starts ⟨src, 0x0801, .dvlQuery src p, false, [(1, 47)], p⟩ s →
      (32 ≤ n → refused (.dvlQuery src p) sBadField []) ∧ (n < 32 → refused (.dvlQuery src p) sOk (dvlPortWords s n))) ∧
    (Starts ⟨src, 0x0802, .dvlConfig src p, true, [(3, 45)], p⟩ s →
      let fine := 16 ≤ getLE p 0 2 ∧ 1 ≤ getLE p 2 1 ∧ getLE p 2 1 ≤ 64
      (¬ fine → refused (.dvlConfig src p) sBadField []) ∧
      (fine → ∃ t, exec (.dvlConfig src p) s = .next t ∧ Answered src sOk [] s t ∧
        t.dvl = { s.dvl with nEv := getLE p 0 2, nWin := getLE p 2 1 } ∧ t.mem = s.mem)) ∧
    (Starts ⟨src, 0x0803, .dvlPort src p, true, [(2, 46)], p⟩ s →
      let act := getLE p 1 1
      let there := n < 32 ∧ (isS n = false ∨ gatewayOf s n ≠ 0)
      (32 ≤ n ∨ 2 < act → refused (.dvlPort src p) sBadField []) ∧
      (n < 32 → act ≤ 2 → ¬ there → refused (.dvlPort src p) 0x0801 []) ∧
      (there → act = 0 → (x.state = 4 → refused (.dvlPort src p) sOk [4]) ∧
        (x.state = 0 → ∃ t, exec (.dvlPort src p) s = .next t ∧ Waits src (.port n) t ∧ t.mem = s.mem ∧
          (portOf t n).state = (if x.litLow || x.litHigh then 2 else 1) ∧
          (x.litLow = true ∨ x.litHigh = true → ∃ i l, Sends (.flit n (.init i) l) s t) ∧
          ∀ q, q ≠ n → portOf t q = portOf s q) ∧
        (x.state ≠ 4 → x.state ≠ 0 → ∃ t, exec (.dvlPort src p) s = .next t ∧ Waits src (.port n) t ∧ UnitsKept s t)) ∧
      (there → act = 1 → Unlisted src s →
        (x.state ≠ 4 → x.retraining = false → ∃ t, exec (.dvlPort src p) s = .next t ∧ Answered src sOk [0] s t ∧
          portOf t n = coldPort 0 x ∧ (∀ q, q ≠ n → portOf t q = portOf s q) ∧ t.mem = s.mem) ∧
        (x.state = 4 ∨ x.retraining = true → ∃ t, exec (.dvlPort src p) s = .next t ∧ Answered src sOk [0] s t ∧
          (portOf t n).state = 0 ∧ (portOf t n).downs = min 255 (x.downs + 1) ∧ (portOf t n).window = [] ∧
          Logs 0x0801 s t)) ∧
      (there → act = 2 → (x.state ≠ 4 → refused (.dvlPort src p) 0x0801 []) ∧
        (x.state = 4 → ∃ t, exec (.dvlPort src p) s = .next t ∧ Waits src (.port n) t ∧ (portOf t n).state = 2 ∧
          (portOf t n).retraining = true ∧ (portOf t n).window = x.window ∧ (∃ l, Sends (.flit n .retrain l) s t) ∧
          (∃ i l, Sends (.flit n (.init i) l) s t) ∧ ∀ q, q ≠ n → portOf t q = portOf s q))) ∧
    (Starts ⟨src, 0x0811, .cfgStage src p, true, [(0x14, 28)], p⟩ s →
      (s.dvl.staged.isSome = true → refused (.cfgStage src p) 0x0807 []) ∧
      (s.dvl.staged = none → ∀ st, cmdObj s src (getLE p 0 8) 1 = .error st → refused (.cfgStage src p) st []) ∧
      ∀ o, s.dvl.staged = none → cmdObj s src (getLE p 0 8) 1 = .ok o →
        let raw := objRead o 0 o.size
        let b := setBytes raw
        let d := setDigest b
        let epoch := getLE p 0x10 4
        let at_ := getLE p 8 8
        let mapIs (m : Option Bytes) : Prop := (getLE b 0x18 8 = 0 ∧ m = none) ∨
          (getLE b 0x18 8 ≠ 0 ∧ ∃ y mb, cmdObj s src (getLE b 0x18 8) 1 = .ok y ∧ mb = objRead y 0 y.size ∧
            mapOk mb = true ∧ sha256 (slice mb 0 (mapLen mb)) = slice b 0x20 32 ∧ m = some (slice mb 0 (mapLen mb)))
        let behind := s.dvl.hold = true ∧ (majorityPair s).map (·.1) = some epoch
        let soon := at_ < s.now + 10000000 ∨ s.now + 86400000000000 < at_
        (setOk raw epoch = false ∨ (∀ m, ¬ mapIs m) → refused (.cfgStage src p) 0x0806 []) ∧
        ∀ m, setOk raw epoch = true → mapIs m →
          (epoch ≠ s.dvl.epoch + 1 → ¬ behind → refused (.cfgStage src p) 0x0804 []) ∧
          (epoch = s.dvl.epoch + 1 ∨ behind →
            let words := [d % 2 ^ 32, d / 2 ^ 32 % 2 ^ 32, d / 2 ^ 64 % 2 ^ 32, d / 2 ^ 96 % 2 ^ 32]
            (¬ (behind ∧ at_ ≤ s.now) → soon → refused (.cfgStage src p) 0x0805 []) ∧
            (¬ (behind ∧ at_ ≤ s.now) → ¬ soon → ∃ t, exec (.cfgStage src p) s = .next t ∧
              Answered src sOk words s t ∧ t.dvl = { s.dvl with staged := some ⟨epoch, d, at_, b, m⟩ } ∧ t.mem = s.mem) ∧
            (behind → at_ ≤ s.now → ∃ t, exec (.cfgStage src p) s = .next t ∧ Answered src sOk words s t ∧
              t.dvl.epoch = epoch ∧ t.dvl.digest = d ∧ t.dvl.set = b ∧ t.dvl.staged = none ∧
              t.dvl.map = m.orElse fun _ => s.dvl.map))) ∧
    (Starts ⟨src, 0x0812, .cfgCancel src p, true, [(0, 48)], p⟩ s →
      (s.dvl.staged = none → refused (.cfgCancel src p) sOk []) ∧
      ∀ g, s.dvl.staged = some g → (g.t < s.now + 1000000 → refused (.cfgCancel src p) 0x0805 []) ∧
        (s.now + 1000000 ≤ g.t → ∃ t, exec (.cfgCancel src p) s = .next t ∧ Answered src sOk [] s t ∧
          t.dvl = { s.dvl with staged := none } ∧ t.mem = s.mem)) ∧
    (Starts ⟨src, 0x0813, .cfgQuery src p, false, [(0, 48)], p⟩ s →
      refused (.cfgQuery src p) sOk ([s.dvl.epoch, s.dvl.digest % 2 ^ 32, s.dvl.digest / 2 ^ 32 % 2 ^ 32,
        s.dvl.digest / 2 ^ 64 % 2 ^ 32, s.dvl.digest / 2 ^ 96 % 2 ^ 32, (s.dvl.staged.map (·.epoch)).getD 0] ++
        words64 ((s.dvl.staged.map (·.t)).getD 0)))) ∧
  (∀ (src : Src) (p : Bytes) (read : Bool) (c : Instr) (s : State),
    c = (if read then .dvlExtRead src p else .dvlExtWrite src p) →
    Starts ⟨src, if read then 0x0804 else 0x0805, c, false, [(1, 7), (0x1C, 4)], p⟩ s →
    let n := getLE p 0 1
    let extent := getLE p 8 8
    let off := getLE p 0x10 8
    let len := getLE p 0x18 4
    let h := getLE p 0x20 8
    let objOff := getLE p 0x28 8
    let need := if read then 2 else 1
    let refused (st : Nat) : Prop := ∃ t, exec c s = .next t ∧ Answered src st [] s t ∧ UnitsKept s t
    let ext (t : State) (m : Msg) : Prop :=
      ∃ id, Sends (.msg (2 ^ 17 + n) id m (wireOf s.dvl.addr (gatewayOf s (28 + n)) id m)) s t
    (3 < n ∨ 64 * mib < len → refused sBadField) ∧
    (n ≤ 3 → len ≤ 64 * mib →
      (∀ st, cmdObj s src h need = .error st → refused st) ∧
      ∀ o, cmdObj s src h need = .ok o →
        (o.size < objOff + len → refused 0x0703) ∧
        (objOff + len ≤ o.size → extUp s n = false → refused 0x0801) ∧
        (objOff + len ≤ o.size → extUp s n = true → len = 0 → refused sOk) ∧
        (objOff + len ≤ o.size → extUp s n = true → 1 ≤ len →
          let poisoned := read = false ∧ poisonedIn o objOff len = true
          (poisoned → refused 0x0704) ∧ (¬ poisoned → freeTag s n = none → refused sNoResource) ∧
          ∀ g, ¬ poisoned → freeTag s n = some g → ∃ t, exec c s = .next t ∧ t.mem = s.mem ∧
            t.dvl.ext = s.dvl.ext ++ [⟨n, g, read, h, objOff, off, len, src⟩] ∧
            (read = true → Waits src (.extRead n g) t ∧ ext t (.extRead g extent off len)) ∧
            (read = false → Waits src (.extWrite n g) t ∧ ∀ i, 65536 * i < len →
              ext t (.extWrite g extent (off + 65536 * i) (decide (len ≤ 65536 * (i + 1)))
                (((objRead o objOff len).drop (65536 * i)).take 65536)))))) ∧
  (∀ (sp : Fin 4) (tag code off : Nat) (data : Bytes) (s : State),
    let answered (w : Wait) (st : Nat) (ws : List Nat) (t : State) : Prop :=
      ∀ o ∈ s.host.outst, o.wait = w → Answered o.src st ws s t
    let idles (c : Instr) : Prop := ∃ t, exec c s = .next t ∧ UnitsKept s t
    let ends (c : Instr) (st : Nat) (ws : List Nat) : Prop := ∃ t, exec c s = .next t ∧ extTag t sp tag = none ∧
      t.mem = s.mem ∧ answered (.extRead sp tag) st ws t ∧ answered (.extWrite sp tag) st ws t
    (extTag s sp tag = none → idles (.extData sp tag off data) ∧ idles (.extAck sp tag) ∧ idles (.extErr sp tag code) ∧
      idles (.extTagTimeout sp tag)) ∧
    ∀ x, extTag s sp tag = some x →
      let lands := x.read = true ∧ x.extOff ≤ off ∧ data.length ≤ x.left ∧
        ∃ o, findObj s x.handle = some o ∧ x.objOff + (off - x.extOff) + data.length ≤ o.size
      (x.read = false ∨ off < x.extOff ∨ x.left < data.length ∨ (0 < off - x.extOff + data.length ∧
        ∀ o, findObj s x.handle = some o → o.size < x.objOff + (off - x.extOff) + data.length) →
        idles (.extData sp tag off data)) ∧
      (∀ o, lands → findObj s x.handle = some o → Memory.wf o.mem = true →
        ∃ t o', exec (.extData sp tag off data) s = .next t ∧ findObj t x.handle = some o' ∧
          (∀ a, memGet o'.mem a = if x.objOff + (off - x.extOff) ≤ a ∧ a < x.objOff + (off - x.extOff) + data.length
            then data.getD (a - (x.objOff + (off - x.extOff))) 0 else memGet o.mem a) ∧
          (x.left = data.length → extTag t sp tag = none ∧ answered (.extRead sp tag) sOk [] t) ∧
          (data.length < x.left → extTag t sp tag = some { x with left := x.left - data.length } ∧
            t.host.outst = s.host.outst)) ∧
      (x.read = true → idles (.extAck sp tag)) ∧ (x.read = false → ends (.extAck sp tag) sOk []) ∧
      ends (.extErr sp tag code) 0x0803 [code] ∧ ends (.extTagTimeout sp tag) 0x0802 [])

/-- Port states (R38, R325, R326, R332, R333, R342, R345, R346): light takes a DARK port to TRAINING with an INIT flit; lost
light, lost FEC alignment, no flit and a retrain out of time take an UP port DOWN with its event, and a failed attempt ends
in DOWN too; a DOWN port tries again; more replay events than the limit, in as many windows in a row as the limit says, take
an UP port DOWN; a lost lane of the width retrains the port while a half is good. Training of the memory starts the ports,
but an S port without a gateway, and a module in its map then is LOCAL_READY, or OUT with cause 5; a dead device or a block
map that is absent is OUT with cause 3. Each does nothing in any other state. Flits of a link (R327-R331, R334, R336, R337,
R345): INIT from the partner that the map expects brings a training port UP, and after a retrain sends again what is not
acknowledged; from another it leaves it MISCABLED. A flit with a bad CRC is answered with a NAK of the sequence number
expected, and one out of sequence, or received before, with one NAK for them all; a violation is counted, and more than 64
within a second retrain the port with its credits reset. The next DATA flit takes a buffer: the first of a message for this
module opens it, later ones join it, and its last ends it, counted as bad where its body fails its CRC; that of a message for
another module goes on at once, one hop further, on the first route that is UP. Acknowledged flits leave the replay buffer
and credits return with every flit; NAK sends again from the number it names; RETRAIN keeps the buffer; received flits are
acknowledged. Live calibration of a port (R335): a lane's margin is kept, a margin that falls below the plan's threshold
raises EV_DVL_MARGIN, and one of 0 retrains an UP port; a lane's bias moves toward what it needs by at most 0.5 % and to no
more than the plan's ceiling. -/
def Obligations.PortsAndFlitsFollowTheLink : Prop :=
  (∀ (p : Fin 32) (s : State),
    let x := portOf s p
    let others (t : State) : Prop := ∀ q : Nat, q ≠ p.val → portOf t q = portOf s q
    let idles (c : Instr) : Prop := ∃ t, exec c s = .next t ∧ UnitsKept s t
    let down (c : Instr) : Prop := ∃ t, exec c s = .next t ∧ (portOf t p).state = 6 ∧
      (portOf t p).downs = min 255 (x.downs + 1) ∧ (portOf t p).window = [] ∧ Logs 0x0801 s t
    let failed (c : Instr) : Prop := ∃ t, exec c s = .next t ∧ (portOf t p).state = 6 ∧
      (portOf t p).downs = min 255 (x.downs + 1) ∧ others t ∧ t.mem = s.mem ∧ ∃ code, Logs code s t
    let inits (t : State) : Prop := ∃ i l, Sends (.flit p (.init i) l) s t
    (∀ low high, s.pwr.state = .active →
      let y := { x with litLow := x.litLow || low, litHigh := x.litHigh || high }
      (x.state = 1 → y.litLow = true ∨ y.litHigh = true → ∃ t, exec (.lightDetect p low high) s = .next t ∧
        (portOf t p).state = 2 ∧ (portOf t p).litLow = y.litLow ∧ (portOf t p).litHigh = y.litHigh ∧ inits t ∧ others t) ∧
      (x.state ≠ 1 ∨ (y.litLow = false ∧ y.litHigh = false) → ∃ t, exec (.lightDetect p low high) s = .next t ∧
        portOf t p = y ∧ others t)) ∧
    (x.state = 4 ∨ x.retraining = true → down (.lightLoss p)) ∧
    (x.state = 2 → x.retraining = false → failed (.lightLoss p)) ∧
    (x.state ≠ 4 → x.state ≠ 2 → x.retraining = false → ∃ t, exec (.lightLoss p) s = .next t ∧
      portOf t p = { x with litLow := false, litHigh := false } ∧ others t) ∧
    (x.state = 4 → down (.fecAlignLoss p) ∧ down (.noFlitTimeout p)) ∧
    (x.state ≠ 4 → idles (.fecAlignLoss p) ∧ idles (.noFlitTimeout p)) ∧
    (∀ lane : Fin 8,
      let used := if lane.val < 4 then bit x.width 0 else bit x.width 1
      let y := { x with failedLanes := (lane.val :: x.failedLanes).eraseDups }
      (x.state ≠ 4 ∨ used = false → ∃ t, exec (.laneLoss p lane) s = .next t ∧ portOf t p = y ∧ others t) ∧
      (x.state = 4 → used = true → goodLow y = false → goodHigh y = false → down (.laneLoss p lane)) ∧
      (x.state = 4 → used = true → goodLow y = true ∨ goodHigh y = true → ∃ t, exec (.laneLoss p lane) s = .next t ∧
        (portOf t p).state = 2 ∧ (portOf t p).retraining = true ∧ (portOf t p).window = x.window ∧
        (portOf t p).failedLanes = y.failedLanes ∧ (∃ l, Sends (.flit p .retrain l) s t) ∧ inits t ∧ others t)) ∧
    (x.state = 2 → x.retraining = false → failed (.portTrainingTimeout p)) ∧
    (x.state ≠ 2 ∨ x.retraining = true → idles (.portTrainingTimeout p)) ∧
    (x.state = 6 → ∃ t, exec (.portRetryTimer p) s = .next t ∧ (portOf t p).state = 2 ∧ inits t ∧ others t ∧
      t.mem = s.mem) ∧
    (x.state ≠ 6 → idles (.portRetryTimer p)) ∧
    (x.retraining = true → down (.retrainTimeout p)) ∧ (x.retraining = false → idles (.retrainTimeout p)) ∧
    (∀ many, many = (if s.dvl.nEv < x.replay then x.overWindows + 1 else 0) →
      (x.state = 4 ∧ s.dvl.nWin ≤ many → down (.replayWindowTimer p)) ∧
      (¬ (x.state = 4 ∧ s.dvl.nWin ≤ many) → ∃ t, exec (.replayWindowTimer p) s = .next t ∧ others t ∧ t.mem = s.mem ∧
        portOf t p = { x with lastReplay := x.replay, overWindows := many, replay := 0 })) ∧
    (∀ r, (s.dvl.step ≠ 3 → idles (.gddr7TrainingDone r)) ∧
      (s.dvl.step = 3 → r.dead = true ∨ r.mapValid = false → ∃ t, exec (.gddr7TrainingDone r) s = .next t ∧
        t.dvl.step = 15 ∧ t.dvl.outCause = 3 ∧ Logs 0x080B s t ∧ t.mem = s.mem) ∧
      (s.dvl.step = 3 → r.dead = false → r.mapValid = true → ∃ t, exec (.gddr7TrainingDone r) s = .next t ∧
        t.dvl.step = 4 ∧ t.mem.gddrReady = true ∧ ∀ q : Nat, q < 32 →
          ((isS q = false ∨ gatewayOf s q ≠ 0) →
            (portOf t q).state = if (portOf s q).litLow || (portOf s q).litHigh then 2 else 1) ∧
          (isS q = true → gatewayOf s q = 0 → portOf t q = portOf s q))) ∧
    (∀ mapped : Prop, (mapped ↔ (∃ m ∈ mapMods (theMap s), m.serial = s.dvl.serial) ∧
        ∀ i, s.dvl.install = some i → i = getLE (theMap s) 4 4) →
      (s.dvl.step ≠ 4 → s.dvl.step ≠ 5 → idles .portBringupDone) ∧
      (s.dvl.step = 4 ∨ s.dvl.step = 5 → mapped → ∃ t, exec .portBringupDone s = .next t ∧ t.dvl.step = 6 ∧ t.mem = s.mem) ∧
      (s.dvl.step = 4 ∨ s.dvl.step = 5 → ¬ mapped → ∃ t, exec .portBringupDone s = .next t ∧ t.dvl.step = 15 ∧
        t.dvl.outCause = 5 ∧ Logs 0x080B s t ∧ t.mem = s.mem))) ∧
  (∀ (p : Fin 32) (l : LinkHdr) (s : State),
    let x := portOf s p
    let idles (c : Instr) : Prop := ∃ t, exec c s = .next t ∧ UnitsKept s t
    let acked := match l.ack with
      | some a => (match x.window.findIdx? fun u => u.seq == a with
        | some k => x.window.drop (k + 1)
        | none => x.window)
      | none => x.window
    let again (w : List Unacked) (t : State) : Prop := ∀ u ∈ w, ∃ f h, Sends (.flit p f h) s t ∧ h.seq = u.seq ∧
      ((∀ b, u.flit ≠ .data b) → f = u.flit)
    (∀ i,
      let found := if isS p then (i.serial, 0, 0) else (i.serial, i.addr, i.port)
      let w := widthOf (goodLow x && i.low) (goodHigh x && i.high)
      let mine := x.state = 2 ∨ (x.state = 5 ∧ ¬ (x.partnerSerial = i.serial ∧ x.partner = i.addr ∧ x.partnerPort = i.port))
      (x.retraining = false → ¬ mine → idles (.init p l i)) ∧
      (x.retraining = false → mine → w = 0 → ∃ t, exec (.init p l i) s = .next t ∧ (portOf t p).state = 6 ∧
        (portOf t p).downs = min 255 (x.downs + 1) ∧ t.mem = s.mem) ∧
      (x.retraining = false → mine → w ≠ 0 → expected s p = some found → ∃ t, exec (.init p l i) s = .next t ∧
        (portOf t p).state = 4 ∧ (portOf t p).width = w ∧ (portOf t p).rxSeq = 0 ∧ (portOf t p).crReq = 256 ∧
        (portOf t p).crRsp = 256 ∧ (portOf t p).partner = (if isS p then i.serial % 2 ^ 16 else i.addr) ∧ Logs 0x0802 s t) ∧
      (x.retraining = false → mine → w ≠ 0 → expected s p ≠ some found → ∃ t, exec (.init p l i) s = .next t ∧
        (portOf t p).state = 5 ∧ (portOf t p).partner = i.addr ∧ Logs 0x0804 s t) ∧
      (x.state = 2 → x.retraining = true → w ≠ 0 → expected s p = some found → ∃ t more, exec (.init p l i) s = .next t ∧
        (portOf t p).state = 4 ∧ (portOf t p).width = w ∧ (portOf t p).window = acked ++ more ∧ again acked t) ∧
      (x.state = 2 → x.retraining = true → w = 0 → ∃ t, exec (.init p l i) s = .next t ∧ (portOf t p).state = 6 ∧
        Logs 0x0801 s t) ∧
      (x.state = 2 → x.retraining = true → w ≠ 0 → expected s p ≠ some found → ∃ t, exec (.init p l i) s = .next t ∧
        (portOf t p).state = 5 ∧ Logs 0x0801 s t ∧ Logs 0x0804 s t)) ∧
    (x.state ≠ 4 → ∀ raw seq, idles (.data p raw) ∧ idles (.idle p l) ∧ idles (.nak p l seq) ∧ idles (.retrain p l) ∧
      idles (.ackTimer p)) ∧
    (x.state = 4 → x.waitTx = [] → x.waitOwn = [] →
      (∃ t, exec (.idle p l) s = .next t ∧ t.mem = s.mem ∧ portOf t p = refill l.crReq l.crRsp { x with window := acked }) ∧
      (∀ seq, ∃ t, exec (.nak p l seq) s = .next t ∧ (portOf t p).replay = x.replay + 1 ∧ t.mem = s.mem ∧
        again (acked.dropWhile fun u => u.seq != seq) t ∧ (portOf t p).window = acked) ∧
      (∃ t i h, exec (.retrain p l) s = .next t ∧ (portOf t p).state = 2 ∧ (portOf t p).retraining = true ∧
        (portOf t p).window = acked ∧ Sends (.flit p (.init i) h) s t)) ∧
    (x.state = 4 →
      (x.unacked = 0 → x.retReq = 0 → x.retRsp = 0 → idles (.ackTimer p)) ∧
      (x.unacked ≠ 0 ∨ x.retReq ≠ 0 ∨ x.retRsp ≠ 0 → ∃ t, exec (.ackTimer p) s = .next t ∧ (portOf t p).unacked = 0 ∧
        Sends (.flit p .idle ⟨0, some (lastSeq x), min x.retReq 255, min x.retRsp 255⟩) s t ∧ t.mem = s.mem))) ∧
  (∀ (p : Fin 32) (raw : Bytes) (s : State), (portOf s p).state = 4 →
    let x := portOf s p
    let f := slice raw 0 256
    let fl := getLE f 1 1
    let seq := getLE f 2 2
    let hdr : LinkHdr := ⟨seq, if bit (getLE f 4 2) 15 then some (getLE f 4 2 % 4096) else none, getLE f 6 1, getLE f 7 1⟩
    let y := portOf (takeHdr p hdr s) p
    let held := if bit fl 0 then y.openRsp else y.openReq
    let sound := crc32c (slice f 0 0xFC) = getLE f 0xFC 4
    let formed := getLE f 0 1 ≤ 8 ∧ fl ≤ 15 ∧ seq < 4096 ∧ bits (getLE f 4 2) 14 12 = 0
    let h := routeHdr f
    let placed := (sopOf f = true ↔ held = none) ∧ (sopOf f = true → routeOk s p h = true)
    let violates (kind : Nat) : Prop := ∃ t, exec (.data p raw) s = .next t ∧ (portOf t p).rxSeq = x.rxSeq ∧ t.mem = s.mem ∧
      let vs := (s.now, kind) :: recentViols s x
      (portOf t p).viols = vs.take 65535 ∧
        if 64 < vs.length then (portOf t p).state = 2 ∧ (portOf t p).creditReset = true ∧ Logs 0x0803 s t
        else (portOf t p).state = 4
    (¬ sound → ∃ t l, exec (.data p raw) s = .next t ∧ Sends (.flit p (.nak x.rxSeq) l) s t ∧ (portOf t p).nakSent = true ∧
      (portOf t p).rxSeq = x.rxSeq ∧ (portOf t p).window = x.window ∧ t.mem = s.mem) ∧
    (sound → ¬ formed → violates 0) ∧
    (sound → formed → getLE f 0 1 = 1 →
      (seqCase y seq = .gap ∨ seqCase y seq = .old → ∃ t, exec (.data p raw) s = .next t ∧ (portOf t p).nakSent = true ∧
        (portOf t p).rxSeq = x.rxSeq ∧ t.mem = s.mem ∧ (y.nakSent = false → ∃ l, Sends (.flit p (.nak x.rxSeq) l) s t)) ∧
      (seqCase y seq = .far → violates 2) ∧
      (seqCase y seq = .next → takeBuffer (bit fl 0) y = none → violates 1) ∧
      (seqCase y seq = .next → takeBuffer (bit fl 0) y ≠ none → ¬ (sopOf f = true ↔ held = none) → violates 3) ∧
      (seqCase y seq = .next → takeBuffer (bit fl 0) y ≠ none → (sopOf f = true ↔ held = none) → sopOf f = true →
        routeOk s p h = false → violates 4) ∧
      (seqCase y seq = .next → takeBuffer (bit fl 0) y ≠ none → placed →
        let mine (t : State) := if bit fl 0 then (portOf t p).openRsp else (portOf t p).openReq
        let taken (t : State) : Prop := (portOf t p).rxSeq = (x.rxSeq + 1) % 4096 ∧ t.mem = s.mem
        let here : OpenMsg := ⟨.here, getLE h 4 4, getLE h 0x10 4, getLE h 8 2, getLE h 0x0C 4, getLE h 0x14 4, slice f 40 208⟩
        (∀ m, (sopOf f = true ∧ (getLE h 0 4 = s.dvl.addr ∨ isS p = true) ∧ m = here) ∨
            (∃ o, held = some o ∧ o.onward = .here ∧ m = { o with body := o.body ++ slice f 8 240 }) →
          (eopOf f = false → truncOf f = false → ∃ t, exec (.data p raw) s = .next t ∧ taken t ∧ mine t = some m) ∧
          (truncOf f = true → ∃ t, exec (.data p raw) s = .next t ∧ taken t ∧ mine t = none) ∧
          (eopOf f = true → truncOf f = false → ∃ t, exec (.data p raw) s = .next t ∧ taken t ∧ mine t = none ∧
            t.dvl.msgCrcCnt = if crc32c (slice m.body 0 m.length) = m.crc ∧ m.length ≤ m.body.length then s.dvl.msgCrcCnt
              else min (s.dvl.msgCrcCnt + 1) 0xFFFF_FFFF)) ∧
        ∀ out, sopOf f = true → getLE h 0 4 ≠ s.dvl.addr → isS p = false → getLE h 0x0A 1 < 64 →
          routePort s (getLE h 0 4) (bit (getLE h 0x0B 1) 0) = some out → out ≠ p.val → (portOf s out).waitTx = [] →
          (portOf s out).waitOwn = [] → (portOf s out).window.length < 256 → hasCredit (portOf s out) (bit fl 0) = true →
          (if bit fl 0 then (portOf s out).txRsp else (portOf s out).txReq) = none →
          ∃ t b l, exec (.data p raw) s = .next t ∧ taken t ∧ Sends (.flit out (.data b) l) s t ∧ l.seq = (portOf s out).txSeq ∧
            slice b 40 208 = slice f 40 208 ∧ getLE b 0x12 1 = getLE h 0x0A 1 + 1 ∧ getLE b 8 4 = getLE h 0 4))) ∧
  (∀ (p : Fin 32) (lane : Fin 8) (v : Nat) (s : State),
    let x := portOf s p
    let cur := tget 1000 x.laser lane
    (∃ t, exec (.liveCalTimer p lane v) s = .next t ∧ tget 100 (portOf t p).marginLane lane = v ∧ t.mem = s.mem ∧
      (v < s.pwr.plan.eyeMargin → s.pwr.plan.eyeMargin ≤ tget 100 x.marginLane lane → Logs 0x0806 s t) ∧
      (v = 0 → x.state = 4 → (portOf t p).state = 2 ∧ (portOf t p).retraining = true)) ∧
    ∃ t, exec (.laserBiasTimer p lane v) s = .next t ∧ UnitsKept { s with dvl := t.dvl } t ∧
      tget 1000 (portOf t p).laser lane =
        min (if cur ≤ v then min v (cur + 5) else max v (cur - 5)) (10 * tget 115 s.pwr.plan.laserCeil (8 * p + lane)) ∧
      ∀ q : Nat, q ≠ p.val → portOf t q = portOf s q)

/-- Election and fabric time (R348, R349, R351, R352): an ELECT in sequence is kept, and the least key known is adopted, with
its event where the root changes; one out of sequence is answered as any sequenced flit. ELECT, TREE and TSYNC flits go out
at their timers; a settled election reaches ELECTED, and the root is locked to its own time; a lost root is forgotten on
every port. A child's TSYNC is answered; the parent's keeps the last 16 offsets and corrects the time; 16 of at most 5 ns
from a locked parent lock it, and one above 20 ns unlocks it, one above 1 µs with HOLD; 100 ms unlocked begin HOLD. Locked
time is written into the RTC. The tree, agreement and configuration (R350, R353-R356, R359): a neighbour's TREE gives its
count, and the parent's FLEET_READY is taken and flooded on; keep-alives carry this module's pair, and a neighbour's is kept,
but near a T that both have staged; 1 s locked without agreement raises EV_DIGEST_MISMATCH; at T the staged set is in force.
Link changes and lost messages (R339-R341): a report of another module's link that has not been seen goes on to every other
neighbour, and the newest of its port is noted; once routes are recomputed they leave out the links known to be down, and
what was held for want of a route goes out. A lost message of this module's is counted with its event, and what can be sent
again is, a lost block faults its sender's context, and a lost credit, grant or refusal is answered with what the receiver
holds; a job message is sent again up to three times; a MSG_LOST without a route for its hold time is dropped and logged. -/
def Obligations.TheFleetElectsTimesAndAgrees : Prop :=
  (∀ (p : Fin 32) (l : LinkHdr) (e : ElectFlit) (f : TreeFlit) (s : State),
    let x := portOf s p
    let y := portOf (takeHdr p l s) p
    let idles (c : Instr) : Prop := ∃ t, exec c s = .next t ∧ UnitsKept s t
    (x.state ≠ 4 → idles (.elect p l e) ∧ idles (.tree p l f)) ∧
    (x.state = 4 → ∀ c ∈ [Instr.elect p l e, .tree p l f],
      (seqCase y l.seq = .gap ∨ seqCase y l.seq = .old → ∃ t, exec c s = .next t ∧ (portOf t p).nakSent = true ∧
        (portOf t p).rxSeq = x.rxSeq ∧ (portOf t p).nbrElect = x.nbrElect ∧ (portOf t p).nbrCount = x.nbrCount ∧
        (x.nakSent = false → ∃ h, Sends (.flit p (.nak x.rxSeq) h) s t) ∧ t.mem = s.mem) ∧
      (seqCase y l.seq = .far → ∃ t, exec c s = .next t ∧ (portOf t p).rxSeq = x.rxSeq ∧
        (portOf t p).viols = ((s.now, 2) :: recentViols s x).take 65535 ∧ t.mem = s.mem)) ∧
    (x.state = 4 → seqCase y l.seq = .next → ∃ t, exec (.elect p l e) s = .next t ∧ (portOf t p).nbrElect = some e ∧
      (portOf t p).rxSeq = (x.rxSeq + 1) % 4096 ∧ t.mem = s.mem ∧
      (electing s = true →
        let k := bestKey (setPort p (fun x => { x with nbrElect := some e }) s)
        t.dvl.rootPrio = k.prio ∧ t.dvl.rootSerial = k.serial ∧ t.dvl.rootAddr = k.addr ∧ t.dvl.rootDist = k.dist ∧
        t.dvl.parent = k.port ∧ (k.serial ≠ s.dvl.rootSerial ∨ k.addr ≠ s.dvl.rootAddr → Logs 0x0807 s t))) ∧
    (x.state = 4 → seqCase y l.seq = .next →
      (s.dvl.parent ≠ some p.val → ∃ t, exec (.tree p l f) s = .next t ∧ (portOf t p).nbrCount = f.count ∧
        (portOf t p).rxSeq = (x.rxSeq + 1) % 4096 ∧ t.mem = s.mem) ∧
      (s.dvl.parent = some p.val → f.fleetReady = false ∨ s.dvl.fleetReady = true →
        ∃ t, exec (.tree p l f) s = .next t ∧ (portOf t p).rxSeq = (x.rxSeq + 1) % 4096 ∧
          t.dvl.fleetReady = s.dvl.fleetReady ∧ t.dvl.step = s.dvl.step ∧ t.mem = s.mem) ∧
      (s.dvl.parent = some p.val → f.fleetReady = true → s.dvl.fleetReady = false →
        ∃ t, exec (.tree p l f) s = .next t ∧ (portOf t p).rxSeq = (x.rxSeq + 1) % 4096 ∧ t.dvl.fleetReady = true ∧
          t.dvl.step = 10 ∧ Logs 0x080A s t ∧ t.mem = s.mem ∧
          ∀ q ∈ upPorts s, q ≠ p.val → (portOf s q).window.length < 256 → (portOf s q).waitOwn = [] →
            ∃ h, Sends (.flit q (.tree ⟨treeCount s, true⟩) h) s t))) ∧
  (∀ (p : Fin 32) (l : LinkHdr) (s : State),
    let x := portOf s p
    let idles (c : Instr) : Prop := ∃ t, exec c s = .next t ∧ UnitsKept s t
    let room := x.window.length < 256 ∧ x.waitOwn = []
    let settled := upPorts s ≠ [] ∧ ∀ q ∈ upPorts s, ∃ e, (portOf s q).nbrElect = some e ∧ e.prio = s.dvl.rootPrio ∧
      e.serial = s.dvl.rootSerial
    (electing s = false → idles .electTimer ∧ idles .electSettleTimer ∧ idles .rootLostTimer ∧ idles .treeTimer) ∧
    (electing s = true → p.val ∈ upPorts s → room → ∃ t h, exec .electTimer s = .next t ∧
      Sends (.flit p (.elect (electFlit s)) h) s t ∧ t.mem = s.mem) ∧
    (¬ settled → idles .electSettleTimer) ∧
    (electing s = true → settled → ∃ t, exec .electSettleTimer s = .next t ∧ 7 ≤ t.dvl.step ∧
      s.dvl.bestSince + 250000000 ≤ t.now ∧ (isRoot s = true → t.dvl.locked = true)) ∧
    (isRoot s = true → idles .rootLostTimer) ∧
    (electing s = true → isRoot s = false → ∃ t, exec .rootLostTimer s = .next t ∧ t.mem = s.mem ∧
      ∀ q e, (portOf t q).nbrElect = some e → e.serial ≠ s.dvl.rootSerial) ∧
    (s.dvl.parent = none → idles .tsyncTimer ∧ idles .treeTimer) ∧
    (s.dvl.parent = some p.val → x.state ≠ 4 → idles .tsyncTimer ∧ idles .treeTimer) ∧
    (s.dvl.parent = some p.val → x.state = 4 →
      (∃ t h, exec .tsyncTimer s = .next t ∧ Sends (.flit p (.tsync (tsyncOut s)) h) s t ∧ t.mem = s.mem ∧ t.pwr = s.pwr ∧
        t.now = s.now) ∧
      (electing s = true → room → ∃ t h, exec .treeTimer s = .next t ∧
        Sends (.flit p (.tree ⟨treeCount s, false⟩) h) s t ∧ t.mem = s.mem)) ∧
    (∀ f, (x.state ≠ 4 → idles (.tsync p l f)) ∧
      (x.state = 4 → s.dvl.parent ≠ some p.val → ∃ t, exec (.tsync p l f) s = .next t ∧ t.dvl.offsets = s.dvl.offsets ∧
        t.dvl.locked = s.dvl.locked ∧ t.now = s.now ∧ t.mem = s.mem ∧
        (f.t2 = 0 → f.t3 = 0 → ∃ h, Sends (.flit p (.tsync (tsyncBack s f)) h) s t)) ∧
      ∀ off offs, off = offsetOf f → offs = (off :: s.dvl.offsets).take 16 → s.dvl.parent = some p.val → x.state = 4 →
        let good := f.parentLocked = true ∧ offs.length = 16 ∧ (∀ o ∈ offs, o.natAbs ≤ 50) ∧ 7 ≤ s.dvl.step ∧ s.dvl.step ≠ 15
        ∃ t, exec (.tsync p l f) s = .next t ∧ t.dvl.offsets = offs ∧ t.now = corrected s.now off ∧ t.mem = s.mem ∧
          (good → t.dvl.locked = true) ∧
          (¬ good → s.dvl.locked = true → 200 < off.natAbs → t.dvl.locked = false ∧ Logs 0x0808 s t ∧
            (10000 < off.natAbs → t.dvl.hold = true ∨ t.dvl.holdDue = true)) ∧
          (¬ good → s.dvl.locked = false ∨ off.natAbs ≤ 200 → t.dvl.locked = s.dvl.locked)) ∧
    (s.dvl.unlockedAt = none → idles .timeUnlockTimer) ∧
    (∀ t0, s.dvl.unlockedAt = some t0 → ∃ t, exec .timeUnlockTimer s = .next t ∧ t0 + 100000000 ≤ t.now ∧
      (s.jig.running = true → t.dvl.hold = true ∨ t.dvl.holdDue = true) ∧
      (s.jig.running = false → s.dvl.holdDue = false → t.dvl.hold = true)) ∧
    (s.dvl.locked = false → idles .rtcWriteTimer) ∧
    (s.dvl.locked = true → ∃ t, exec .rtcWriteTimer s = .next t ∧ t.pwr = { s.pwr with rtc := s.now } ∧ t.dvl = s.dvl ∧
      t.mem = s.mem) ∧
    (x.state ≠ 4 → idles (.keepaliveTimer p) ∧ ∀ k, idles (.keepalive p l k)) ∧
    (x.state = 4 → (∃ t h, exec (.keepaliveTimer p) s = .next t ∧ Sends (.flit p (.keepalive (keepFlit s)) h) s t ∧
        (portOf t p).lastTx = s.now ∧ t.mem = s.mem) ∧
      ∀ k, ∃ t, exec (.keepalive p l k) s = .next t ∧ t.mem = s.mem ∧
        (portOf t p).nbrKeep = if nearT s k then x.nbrKeep else some k) ∧
    (s.dvl.locked = false ∨ s.dvl.agreed = true → idles .digestCheckTimeout) ∧
    (s.dvl.locked = true → s.dvl.agreed = false → ∃ t, exec .digestCheckTimeout s = .next t ∧ Logs 0x0809 s t ∧
      t.dvl.mismatchRaised = true ∧ t.mem = s.mem) ∧
    (s.dvl.staged = none → idles .cfgActivation) ∧
    ∀ g, s.dvl.staged = some g → ∃ t, exec .cfgActivation s = .next t ∧ t.dvl.epoch = g.epoch ∧
      t.dvl.digest = g.digest ∧ t.dvl.set = g.set ∧ t.dvl.staged = none ∧ t.dvl.map = (g.map.orElse fun _ => s.dvl.map) ∧
      g.t ≤ t.now) ∧
  (∀ (p : Fin 32) (h : MsgHdr) (c : LinkChange) (s : State),
    let seen := (c.addr, c.port, c.ctr) ∈ s.dvl.linkSeen ∨ c.addr = s.dvl.addr
    let newest := ∀ e ∈ s.dvl.linkSeen, e.1 = c.addr → e.2.1 = c.port → newer c.ctr e.2.2 = true
    (¬ IsNew h s → ∃ t, exec (.linkState p h c) s = .next t ∧ UnitsKept s t) ∧
    (IsNew h s → seen → ∃ t, exec (.linkState p h c) s = .next t ∧ t.dvl.linkSeen = s.dvl.linkSeen ∧
      t.dvl.downLinks = s.dvl.downLinks ∧ t.dvl.sent = s.dvl.sent ∧ t.mem = s.mem) ∧
    (IsNew h s → ¬ seen → ∃ t, exec (.linkState p h c) s = .next t ∧ (c.addr, c.port, c.ctr) ∈ t.dvl.linkSeen ∧
      (newest → ((c.addr, c.port) ∈ t.dvl.downLinks ↔ c.up = false)) ∧
      (¬ newest → t.dvl.downLinks = s.dvl.downLinks) ∧ t.mem = s.mem ∧
      ∀ q ∈ upPorts s, q ≠ p.val → ∃ id, Sends (msgOut s.dvl.addr (portOf s q).partner id (.linkState c)) s t)) ∧
  (∃ again : List Nat, again = [0x0101, 0x0104, 0x0107, 0x0401, 0x0402, 0x0403, 0x0404, 0x0501, 0x0601] ∧
    ∀ (h : MsgHdr) (src id mtype : Nat) (s : State),
      let idles (c : Instr) : Prop := ∃ t, exec c s = .next t ∧ UnitsKept s t
      let resent (m : Sent) (t : State) : Prop := Sends (msgOut s.dvl.addr m.dst m.msgId m.msg) s t
      let handled := src ≠ s.dvl.addr ∨ ∃ e ∈ s.dvl.handled, s.now ≤ e.2 + 10000000 ∧ e.1 = id
      (∃ t, exec .routeRecomputeDone s = .next t ∧ t.dvl.routedDown = s.dvl.downLinks ∧ t.mem = s.mem ∧
        ∀ e ∈ s.dvl.heldLost, if reachable t e.1 then ∃ n, Sends (msgOut s.dvl.addr e.1 n (.msgLost e.1 e.2.1 e.2.2.1)) s t
          else e ∈ t.dvl.heldLost) ∧
      (handled → idles (.msgLost h src id mtype)) ∧
      (¬ handled → ∃ t, exec (.msgLost h src id mtype) s = .next t ∧
        t.dvl.lostCnt = min (s.dvl.lostCnt + 1) 0xFFFF_FFFF ∧ Logs 0x080C s t ∧ ∀ m, sentMsg s id = some m →
          (mtypeOf m.msg ∈ again → resent m t) ∧
          (∀ hd o b c, m.msg = .mqBlock hd o b → blockSender s hd = some c → activeCtx (ctxOf s c) = true →
            (ctxOf t c).state = .faulted ∧ (ctxOf t c).cause = 0x0A) ∧
          ∀ b q, (∃ a c, m.msg = .mqCredit b a c) ∨ (∃ a, m.msg = .mqGrant b a) ∨ (∃ a c, m.msg = .mqReject b a c) →
            fedQueue s m.dst b = some q → ∃ n, Sends (msgOut s.dvl.addr m.dst n
              (.mqSync b (slotsIn (queueOf s q) .granted) (ackOf (queueOf s q)) (queueOf s q).crcOnce)) s t) ∧
      ((∀ m, sentMsg s id = some m → m.lostAt = none ∨ 3 ≤ m.resends) → idles (.msgResendTimer id)) ∧
      (∀ m, sentMsg s id = some m → m.lostAt.isSome = true → m.resends < 3 → ∃ t, exec (.msgResendTimer id) s = .next t ∧
        resent m t ∧ (sentMsg t id).map (·.resends) = some (m.resends + 1) ∧ t.mem = s.mem) ∧
      let hit := ∃ e ∈ s.dvl.heldLost, e.1 = src ∧ e.2.1 = id
      (¬ hit → idles (.msgLostHoldExpiry src id)) ∧
      (hit → ∃ t code, exec (.msgLostHoldExpiry src id) s = .next t ∧ Logs code s t ∧
        t.dvl.heldLost = s.dvl.heldLost.filter (fun e => !(e.1 == src && e.2.1 == id)) ∧ t.mem = s.mem))

/-! ### Checkpoints, debug (chapters 12 and 15) -/

/-- CKP.* commands (R364, R368, R372, R378); a job that the issuer may not name is S_JOB_UNKNOWN, and a checkpoint
S_CKP_UNKNOWN. POLICY sets interval and window, 0 meaning 64 frames. TAKE on a DONE job or during a capture is refused; else
the next cseq is announced to every member with the soonest boundary, and the command waits: with a bank running the capture
comes at that boundary, and with none (the model's choice, log entry 24) a context that runs is captured at once. RELEASE of a DONE
job's checkpoint drops it here and on every member, with its catalogue. QUERY answers its figures. RESERVE sets the buddy
reserve, up to 128 GiB, while no bank holds an image. RESTORE refuses a checkpoint whose part is not here, whose job is not
DONE, while a member cannot be reached or the fleet is not ready, or on another bank, and a function at its limit; else it
reserves a context, or answers S_NO_RESOURCE, and asks every other member to; with no other member, and a job that may be
late, the context is held with what was captured until its captured position comes, and the command answered. -/
def Obligations.CheckpointCommandsAct : Prop :=
  ∀ (src : Src) (p : Bytes) (s : State),
    let refused (c : Instr) (st : Nat) (ws : List Nat) : Prop :=
      ∃ t, exec c s = .next t ∧ Answered src st ws s t ∧ UnitsKept s t
    let job := getLE p 0 4
    (Starts ⟨src, 0x0901, .ckpPolicy src p, false, [(8, 40)], p⟩ s →
      (cmdJob s src job = none → refused (.ckpPolicy src p) sJobUnknown []) ∧
      ∀ j, cmdJob s src job = some j → ∃ t, exec (.ckpPolicy src p) s = .next t ∧ Answered src sOk [] s t ∧
        (∀ k, k ≠ job → policyOf t k = policyOf s k) ∧ t.mem = s.mem ∧ t.vnr = s.vnr ∧ policyOf t job = { policyOf s job with
          interval := getLE p 4 2, window := if getLE p 6 2 = 0 then 64 else getLE p 6 2 }) ∧
    (Starts ⟨src, 0x0902, .ckpTake src p, false, [(4, 44)], p⟩ s →
      (cmdJob s src job = none → refused (.ckpTake src p) sJobUnknown []) ∧
      ∀ j, cmdJob s src job = some j →
        (j.status.isSome = true → refused (.ckpTake src p) sCtxState []) ∧
        (j.status = none → (captureOf s job).isSome = true → refused (.ckpTake src p) 0x0905 []) ∧
        (j.status = none → captureOf s job = none → ∃ t k, exec (.ckpTake src p) s = .next t ∧
          Waits src (.ckpTake job) t ∧ t.mem = s.mem ∧
          policyOf t job = { policyOf s job with cseq := (policyOf s job).cseq + 1 } ∧ captureOf t job = some k ∧
          k.cseq = (policyOf s job).cseq + 1 ∧ k.boundary = soonestBoundary s j ∧ k.windowLeft = (policyOf s job).window ∧
          k.acked = 0 ∧ k.complete = false ∧ (s.jig.running = true → k.part = none ∧ t.vnr = s.vnr) ∧
          (∀ c, s.jig.running = false → ctxOfJob s job = some c → activeCtx (ctxOf s c) = true → s.dvl.hold = false →
            (ctxOf s c).holds.contains .divergence = false →
            ∃ q, k.part = some q ∧ q.ctx = c ∧ q.snap = ctxOf s c ∧ q.granules = partGranules s c) ∧
          ∀ m ∈ j.members, m ≠ s.dvl.addr → ∃ id, Sends (msgOut s.dvl.addr m id
            (.jobCtl (.capture job ((policyOf s job).cseq + 1) (soonestBoundary s j)))) s t)) ∧
    (Starts ⟨src, 0x0904, .ckpRelease src p, false, [(8, 40)], p⟩ s →
      (cmdCkp s src (getLE p 0 8) = none → refused (.ckpRelease src p) 0x0901 []) ∧
      ∀ r, cmdCkp s src (getLE p 0 8) = some r →
        (ckpDone s r = false → refused (.ckpRelease src p) sCtxState []) ∧
        (ckpDone s r = true → retainedOf s r.job r.cseq = some r → ∃ t, exec (.ckpRelease src p) s = .next t ∧
          Answered src sOk [] s t ∧ retainedOf t r.job r.cseq = none ∧ findObj t r.catalogue = none ∧
          (∀ x ∈ s.ckp.retained, x.job ≠ r.job ∨ x.cseq ≠ r.cseq → x ∈ t.ckp.retained) ∧
          ∀ m ∈ r.members, m.1 ≠ s.dvl.addr →
            ∃ id, Sends (msgOut s.dvl.addr m.1 id (.jobCtl (.ckpRelease r.job r.cseq))) s t)) ∧
    (Starts ⟨src, 0x0905, .ckpQuery src p, false, [(8, 40)], p⟩ s →
      (cmdCkp s src (getLE p 0 8) = none → refused (.ckpQuery src p) 0x0901 []) ∧
      ∀ r, cmdCkp s src (getLE p 0 8) = some r →
        refused (.ckpQuery src p) sOk [r.cseq % 2 ^ 32, r.step, r.members.length, r.partBytes / mib]) ∧
    (Starts ⟨src, 0x0906, .ckpReserve src p, true, [(1, 47)], p⟩ s →
      let empty := bankImages (activeBank s) = [] ∧ bankImages (shadowBank s) = []
      (128 < getLE p 0 1 → refused (.ckpReserve src p) sBadField []) ∧
      (getLE p 0 1 ≤ 128 → ¬ empty → refused (.ckpReserve src p) sBusy []) ∧
      (getLE p 0 1 ≤ 128 → empty → ∃ t, exec (.ckpReserve src p) s = .next t ∧ Answered src sOk [] s t ∧
        t.ckp = { s.ckp with reserveGiB := getLE p 0 1 } ∧ t.mem = s.mem)) ∧
    (Starts ⟨src, 0x0903, .ckpRestore src p, false, [(0x11, 31)], p⟩ s →
      let opt := getLE p 0x10 1
      (1 < opt → refused (.ckpRestore src p) sBadField []) ∧
      (opt ≤ 1 → cmdCkp s src (getLE p 0 8) = none → refused (.ckpRestore src p) 0x0901 []) ∧
      ∀ r, opt ≤ 1 → cmdCkp s src (getLE p 0 8) = some r →
        let job0 := r.part.bind (·.job)
        let there := s.dvl.fleetReady = true ∧ ∀ m ∈ r.members, reachable s m.1 = true
        let bank := s.jig.running = true ∧ r.part.map (·.bankDigest) = some (bankDigest (activeBank s))
        (job0 = none → refused (.ckpRestore src p) 0x0902 []) ∧
        (job0 ≠ none → ckpDone s r = false → refused (.ckpRestore src p) sCtxState []) ∧
        (job0 ≠ none → ckpDone s r = true → ¬ there → refused (.ckpRestore src p) 0x0903 []) ∧
        (job0 ≠ none → ckpDone s r = true → there → ¬ bank → refused (.ckpRestore src p) 0x0904 []) ∧
        ∀ j q, job0 = some j → r.part = some q → ckpDone s r = true → there → bank →
          ((fnOf s j.fn).maxCtx ≤ fnContexts s j.fn → refused (.ckpRestore src p) sNoResource []) ∧
          (∀ id, id = newJobId s → fnContexts s j.fn < (fnOf s j.fn).maxCtx → (∀ e ∈ s.vnr.jobs, e.1 ≠ id) →
            (∀ e ∈ s.vnr.ctxs, e.2.job ≠ id) → Unlisted src s →
            (freeCtxId s = none ∨ ctxRoom s j.pipeline = false → ∃ t, exec (.ckpRestore src p) s = .next t ∧
              Answered src sNoResource [] s t ∧ jobOf t id = none ∧ t.vnr.ctxs = s.vnr.ctxs ∧ t.mem = s.mem) ∧
            ∀ c, freeCtxId s = some c → ctxRoom s j.pipeline = true →
              ((∃ m ∈ r.members, m.1 ≠ s.dvl.addr) → ∃ t k, exec (.ckpRestore src p) s = .next t ∧
                Waits src (.restore id) t ∧ jobOf t id = some k ∧ k.restoring = some (r.job, r.cseq) ∧ k.stepsDone = r.step ∧
                k.members = r.members.map (·.1) ∧ k.fn = j.fn ∧ k.deadline = (if getLE p 8 8 = 0 then j.deadline else getLE p 8 8) ∧
                k.admission = .reserving (k.members.filter (· != s.dvl.addr)) ∧ (ctxOf t c).job = id ∧ t.mem = s.mem ∧
                ∀ m ∈ k.members, m ≠ s.dvl.addr → ∃ n, Sends (msgOut s.dvl.addr m n (.jobCtl (.reserve id k.tenant k.fn
                  k.deadline k.seed k.steps k.pipeline k.flags k.mbPerStep k.jobTag))) s t) ∧
              (r.members.map (·.1) = [s.dvl.addr] → retainedOf s r.job r.cseq = some r → bit j.flags 2 = true →
                (∀ v ∈ q.versions, latestList q.snap v.stage = none) → q.windows = [] →
                ∃ t, exec (.ckpRestore src p) s = .next t ∧ Answered src sOk [id, c] s t ∧
                  (jobOf t id).map (·.admission) = some .admitted ∧ (ctxOf t c).job = id ∧ (ctxOf t c).state = .held ∧
                  .restore ∈ (ctxOf t c).holds ∧ (ctxOf t c).step = q.snap.step ∧
                  (ctxOf t c).startAt = some (q.bankDigest, q.pos, q.visit))))

/-- The copy of a part (R369). The buddy refuses the first segment of a part that does not fit its reserve, stores every
other one at its offset, acknowledges each, and acknowledges a duplicate again without storing it; a complete part takes the
place of the one before it. At the source an acknowledgement of the segment that is out brings the next one or ends the copy,
a refusal fails the capture, any other does nothing; a timeout repeats the segment, and with the buddy lost fails the
capture. The end of a capture at its lead (R370, R371). With every member's part complete it is retained: a catalogue object
is made, every member is told, the capture before it is released with its catalogue, and a waiting CKP.TAKE is answered with
the handle; once its window has passed it is abandoned everywhere and counted; a member's own complete part goes to the local
record unless it is too large, and a part that went to no buddy is complete with it. None of these happens before its time.
-/
def Obligations.CapturesAreCopiedAndRetained : Prop :=
  (∀ (m : MsgHdr) (g : CopySeg) (s : State),
    let mine (b : BuddyPart) : Bool := b.src == m.src && b.job == g.job && b.cseq == g.cseq
    let ack (refused : Bool) := msgOut s.dvl.addr m.src s.dvl.nextMsgId (.ckpAck g.job g.cseq g.offset refused)
    let full := g.offset = 0 ∧ s.ckp.buddy.find? mine = none ∧ reserveRoom s m.src g.job < g.total
    (¬ IsNew m s → ∃ t, exec (.ckpCopy m g) s = .next t ∧ Sends (ack false) s t ∧ t.ckp = s.ckp ∧ t.mem = s.mem) ∧
    (IsNew m s → full → ∃ t, exec (.ckpCopy m g) s = .next t ∧ Sends (ack true) s t ∧ t.ckp = s.ckp ∧ t.mem = s.mem) ∧
    ∀ old, IsNew m s → ¬ full → old = (s.ckp.buddy.find? mine).getD ⟨m.src, g.job, g.cseq, g.total, [], false⟩ →
      Memory.wf old.data = true → ∃ t b, exec (.ckpCopy m g) s = .next t ∧ Sends (ack false) s t ∧ b ∈ t.ckp.buddy ∧
        mine b = true ∧ b.total = old.total ∧ b.complete = (old.complete || g.last) ∧
        (∀ a, memGet b.data a = if g.offset ≤ a ∧ a < g.offset + g.data.length then g.data.getD (a - g.offset) 0
          else memGet old.data a) ∧
        (b.complete = true → ∀ x ∈ t.ckp.buddy, x.src = m.src → x.job = g.job → x = b) ∧
        (∀ x ∈ s.ckp.buddy, x.src ≠ m.src ∨ x.job ≠ g.job → x ∈ t.ckp.buddy) ∧ t.mem = s.mem) ∧
  (∀ (m : MsgHdr) (job cseq off : Nat) (ref : Bool) (s : State),
    let idles (c : Instr) : Prop := ∃ t, exec c s = .next t ∧ t.ckp = s.ckp ∧ t.mem = s.mem ∧ t.vnr = s.vnr
    let told (c : Capture) (failed : Option Nat) (t : State) : Prop := Sends (msgOut s.dvl.addr (leadAt s job)
      s.dvl.nextMsgId (.jobCtl (.partDone job c.cseq failed c.bytes.length))) s t
    (captureOf s job = none → idles (.ckpAck m job cseq off ref) ∧ idles (.ckpAckTimeout job)) ∧
    ∀ c, captureOf s job = some c →
      let seg (off : Nat) : CopySeg := let d := slice c.bytes off (min 65536 (c.bytes.length - off))
        ⟨job, c.cseq, off, decide (c.bytes.length ≤ off + d.length), c.bytes.length, d⟩
      let sent (b off : Nat) (t : State) : Prop := Sends (msgOut s.dvl.addr b s.dvl.nextMsgId (.ckpCopy (seg off))) s t
      let copies := c.sealed = true ∧ c.complete = false ∧ c.localOnly = false
      (¬ IsNew m s ∨ ¬ copies ∨ cseq ≠ c.cseq ∨ off ≠ c.acked → idles (.ckpAck m job cseq off ref)) ∧
      (IsNew m s → copies → cseq = c.cseq → off = c.acked → ref = false →
        (∀ b, c.acked + 65536 < c.bytes.length → buddyOf s = some b → ∃ t, exec (.ckpAck m job cseq off ref) s = .next t ∧
          captureOf t job = some { c with acked := c.acked + 65536 } ∧ sent b (c.acked + 65536) t) ∧
        (c.bytes.length ≤ c.acked + 65536 → ∃ t d, exec (.ckpAck m job cseq off ref) s = .next t ∧
          captureOf t job = some { c with acked := c.bytes.length, complete := true, doneMembers := d } ∧
          (leadAt s job ≠ s.dvl.addr → d = c.doneMembers ∧ told c none t) ∧
          (leadAt s job = s.dvl.addr →
            d = (s.dvl.addr, c.bytes.length) :: c.doneMembers.filter fun x => x.1 != s.dvl.addr))) ∧
      (IsNew m s → copies → cseq = c.cseq → off = c.acked → ref = true → leadAt s job ≠ s.dvl.addr →
        ∃ t, exec (.ckpAck m job cseq off ref) s = .next t ∧ captureOf t job = some c ∧ told c (some 1) t) ∧
      (c.complete = true ∨ c.localOnly = true → c.sealed = true → idles (.ckpAckTimeout job)) ∧
      (∀ b, copies → buddyOf s = some b → ∃ t, exec (.ckpAckTimeout job) s = .next t ∧ sent b c.acked t ∧
        t.ckp = s.ckp ∧ t.mem = s.mem) ∧
      (copies → buddyOf s = none → leadAt s job ≠ s.dvl.addr → ∃ t, exec (.ckpAckTimeout job) s = .next t ∧
        told c (some 2) t ∧ t.ckp = s.ckp ∧ t.mem = s.mem) ∧
      (c.sealed = false → noneLate s c = false → idles (.ckpAckTimeout job)) ∧
      ∀ q, c.sealed = false → noneLate s c = true → c.part = some q → ∃ t, exec (.ckpAckTimeout job) s = .next t ∧
        captureOf t job = some { c with sealed := true, bytes := partData s job c.cseq q } ∧ t.mem = s.mem) ∧
  (∀ (job : Nat) (s : State),
    let idles (c : Instr) : Prop := ∃ t, exec c s = .next t ∧ UnitsKept s t
    (captureOf s job = none ∨ jobOf s job = none → idles (.captureRetain job) ∧ idles (.captureWindowExpiry job)) ∧
    (∀ c j, captureOf s job = some c → jobOf s job = some j →
      let all := ∀ m ∈ j.members, ∃ d ∈ c.doneMembers, d.1 = m
      (c.part = none ∨ ¬ all → idles (.captureRetain job)) ∧
      (∀ q, c.part = some q → all → j.deadlineCkp = false ∨ s.jig.running = true → retainedOf s job c.cseq = none →
        (liveObjs s).length < 4194303 →
        (∀ r ∈ s.ckp.retained, r.catalogue = 0 ∨ (findObj s r.catalogue).isSome = true) →
        ∃ t h o r, exec (.captureRetain job) s = .next t ∧ captureOf t job = none ∧ retainedOf t job c.cseq = some r ∧
          r.catalogue = h ∧ r.step = q.snap.step ∧ r.members.map (·.1) = j.members ∧ findObj t h = some o ∧
          (jobOf t job).map (·.lastCkp) = some h ∧
          o.role = .catalogue job ∧ o.scratch = false ∧ ((∀ x ∈ s.ckp.retained, x.job ≠ job) → o.sysPins = 1) ∧
          memRead o.mem 0 (64 + 16 * j.members.length) =
            catalogueBytes job c.cseq q.snap.step c.boundary q.bankDigest r.members ∧
          (∀ x ∈ t.ckp.retained, x.job = job → x.cseq = c.cseq) ∧
          (∀ x ∈ s.ckp.retained, x.job = job → x.catalogue ≠ 0 → findObj t x.catalogue = none) ∧ Logs 0x0901 s t ∧
          (∀ m ∈ j.members, m ≠ s.dvl.addr → ∃ id, Sends (msgOut s.dvl.addr m id
            (.jobCtl (.retained job c.cseq q.snap.step c.boundary r.members))) s t) ∧
          (∀ x, j.deadlineCkp = true → j.status = none → ctxOfJob s job = some x → .cancel ∈ (ctxOf t x).acts) ∧
          ∀ w ∈ s.host.outst, w.wait = .ckpTake job → Answered w.src sOk (words64 h) s t) ∧
      (all ∨ (c.part = none ∧ s.now < c.boundary) → idles (.captureWindowExpiry job)) ∧
      (¬ all → c.part.isSome = true ∨ c.boundary ≤ s.now → j.deadlineCkp = false ∨ s.jig.running = true →
        ∃ t, exec (.captureWindowExpiry job) s = .next t ∧ captureOf t job = none ∧
          t.ckp.failCnt = min (s.ckp.failCnt + 1) 0xFFFF_FFFF ∧ t.ckp.retained = s.ckp.retained ∧ Logs 0x0902 s t ∧
          (∀ n ∈ j.members, n ≠ s.dvl.addr → ∃ id, Sends (msgOut s.dvl.addr n id (.jobCtl (.abandon job c.cseq))) s t) ∧
          ∀ w ∈ s.host.outst, w.wait = .ckpTake job → Answered w.src 0x0902 [] s t)) ∧
    (∀ c, captureOf s job = some c →
      let whole := c.sealed = true ∧ (c.complete = true ∨ c.localOnly = true)
      (¬ whole → idles (.localCheckpointWrite job)) ∧
      (whole → 512 * gib < c.bytes.length → ∃ t, exec (.localCheckpointWrite job) s = .next t ∧ Logs 0x0903 s t ∧
        t.ckp.captures = s.ckp.captures ∧ t.ckp.retained = s.ckp.retained ∧ t.mem = s.mem) ∧
      (whole → c.bytes.length ≤ 512 * gib → ∃ t d, exec (.localCheckpointWrite job) s = .next t ∧
        recSeq t 9 = recSeq s 9 + 1 ∧ t.ckp.localSeq = recSeq t 9 ∧ t.mem.objs = s.mem.objs ∧
        captureOf t job = some { c with inRecord := true, complete := true, doneMembers := d } ∧
        (c.complete = true → d = c.doneMembers) ∧
        (c.complete = false → leadAt s job = s.dvl.addr →
          d = (s.dvl.addr, c.bytes.length) :: c.doneMembers.filter fun x => x.1 != s.dvl.addr) ∧
        (c.complete = false → leadAt s job ≠ s.dvl.addr → d = c.doneMembers ∧ Sends (msgOut s.dvl.addr (leadAt s job)
          s.dvl.nextMsgId (.jobCtl (.partDone job c.cseq none c.bytes.length))) s t))) ∧
    (captureOf s job = none →
      let r := s.ckp.retained.find? fun r => r.job == job && r.part.isSome
      (r = none → idles (.localCheckpointWrite job)) ∧
      ∀ x, r = some x → x.partBytes ≤ 512 * gib → ∃ t, exec (.localCheckpointWrite job) s = .next t ∧
        recSeq t 9 = recSeq s 9 + 1 ∧ t.ckp.localSeq = recSeq t 9 ∧ t.mem.objs = s.mem.objs ∧ t.ckp.captures = s.ckp.captures))

/-- Member loss and shrink (R373-R377). The lead that loses a member of a job with a retained capture abandons the capture in
progress and the job's open collectives, holds the job, and sends every member that is left the new membership, which acts at
the next frame boundary: where this module is the lost member's buddy and its bank has standby records for its stages it
takes them over, and with no buddy to take over the lost member's replica group is dropped. Without a retained capture, or
where nobody is left to host a stage, the job is torn down. A loss of anything else does nothing; a lost lead is followed by
the surviving member with the lowest address. When all have restored the job resumes on each of them and EV_SHRINK is raised;
where one could not, it is torn down. -/
def Obligations.ShrinkDropsTheLostAndResumes : Prop :=
  (∀ (job addr : Nat) (j : Job) (s : State), jobOf s job = some j →
    let stages := ((j.memberCtx.find? fun m => m.1 == addr).map (·.2.2)).getD []
    let buddy := ((mapModOf s addr).map (·.buddy)).getD addr
    let left := j.members.filter (· != addr)
    let loses := j.status = none ∧ addr ∈ j.members ∧ addr ≠ s.dvl.addr
    let torn (c : Instr) : Prop := ∃ t, exec c s = .next t ∧ ∀ x, ctxOfJob s job = some x → activeCtx (ctxOf s x) = true →
      (ctxOf t x).state = .faulted ∧ (ctxOf t x).cause = 0x0C
    let shrinks (replaced : List (Nat × Nat)) (gone alive : List Nat) (taken : List (Nat × Nat)) (cseq : Nat) : Prop :=
      ∃ t k n, exec (.memberLoss job addr) s = .next t ∧ jobOf t job = some n ∧ n.members = alive ∧
        addr ∈ t.ckp.lost ∧ captureOf t job = none ∧ k ∈ t.ckp.shrinks ∧ k.job = job ∧ k.lost = [addr] ∧
        k.awaiting = alive ∧ ⟨job, cseq, replaced, gone, taken⟩ ∈ t.ckp.rollbacks ∧
        (∀ i ∈ t.glu.insts, i.key.job = job → i.committed = true) ∧
        (∀ c, ctxOfJob s job = some c → .hold .shrink ∈ (ctxOf t c).acts) ∧
        ∀ m ∈ alive, m ≠ s.dvl.addr →
          (∃ id, Sends (msgOut s.dvl.addr m id (.jobCtl (.hold job (holdCode .shrink)))) s t) ∧
          ∃ id, Sends (msgOut s.dvl.addr m id (.jobCtl (.membership job cseq replaced gone taken))) s t
    (¬ loses → ∃ t, exec (.memberLoss job addr) s = .next t ∧ UnitsKept s t) ∧
    (loses → captureOf s job = none ∨ j.deadlineCkp = false → s.ckp.retained.find? (fun r => r.job == job) = none →
      torn (.memberLoss job addr)) ∧
    (∀ r, loses → s.jig.running = true → s.ckp.retained.find? (fun r => r.job == job) = some r →
      (∀ k ∈ s.ckp.shrinks, k.job ≠ job) →
      (buddy = s.dvl.addr → (∀ st ∈ stages, ∃ x ∈ hostedStages s, x.stage = st ∧ isStandby (hostedStages s) x = true) →
        s.dvl.addr ∈ j.members → s.ckp.lost.contains s.dvl.addr = false →
        (∃ m ∈ j.memberCtx, m.1 ∈ left ∧ m.2.2 ≠ []) →
        shrinks [(addr, s.dvl.addr)] [] left (stages.map fun st => (st, s.dvl.addr)) r.cseq) ∧
      ∀ gone alive, gone = lostGroup s j addr → alive = left.filter (fun m => !gone.contains m) →
        left.contains buddy = false → buddy = addr ∨ s.ckp.lost.contains buddy = false →
        ((∃ m ∈ j.memberCtx, m.1 ∈ alive ∧ m.2.2 ≠ []) → shrinks [] gone alive [] r.cseq) ∧
        ((∀ m ∈ j.memberCtx, m.1 ∈ alive → m.2.2 = []) → captureOf s job = none ∨ j.deadlineCkp = false →
          torn (.memberLoss job addr))) ∧
    (s.ckp.shrinks.find? (fun k => k.job == job) = none → ∃ t, exec (.shrinkResume job) s = .next t ∧ UnitsKept s t) ∧
    ∀ k, s.ckp.shrinks.find? (fun k => k.job == job) = some k →
      (k.awaiting ≠ [] → ∃ t, exec (.shrinkResume job) s = .next t ∧ UnitsKept s t) ∧
      (k.awaiting = [] → k.failed = true → torn (.shrinkResume job)) ∧
      (k.awaiting = [] → k.failed = false → ∃ t, exec (.shrinkResume job) s = .next t ∧
        (∀ x ∈ t.ckp.shrinks, x.job ≠ job) ∧ Logs 0x0904 s t ∧ t.mem = s.mem ∧
        (∀ m ∈ j.members, m ≠ s.dvl.addr →
          ∃ id, Sends (msgOut s.dvl.addr m id (.jobCtl (.resume job (holdCode .shrink)))) s t) ∧
        ∀ c, ctxOfJob s job = some c →
          (s.jig.running = true → (ctxOf t c).acts = (ctxOf s c).acts ++ [.resume .shrink]) ∧
          (s.jig.running = false → (ctxOf s c).state = .held → (ctxOf s c).holds = [.shrink] →
            (ctxOf t c).state = (ctxOf s c).heldFrom ∧ (ctxOf t c).holds = []))) ∧
  (∀ (job addr : Nat) (s : State), jobOf s job = none →
    (leadAt s job ≠ addr ∨ ctxOfJob s job = none → ∃ t, exec (.memberLoss job addr) s = .next t ∧ UnitsKept s t) ∧
    (∀ c, leadAt s job = addr → addr ≠ s.dvl.addr → ctxOfJob s job = some c →
      (∀ q ∈ (ctxOf s c).peers, s.dvl.addr ≤ q.2.1 ∨ q.2.1 = addr) →
      (∀ r ∈ s.ckp.retained, r.job ≠ job) → ∃ t n, exec (.memberLoss job addr) s = .next t ∧ jobOf t job = some n ∧
        addr ∉ n.members ∧ leadAt t job = s.dvl.addr))

/-- DBG.* commands and SUMMARY_WRITE (R434, R435, R437-R440). LOG_READ writes the records of a range that the function
may see to its host memory and answers their count and the oldest index; a range of no record or of more than 4,096 is
S_BAD_FIELD. SUMMARY_READ writes the saved summary and answers its length; VIEW writes the bytes of a valid view, any other is
S_BAD_FIELD. TEST of an unknown test or port is S_BAD_FIELD; while a bank runs, a job is admitted or the port is not DARK it
is S_DBG_STATE; else it is logged and answers how many failures it found: the bundle test keeps the failed wavelengths in a
record, and one that finds a third failure in a bundle, or a failed control wire, takes the module out of the fleet. A summary
write comes at once after a record of severity 3, else 60 s after the last one: it takes the other bank of its record with the
next seq, or, where it fails, is logged and leaves the saved copy. -/
def Obligations.DebugCommandsRead : Prop :=
  ∀ (src : Src) (p : Bytes) (s : State),
    let f := srcFn s src
    let refused (c : Instr) (st : Nat) : Prop := ∃ t, exec c s = .next t ∧ UnitsKept s t ∧ Answered src st [] s t
    (Starts ⟨src, 0x0B01, .dbgLogRead src p, false, [(6, 2), (0x10, 32)], p⟩ s →
      let n := getLE p 4 2
      (n = 0 ∨ 4096 < n → refused (.dbgLogRead src p) sBadField) ∧
      ∀ rs, 1 ≤ n → n ≤ 4096 → rs = readable s f (getLE p 0 4) n →
        ∃ t, exec (.dbgLogRead src p) s = .next t ∧ UnitsKept s t ∧ Answered src sOk [rs.length, oldestSeq s % 2 ^ 32] s t ∧
          Sends (.hostWrite (fnPort f) (getLE p 8 8) (rs.flatMap recBytes)) s t) ∧
    (Starts ⟨src, 0x0B02, .dbgSummaryRead src p, true, [(0x0C, 36)], p⟩ s →
      let b := summaryBytes s.dbg.saved
      ∃ t, exec (.dbgSummaryRead src p) s = .next t ∧ UnitsKept s t ∧ Answered src sOk [b.length % 2 ^ 32] s t ∧
        Sends (.hostWrite (fnPort f) (getLE p 0 8) (b.take (getLE p 8 4))) s t) ∧
    (Starts ⟨src, 0x0B03, .dbgView src p, true, [(1, 1), (4, 4), (0x10, 32)], p⟩ s →
      (∀ b, viewBytes s f (getLE p 0 1) (getLE p 2 2) = some b → ∃ t, exec (.dbgView src p) s = .next t ∧ UnitsKept s t ∧
        Answered src sOk [] s t ∧ Sends (.hostWrite (fnPort f) (getLE p 8 8) b) s t) ∧
      (viewBytes s f (getLE p 0 1) (getLE p 2 2) = none → refused (.dbgView src p) sBadField)) ∧
    (∀ r, Starts ⟨src, 0x0B04, .dbgTest src p r, true, [(2, 46)], p⟩ s →
      let test := getLE p 0 1
      let port := getLE p 1 1
      let runs := test ≤ 1 ∧ port ≤ 31 ∧ testBusy s test port = false
      let third := r.wireFail = true ∨ ∃ e ∈ laneTable r, 2 < e.2.length
      (1 < test ∨ 31 < port → refused (.dbgTest src p r) sBadField) ∧
      (test ≤ 1 → port ≤ 31 → testBusy s test port = true → refused (.dbgTest src p r) 0x0B01) ∧
      (runs → ∃ t, exec (.dbgTest src p r) s = .next t ∧ Logs 0x0B01 s t ∧
        Answered src sOk [(testFailures test port r).length] s t ∧ t.vnr = s.vnr ∧ t.jig = s.jig ∧
        t.mem.objs = s.mem.objs ∧
        (test = 1 → t.mem = s.mem ∧ t.dvl = s.dvl ∧ t.dbg.lanes = s.dbg.lanes) ∧
        (test = 0 → third → t.dvl.step = 15 ∧ t.dvl.outCause = 2 ∧ Logs 0x080B s t) ∧
        (test = 0 → ¬ third → t.dbg.lanes = laneTable r ∧ t.dvl = s.dvl ∧ recSeq t 3 = recSeq s 3 + 1))) ∧
    (∃ t, exec (.summaryWrite true) s = .next t ∧ recSeq t 5 = recSeq s 5 + 1 ∧ t.dbg.summarySeq = recSeq t 5 ∧
      t.dbg.lastSummary = t.now ∧ t.dbg.summaryDue = false ∧ t.dbg.saved.counts = s.dbg.live.counts ∧
      (s.dbg.summaryDue = true → t.now = s.now) ∧
      (s.dbg.summaryDue = false → t.now = max s.now (s.dbg.lastSummary + 60000000000)) ∧ t.mem.objs = s.mem.objs) ∧
    ∃ t, exec (.summaryWrite false) s = .next t ∧ Logs 0x0B02 s t ∧ t.dbg.saved = s.dbg.saved ∧ t.mem = s.mem ∧
      t.dbg.lastSummary = t.now

/-! ### Ops on the tiles (chapters 2-5, 9) -/

/-- What an op writes lands at its operand (R93, R109, R153): the bytes read back at the place the operand field names, in the
tile store or the window, and no other byte of either changes; the tile itself sees them at once, the other tiles of its slot
on the die only after a BARRIER or an entry taken (R108). A granule that another context wrote last reads zero once it is
touched, and one of the same context keeps its bytes. A READY version's slice of its tile image is copied into the tile store,
where space 0x3 then names it (R93, R172). An op waits for its turn (R107, R153) and while the slew governor holds it (R91),
and its turn comes once. An op that does not run (R96, R98, R99, R103, R106, R135, R152, R178): one that is skipped, of a
context that does not run, or with nothing to do leaves tile stores, windows and objects alone, the first two with dummy rows
at the floor level of the pass before; one whose fields are not admissible, or whose gate does not fit its slot, completes with
S_BAD_FIELD; a failed check field, a version that is not READY and an operand out of range fault its context. -/
def Obligations.OpsStartOnOperandsThatAdmitThem : Prop :=
  (∀ (e : OpEnv) (field : Nat) (bs : Bytes) (s : State), Memory.wf s.tile.store = true → Memory.wf s.tile.window = true →
    let t := wrField e field bs s
    (∀ a, resolve s e field bs.length = .ok (.store a) → readLoc t (.store a) bs.length = bs ∧
      (∀ x, ¬ (a ≤ x ∧ x < a + bs.length) → memGet t.tile.store x = memGet s.tile.store x) ∧
      t.tile.window = s.tile.window ∧ t.mem = s.mem) ∧
    (∀ a, resolve s e field bs.length = .ok (.window a) → tileReads t e.tile (.window a) bs.length = bs ∧
      (∀ x, ¬ (a ≤ x ∧ x < a + bs.length) → memGet t.tile.window x = memGet s.tile.window x) ∧
      t.tile.store = s.tile.store ∧ t.mem = s.mem ∧
      ∀ u ∈ slotTiles s e.tile, u ≠ e.tile → u / 64 = e.tile / 64 →
        tileReads t u (.window a) bs.length = tileReads s u (.window a) bs.length ∧
        tileReads (showWrites u t) u (.window a) bs.length = bs)) ∧
  (∀ (c g tile : Nat) (s : State), Memory.wf s.tile.store = true → Memory.wf s.tile.window = true →
    (∀ t, t = touchStore c g s →
      tget 0 (tileOf t (g / 64)).tags g = c ∧ ∀ a, memGet t.tile.store a =
        if a / 65536 = g ∧ ¬ (thas (tileOf s (g / 64)).tags g = true ∧ tget 0 (tileOf s (g / 64)).tags g = c) then 0
        else memGet s.tile.store a) ∧
    ∀ t, t = touchWindow tile c g s →
    tget 0 t.tile.wtags g = c ∧ ∀ a, memGet t.tile.window a =
      if a / 65536 = g ∧ ¬ (thas s.tile.wtags g = true ∧ tget 0 s.tile.wtags g = c) then 0 else memGet s.tile.window a) ∧
  (∀ (e : OpEnv) (h i : Nat) (o : Obj) (s : State),
    let v := verOf s e.ctx e.stage e.ver
    let len := o.size / (stageTiles s e.stage).length
    Memory.wf s.tile.store = true → v.state = 2 → verObject v 0 = some h → (stageTiles s e.stage).idxOf? e.tile = some i →
    findObj s h = some o → inFlash o = false → poisonedIn o (i * len) len = false →
    (∀ y ∈ v.copies, y.1 ≠ e.tile) → (sliceRoom s e.tile len).isSome = true →
    let w := placeSlice e.tile e.ctx e.stage e.ver s
    ∃ a, tileSlice w e = .ok (a, len) ∧ memRead w.tile.store a len = objRead o (i * len) len ∧ w.mem = s.mem) ∧
  ∀ (r : OpRun) (d : Bytes) (parts : List (OpRun × Bytes)) (i : Instr) (s : State),
    i ∈ [.gemm r d parts, .elemwise r d, .norm r d, .cast r d, .copy r d, .gather r d, .embed r d, .gradQ8 r d,
      .optAdamw r d, .topkLogits r d, .softmaxXent r d, .distillKl r d, .kerfSnapshot r d, .fingerprint r d, .dummy r d,
      .attnFwd r d, .attnBwd r d, .gemmRs r d, .agGemm r d, .gemmAr r d, .barrier r d] ∨
      (i = .send r d ∧ sendWaits s r d = false) ∨ (i = .gemmSend r d ∧ (gFill d ≠ 0 ∨ sendWaits s r d = false)) →
    let n := r.tile.val
    let u := opTurn r d s
    let same (t : State) : Prop := t.tile.store = s.tile.store ∧ t.tile.window = s.tile.window ∧ t.mem = s.mem
    (progOf (tileOf s n) n ≠ [] → hasTurn (tileOf u n) n r.mb d = false) ∧
    (¬ OpIsDue r d s → ∃ t, exec i s = .next t ∧ UnitsKept s t) ∧
    (OpIsDue r d s → opCtx u n d = none → ∃ t, exec i s = .next t ∧ same t) ∧
    ∀ c, OpIsDue r d s → opCtx u n d = some c →
      let filled (t : State) : Prop := (tileOf s n).lastCurrent ≠ 0 →
        (tileOf t n).level = floorLevel (currentFloor s) (tileOf s n).lastCurrent
      (skips u n d = true ∨ activeCtx (ctxOf s c) = false → ∃ t, exec i s = .next t ∧ same t ∧ filled t ∧
        (dLast d = false → t.vnr = s.vnr)) ∧
      (skips u n d = false → activeCtx (ctxOf s c) = true →
        let e := opEnv u r d c
        let fine := checksOk d = true ∧ descOk d (windowBytes s) = true ∧ gateFits u n d = true
        let faults (cause : Nat) : Prop := ∃ t, exec i s = .next t ∧ OpFaults c cause s s t ∧ filled t
        (checksOk d = false → faults 4) ∧
        (checksOk d = true → descOk d (windowBytes s) = false ∨ gateFits u n d = false →
          ∃ t, exec i s = .next t ∧ same t ∧ (tileOf t n).opStatus = 0x0002) ∧
        (fine → opEmpty d = true → ∃ t, exec i s = .next t ∧ same t ∧ (tileOf t n).opStatus = 0) ∧
        (fine → opEmpty d = false → noVersion u e = true → faults 1) ∧
        (fine → opEmpty d = false → noVersion u e = false →
          ∀ cause, resolveAll u e (opnds d) = .error cause → faults cause))

/-- Vector ops (R119-R124): ELEMWISE, ROPE, NORM and CAST write their results, computed from the operands as they stood, at
their destination with the scales behind them or at their own field, and nothing else of the module's memory changes; the
backward form of NORM writes dx, dgamma and dbeta, of which the spec leaves dx open (log entry 2); a ROPE position outside its
table faults the context. Grid and attention ops (R50-R55, R71-R82, R87-R89, R95, R98, R112-R118). A pass switches the weight
registers to its weights with its first row. GEMM outside the gate writes its product to C; its passes leave their weights and
partial sums in the grid and the floor current behind them. A part of a split-K group waits for the other parts; when the
last of two is there, both drain with the anchor that they agree, and parts that disagree fault their context. ATTN_FWD
without a ring writes O and lse; ATTN_BWD without one writes dQ, dK and dV, whose addends the spec leaves open (log entry 2);
K and V of an object that cannot be read fault the context. DUMMY sets the tile's level or ramps it down, runs its LFSR, and
changes no weight, accumulator or counter. -/
def Obligations.VectorAndGridOpsWriteTheirResults : Prop :=
  (∀ (r : OpRun) (d : Bytes) (c : Nat) (ls : List (Opnd × Loc)) (s : State), OpRuns r d c ls s →
    let n := r.tile.val
    let e := opEnv (opTurn r d s) r d c
    let b := opBegins r d c ls s
    let out (fmt mode tensor len : Nat) (vs : List F32) : OutT :=
      convF32 fmt (modeNonsat mode) (opRnd e mode tensor) len 0 (rowsOf len vs (vs.length / max len 1))
    (dKind d = 8 → ∀ vs, (eFunc d = 0x14 → ropeVals b e d = some vs) → (eFunc d ≠ 0x14 → vs = elemVals b e d) →
      ∃ t, exec (.elemwise r d) s = .next t ∧ TileHolds n (wrTrailing e (getLE d 0x1C 4) (eFd d)
        (out (eFd d) (getLE d 0x2C 1) (getLE d 0x34 4) (eLen d) vs) b) t) ∧
    (dKind d = 8 → eFunc d = 0x14 → ropeVals b e d = none → ∃ t, exec (.elemwise r d) s = .next t ∧ OpFaults c 7 s b t) ∧
    (dKind d = 9 → nBwd d = false →
      let len := nLen d
      let rms := bit (nKind d) 0
      let xs := rowsOf len (loadOp b e (getLE d 0x10 4) (getLE d 0x30 1) (nRows d * len) len) (nRows d)
      let g := rdField b e (getLE d 0x18 4) (4 * len)
      let bt := if getLE d 0x1C 4 = 0 then none else some (rdField b e (getLE d 0x1C 4) (4 * len))
      let st := xs.map (normStats rms (getLE d 0x34 4))
      let ys := (xs.zip st).flatMap fun p => p.1.mapIdx fun j x =>
        normElem rms p.2.1.1 p.2.2.1 x (getLE g (4 * j) 4) (bt.map fun z => getLE z (4 * j) 4)
      let w := wrTrailing e (getLE d 0x14 4) (getLE d 0x31 1) (out (getLE d 0x31 1) (getLE d 0x2F 1) (getLE d 0x38 4) len ys) b
      ∃ t, exec (.norm r d) s = .next t ∧ TileHolds n (if getLE d 0x20 4 = 0 then w
        else wrTrailing e (getLE d 0x20 4) 1 (out 1 0 0 2 (st.flatMap fun p => [p.1, p.2])) w) t) ∧
    (dKind d = 9 → nBwd d = true → ∃ t, exec (.norm r d) s = .next t ∧ TileHolds n (normBwd d e b) t) ∧
    (dKind d = 0x0E → let o := castOut b e d
      let w := wrField e (getLE d 0x18 4) o.elems b
      ∃ t, exec (.cast r d) s = .next t ∧
        TileHolds n (if isMx (getLE d 0x25 1) then wrField e (getLE d 0x1C 4) o.scales w else w) t)) ∧
  (∀ (g : GemmIn) (owner : Nat × Nat) (m row : Nat) (anchor : Nat → Nat → Int) (x : GridSt) (p : Pass),
    blockIx p.rb m ≠ [] → x.armed = true →
    let y := runPass g owner m row anchor x p
    y.cur = passWeights g owner p ∧ y.nxt = passWeights g owner p ∧ y.armed = true) ∧
  ∀ (r : OpRun) (d : Bytes) (c : Nat) (ls : List (Opnd × Loc)) (s : State), OpRuns r d c ls s →
    let n := r.tile.val
    let e := opEnv (opTurn r d s) r d c
    let b := opBegins r d c ls s
    (∀ parts item, dKind d = 1 → gFill d = 0 ∨ 128 < joinRows e d → item = gridItem b e d parts →
      let drained (j : GridItem) (all : List GemmIn) (s : State) : State :=
        let o := itemOut j (gemmAnchor all (gM d) (gN d))
        let w := wrField j.env (getLE j.desc 0x20 4) o.elems s
        if isMx (gFc j.desc) then wrField j.env (getLE j.desc 0x24 4) o.scales w else w
      (item.parts = [] →
        let ps := gridPasses item.inp (gM d)
        let mA := passCurrent (gridFigures s (n / 64)) (gFa d) (gFb d) item.inp.lastCells
        ∃ t, exec (.gemm r d parts) s = .next t ∧ TileHolds n (drained item [item.inp] b) t ∧
          (tileOf t n).grid = ps.foldl (runPass item.inp (c, e.ver) (gM d) 0 (gemmAnchor [item.inp] (gM d) (gN d)))
            (tileOf s n).grid ∧
          (tileOf t n).lastCurrent = mA ∧ (tileOf t n).level = floorLevel (currentFloor s) mA ∧
          (tileOf t n).passes = (tileOf s n).passes + ps.length) ∧
      (∀ q ∈ item.parts, mateAt b item q = none → ∃ t, exec (.gemm r d parts) s = .next t ∧ TileHolds n b t ∧
        (tileOf t n).split = (tileOf s n).split ++ [item]) ∧
      ∀ q j, item.parts = [q] → q.1 ≠ n → mateAt b item q = some j → j.env.tile = q.1 → dKind j.desc = 1 →
        (partsAgree item item && partsAgree item j = false → ∃ t, exec (.gemm r d parts) s = .next t ∧ OpFaults c 3 s b t) ∧
        (partsAgree item item && partsAgree item j = true → getLE j.desc 0x18 4 / 2 ^ 28 ≠ 3 →
          let w := drained item [j.inp, item.inp] (drained j [j.inp, item.inp] b)
          ∃ t, exec (.gemm r d parts) s = .next t ∧ t.tile.store = w.tile.store ∧ t.tile.window = w.tile.window ∧
            (tileOf t q.1).split = (tileOf s q.1).split.erase j ∧ t.mem = s.mem)) ∧
    (∀ kv, dKind d = 6 → attnRing d = false → readKV b e d = .ok kv →
      let q := rdField b e (getLE d 0x10 4) (qBytes d (aFqk d))
      ∃ t, exec (.attnFwd r d) s = .next t ∧ TileHolds n (attnWrite e d (attnFwd ⟨d, q, [(0, kv.1, kv.2)]⟩) b) t ∧
        (tileOf t n).passes = (tileOf s n).passes + attnPasses d [0]) ∧
    (∀ kv, dKind d = 7 → attnRing d = false → readKV b e d = .ok kv →
      let a := bwdIn d (bwdReads b e d) [(0, kv.1, kv.2)]
      ∃ t, exec (.attnBwd r d) s = .next t ∧
        TileHolds n (writeDkv e d (chunkGrad a 1 0) (chunkGrad a 2 0) (writeDq a e b)) t) ∧
    (∀ i : Instr, (i = .attnFwd r d ∧ dKind d = 6) ∨ (i = .attnBwd r d ∧ dKind d = 7) → attnRing d = false →
      ∀ cause, readKV b e d = .error cause → ∃ t, exec i s = .next t ∧ OpFaults c cause s b t) ∧
    (dKind d = 0x15 → ∃ t, exec (.dummy r d) s = .next t ∧ TileHolds n b t ∧
      (tileOf t n).gated = bit (getLE d 0x11 1) 0 ∧
      (tileOf t n).level = (if bit (getLE d 0x11 1) 0 then 0
        else if getLE d 0x10 1 = 0 then floorLevel (currentFloor s) (tileOf s n).lastCurrent else getLE d 0x10 1) ∧
      (tileOf t n).lfsr = (Config.lfsr (dummyNs s n d)
        (BitVec.ofNat 32 (if getLE d 0x18 4 = 0 then 1 else getLE d 0x18 4))).toNat ∧
      (tileOf t n).passes = (tileOf s n).passes ∧ (tileOf t n).grid = (tileOf s n).grid)

/-- Training ops (R260-R270). GRAD_Q8 writes the quantised gradient, its scales and the new error; TOPK_LOGITS writes one
teacher record per row; SOFTMAX_XENT and DISTILL_KL write gradients and losses, and with their monitor flag add the row losses
to the context's monitor; OPT_ADAMW writes master weights and both moments of its shard back where it read them, and the
working copy; objects it may not use, or that do not fit, fault the context. Kerf ops (R273, R274, R278-R280): KERF_SNAPSHOT
writes the context's 15,360 B snapshot at its operand or into its object, then clears what its flags name; FINGERPRINT adds the
CRC-64 of each shard it covers to the list of its stage and step, and a shard that is there already faults the context; so does
an object either of them may not use. -/
def Obligations.TrainingAndKerfOpsWriteTheirResults : Prop :=
  ∀ (r : OpRun) (d : Bytes) (c : Nat) (ls : List (Opnd × Loc)) (s : State), OpRuns r d c ls s →
    let n := r.tile.val
    let e := opEnv (opTurn r d s) r d c
    let b := opBegins r d c ls s
    let faults (i : Instr) (cause : Nat) : Prop := ∃ t, exec i s = .next t ∧ OpFaults c cause s b t
    (dKind d = 0x0D →
      let k := getLE d 0x20 4
      let l := getLE d 0x24 2
      let f := getLE d 0x26 1
      let src := rdField b e (getLE d 0x10 4) (fmtBytes f k)
      let errs := rdField b e (getLE d 0x14 4) (2 * k)
      let vs := (List.range k).map fun i => gradV (gradSrc f src i) (getLE d 0x2C 4) (getLE errs (2 * i) 2)
      let o := convRows 8 false false (opRnd e (getLE d 0x27 1) (getLE d 0x28 4)) l 0 (rowsOf l (vs.map f32) (k / max l 1))
      let es := vs.mapIdx fun i v => gradErr v (elemCode 8 o.elems i) (getLE o.scales (i / l * blocksOf l + i % l / 32) 1)
      ∃ t, exec (.gradQ8 r d) s = .next t ∧ TileHolds n (wrField e (getLE d 0x14 4) (es.flatMap fun x => toLE 2 x.1)
        (wrField e (getLE d 0x1C 4) o.scales (wrField e (getLE d 0x18 4) o.elems b))) t) ∧
    (dKind d = 0x18 → let v := getLE d 0x1C 4
      let x := rdField b e (getLE d 0x10 4) (fmtBytes (getLE d 0x21 1) (getLE d 0x18 4 * v))
      ∃ t, exec (.topkLogits r d) s = .next t ∧ TileHolds n (wrField e (getLE d 0x14 4)
        ((List.range (getLE d 0x18 4)).flatMap fun i =>
          (topRecord (getLE d 0x20 1) (getLE d 0x24 4) (logitRow (getLE d 0x21 1) v x i)).1) b) t) ∧
    (∀ i : Instr, (i = .softmaxXent r d ∧ dKind d = 0x0A) ∨ (i = .distillKl r d ∧ dKind d = 0x0B) →
      let v := xVocab d
      let f := getLE d 0x28 1
      let x := rdField b e (getLE d 0x10 4) (fmtBytes f (xRows d * v))
      let tg := rdField b e (getLE d 0x14 4) (xRows d * (if dKind d = 0x0A then 4 else 576))
      let rs := (List.range (xRows d)).map fun k => if dKind d = 0x0A
        then xentRow (getLE d 0x2C 4) (getLE d 0x30 4) (getLE tg (4 * k) 4) (logitRow f v x k)
        else distillRow (getLE d 0x2C 4) (slice tg (576 * k) 576) (logitRow f v x k)
      let out (fmt mode tensor len : Nat) (vs : List F32) : OutT :=
        convF32 fmt (modeNonsat mode) (opRnd e mode tensor) len 0 (rowsOf len vs (vs.length / max len 1))
      let w := wrTrailing e (getLE d 0x18 4) (getLE d 0x29 1)
        (out (getLE d 0x29 1) (getLE d 0x2A 1) (getLE d 0x34 4) v (rs.flatMap (·.grad))) b
      ∃ t, exec i s = .next t ∧
        TileHolds n (if getLE d 0x1C 4 = 0 then w else wrTrailing e (getLE d 0x1C 4) 1 (out 1 0 0 1 (rs.map (·.loss))) w) t ∧
        (ctxOf t c).loss = if bit (getLE d 0x2B 1) 0
          then (rs.filter (·.counts)).foldl (fun m k => addLoss m k.loss.1) (ctxOf s c).loss else (ctxOf s c).loss) ∧
    (dKind d = 0x0C →
      let h := getLE d 0x10 8
      let hyp := objBytes b (ctxOf s c).hyper 0 (objSize b (ctxOf s c).hyper)
      let sh := getLE d 0x1C 4
      let at_ := 64 + 4 * getLE d 0x18 4
      let k := getLE d 0x30 4
      let fg := getLE d 0x34 1
      let fw := getLE d 0x35 1
      let arr (i : Nat) : Bytes := tileReads b n (.object h (at_ + 4 * sh * i)) (4 * k)
      let gs := loadF32 fg k k (rdField b e (getLE d 0x20 4) (fmtBytes fg k))
        (if fg = 8 then rdField b e (getLE d 0x24 4) (blocksOf k) else [])
      let rs := gs.mapIdx fun i g => adamElem (adamK hyp (getLE d 0x37 1) e.step (getLE (objBytes s h 8 8) 0 8)) g
        (getLE (arr 0) (4 * i) 4) (getLE (arr 1) (4 * i) 4) (getLE (arr 2) (4 * i) 4)
      (∀ cause, adamFault b e d hyp = some cause → faults (.optAdamw r d) cause) ∧
      ∀ o, adamFault b e d hyp = none → findObj s h = some o → Memory.wf o.mem = true →
        ∃ t, exec (.optAdamw r d) s = .next t ∧
          objBytes t h at_ (4 * k) = (rs.flatMap fun x => toLE 4 x.1.1) ∧
          objBytes t h (at_ + 4 * sh) (4 * k) = (rs.flatMap fun x => toLE 4 x.2.1.1) ∧
          objBytes t h (at_ + 8 * sh) (4 * k) = (rs.flatMap fun x => toLE 4 x.2.2.1) ∧
          (let o := convRows fw (modeNonsat (getLE d 0x36 1)) false
              (fun i => opRnd e (getLE d 0x36 1) (getLE d 0x38 4) (getLE d 0x3C 4 + i)) k 0 [rs.map fun x => f32 x.1.1]
            let w := wrField e (getLE d 0x28 4) o.elems b
            let v := if fw = 7 then wrField e (getLE d 0x2C 4) o.scales w else w
            t.tile.store = v.tile.store ∧ t.tile.window = v.tile.window) ∧
          (∀ g, hSlot g ≠ hSlot h → findObj t g = findObj s g) ∧ t.mq = s.mq ∧ t.glu = s.glu) ∧
    (dKind d = 0x14 →
      let h := getLE d 0x10 8
      let bs := kerfSnapshotBytes b c
      let bad := objFault b c h 2 (getLE d 0x18 8) 15360
      let cleared (t : State) : Prop :=
        (ctxOf t c).kerf = (if bit (getLE d 0x20 1) 0 then [] else (ctxOf s c).kerf) ∧
        (ctxOf t c).hist = (if bit (getLE d 0x20 1) 1 then [] else (ctxOf s c).hist) ∧
        (ctxOf t c).kerfFirst = (ctxOf s c).kerfFirst
      (h = 0 → ∃ t, exec (.kerfSnapshot r d) s = .next t ∧ cleared t ∧ TileHolds n (wrField e (getLE d 0x18 4) bs b) t) ∧
      (∀ cause, h ≠ 0 → bad = some cause → faults (.kerfSnapshot r d) cause) ∧
      ∀ o, h ≠ 0 → bad = none → findObj s h = some o → Memory.wf o.mem = true →
        ∃ t, exec (.kerfSnapshot r d) s = .next t ∧ cleared t ∧
          objBytes t h (getLE d 0x18 8) bs.length = bs ∧ t.tile.store = b.tile.store ∧
          ∀ g, hSlot g ≠ hSlot h → findObj t g = findObj s g) ∧
    (dKind d = 0x13 →
      let h := getLE d 0x10 8
      let bad := if h = 0 then none else objFault b c h 1 (getLE d 0x18 8) (getLE d 0x20 8)
      let old := fpListOf (ctxOf s c) e.stage e.step
      let twice := ∃ x ∈ fpCovered b e d, ∃ y ∈ old.shards, y.no = x.no
      (∀ cause, bad = some cause → faults (.fingerprint r d) cause) ∧
      (bad = none → twice → faults (.fingerprint r d) 8) ∧
      (bad = none → ¬ twice → ∃ t, exec (.fingerprint r d) s = .next t ∧ TileHolds n b t ∧
        fpListOf (ctxOf t c) e.stage e.step =
          { old with shards := old.shards ++ fpCovered b e d, coll := getLE d 0x30 4 }))

/-- Ops that move rows (R100, R102, R125-R130, R133). COPY moves every row as it stood before the op; GATHER brings the rows
its indices name through the L1, zeros for an index out of range, or scatters into them; EMBED gathers, scales and converts
rows of a weight object; an object they may not use, and a table that a version does not have, fault the context. A line that
the L1 holds is read from it; any other is read and then held, eight to a set. Sending a block (R97, R144, R153-R155). A SEND
or GEMM_SEND that needs a credit and finds none, or no room in the resend window, waits; the first write of a group takes the
first credit, later ones find its slot, and each member's part goes there at the destination; a part beyond the slot faults
the context. When the last member has written, the header goes out under the binding's next sequence number, and posts the
block where the destination is this module; with no context there it faults the sending one. RECV (R109, R139, R151-R153,
R166, R173, R215). A take group whose selection matches the head entry takes it, and further ones up to its maximum: every
member's part of the block lands in its tile store, the entry leaves the queue, and the members run on it; in HEAD mode its
context holds the slot from then on. With nothing to take, the head of another context, or past its take_tail it waits; the
limit of micro-batches in flight is logged once per frame; a block too large faults its context; descriptors that are not
admissible, and a RECV that is skipped, leave its tiles without a micro-batch. At the take_tail point an empty RECV completes,
is counted, and skips what follows on its tiles; a stream ends there. -/
def Obligations.RowsAndBlocksAreMoved : Prop :=
  (∀ (r : OpRun) (d : Bytes) (c : Nat) (ls : List (Opnd × Loc)) (s : State), OpRuns r d c ls s →
    let n := r.tile.val
    let e := opEnv (opTurn r d s) r d c
    let b := opBegins r d c ls s
    let faults (i : Instr) (cause : Nat) : Prop := ∃ t, exec i s = .next t ∧ OpFaults c cause s b t
    (dKind d = 0x0F →
      (∀ cause, copyFault b e d = some cause → faults (.copy r d) cause) ∧
      (copyFault b e d = none → ∃ t, exec (.copy r d) s = .next t ∧
        TileHolds n (((List.range (yRows d)).map fun i => (i, copySrc b e d i)).foldl (fun s x => copyPut e d x.1 x.2 s) b) t)) ∧
    (dKind d = 0x10 →
      let bad := if getLE d 0x10 8 = 0 then none
        else objFault b c (getLE d 0x10 8) (if ghMode d = 0 then 1 else 2) (getLE d 0x18 8) (ghRows d * ghRow d)
      let idx := rdField b e (getLE d 0x20 4) (4 * ghCount d)
      let out := badIndices idx (ghCount d) (ghRows d)
      let w := indexEvent e out (touchTable d idx e b)
      let g := gatherRows d idx e (List.range (ghCount d)) w
      let counts (t : State) : Prop := out ≠ [] →
        t.vnr.indexCnt = min (s.vnr.indexCnt + out.length) 0xFFFF_FFFF ∧ Logs 0x0404 s t
      (∀ cause, bad = some cause → faults (.gather r d) cause) ∧
      (bad = none → ghMode d = 0 → ∃ t, exec (.gather r d) s = .next t ∧
        TileHolds n (wrField e (getLE d 0x24 4) g.1 g.2) t ∧ counts t) ∧
      (bad = none → ghMode d ≠ 0 → ∃ t, exec (.gather r d) s = .next t ∧ counts t ∧
        TileHolds n (scatterRows d idx (rdField w e (getLE d 0x24 4) (ghCount d * ghRow d)) e (List.range (ghCount d)) w) t)) ∧
    (dKind d = 0x17 →
      (∀ cause, embedTable b e d = .error cause → faults (.embed r d) cause) ∧
      ∀ h, embedTable b e d = .ok h →
        let ids := rdField b e (getLE d 0x10 4) (4 * mCount d)
        let fo := getLE d 0x27 1
        let g := embedRows d ids h e (List.range (mCount d)) (indexEvent e (badIndices ids (mCount d) (getLE d 0x1C 4)) b)
        ∃ t, exec (.embed r d) s = .next t ∧ TileHolds n (wrTrailing e (getLE d 0x14 4) fo
          (convF32 fo (modeNonsat (getLE d 0x28 1)) (opRnd e (getLE d 0x28 1) (getLE d 0x2C 4)) (mDim d) 0 g.1) g.2) t)) ∧
  (∀ (e : OpEnv) (h line : Nat) (s : State),
    let r := l1Line e h line s
    let held := (tileOf s e.tile).l1.find? fun x => x.1 == h && x.2.1 == line
    let mates (u : State) (k : Nat) : Nat := ((tileOf u e.tile).l1.filter fun y => l1Set y.2.1 == k).length
    (∀ x, held = some x → r = (x.2.2, s)) ∧
    (held = none → r.1 = tileReads s e.tile (tableLoc e h (line * 128)) 128 ∧
      (tileOf r.2 e.tile).l1.head? = some (h, line, r.1) ∧ ∀ k, mates s k ≤ 8 → mates r.2 k ≤ 8)) ∧
  (∀ (r : OpRun) (d : Bytes) (s : State), sendWaits s r d = true →
    (∃ t, exec (.send r d) s = .next t ∧ UnitsKept s t) ∧
    (pastGate s r d = true → ∃ t, exec (.gemmSend r d) s = .next t ∧ UnitsKept s t)) ∧
  (∀ (r : OpRun) (d : Bytes) (c : Nat) (ls : List (Opnd × Loc)) (i : Instr) (off : Nat) (data : Bytes) (b1 s : State),
    OpRuns r d c ls s → sendWaits s r d = false →
    let n := r.tile.val
    let e := opEnv (opTurn r d s) r d c
    let b := opBegins r d c ls s
    let q := sendWord d % 256
    let x := bindOf s q
    let me := memberKey n d
    let item := gridItem b e d []
    let o := itemOut item (gemmAnchor [item.inp] (gM d) (gN d))
    (i = .send r d ∧ dKind d = 0x11 ∧ off = getLE d 0x1C 4 ∧ data = rdField b e (getLE d 0x14 4) (getLE d 0x18 4) ∧ b1 = b) ∨
      (i = .gemmSend r d ∧ dKind d = 2 ∧ pastGate s r d = true ∧ item.parts = [] ∧ off = getLE d 0x20 4 % 2 ^ 28 ∧
        data = withTrailing (gFc d) o ∧ b1 = wrTrailing e (getLE d 0x20 4) (gFc d) o b) →
    (opHdr s n r.mb = none → ∃ t, exec i s = .next t ∧ (tileOf t n).opStatus = 0x0002 ∧ t.mq = s.mq) ∧
    ∀ h, opHdr s n r.mb = some h →
      let grp := sendGroup b n d
      let fresh : Sending := ⟨c, hdrMb h, x.credits.headD 0, grp.map fun m => memberKey m.1 m.2, h, sendRows d, groupLen grp,
        sendWord d, groupLen grp == 0 && grp.all fun m => sendBytes m.2 == 0⟩
      let fits := data = [] ∨ off + data.length ≤ x.slotBytes
      (¬ fits → ∃ t, exec i s = .next t ∧ OpFaults c 9 s b t) ∧
      ∀ y, fits → (openSend x c (hdrMb h) me).getD fresh = y →
        let at_ := y.slot * x.slotBytes + off
        ∃ t, exec i s = .next t ∧ t.tile.store = b1.tile.store ∧ t.tile.window = b1.tile.window ∧
          (bindOf t q).credits = (if (openSend x c (hdrMb h) me).isSome then x.credits else x.credits.drop 1) ∧
          { y with left := y.left.erase me } ∈ (bindOf t q).sending ∧ (∀ k, k ≠ q → bindOf t k = bindOf s k) ∧
          (x.loc = false → t.mem = s.mem ∧
            (data ≠ [] → Sends (msgOut s.dvl.addr x.destAddr s.dvl.nextMsgId (.mqBlock x.handle at_ data)) s t)) ∧
          (x.loc = true → ∀ k z, findObj s x.handle = some z → z.role = .queueBuf k → (queueOf s k).handle = x.handle →
            (queueOf s k).slots[at_ / slotBytes (queueOf s k)]? = some .granted → 0 < slotBytes (queueOf s k) →
            at_ % slotBytes (queueOf s k) + data.length ≤ slotBytes (queueOf s k) → Memory.wf z.mem = true →
            objBytes t x.handle at_ data.length = data)) ∧
  (∀ (r : OpRun) (d : Bytes) (s : State),
    let q := sendWord d % 256
    let x := bindOf s q
    (x.sending.find? (fun y => y.left.isEmpty) = none → ∃ t, exec (.sendGroupHeader r d) s = .next t ∧ UnitsKept s t) ∧
    ∀ y, x.sending.find? (fun y => y.left.isEmpty) = some y →
      (destCtx s x y.ctx = none → activeCtx (ctxOf s y.ctx) = true → ∃ t, exec (.sendGroupHeader r d) s = .next t ∧
        OpFaults y.ctx 0x0A s s t) ∧
      ∀ dc, destCtx s x y.ctx = some dc →
        let hd := sealHdr (setLE (outHdr s x y dc) 0x28 4 x.seq)
        let k := queueOf s x.destQueue
        (x.destAddr ≠ s.dvl.addr → ∃ t, exec (.sendGroupHeader r d) s = .next t ∧ t.mem = s.mem ∧
          Sends (msgOut s.dvl.addr x.destAddr s.dvl.nextMsgId (.mqHeader x.destQueue q hd)) s t ∧
          bindOf t q = { x with
            sending := x.sending.filter (· != y), window := x.window ++ [(x.seq, y.ctx, hd)], seq := seqNext x.seq }) ∧
        (x.destAddr = s.dvl.addr → hdrCause s x.destQueue s.dvl.addr hd = none → hdrSeq hd = k.nextSeq →
          ∃ t l, exec (.sendGroupHeader r d) s = .next t ∧
            (queueOf t x.destQueue).entries = k.entries ++ ⟨hd, slotOfHdr k hd⟩ :: l)) ∧
  ∀ (n : Fin 256) (d : Bytes) (l : List (Fin 256 × Bytes)) (s : State),
    let ms := (n, d) :: l
    let q := rQueue d
    let k := queueOf s q
    let turn := ∀ m ∈ ms, recvTurn s m.1.val m.2 = true
    let past := ∃ p, takePoint s n.val d = some p ∧ p < s.now
    let idles (i : Instr) : Prop := ∃ t, exec i s = .next t ∧ UnitsKept s t
    let none_ (t : State) : Prop := ∀ m ∈ ms, ∃ y, (tileOf t m.1.val).take = some y ∧ y.hdrs = [] ∧ y.skip = true
    (¬ turn → idles (.recv ms) ∧ idles (.recvTakeTail ms)) ∧
    (turn → (∀ m ∈ ms, dLast m.2 = false) →
      (∀ m, ms.find? (fun m => !checksOk m.2) = some m →
        (∃ t, exec (.recv ms) s = .next t ∧ none_ t) ∧
        ∀ c, opCtx s m.1.val m.2 = some c → activeCtx (ctxOf s c) = true → ∃ t, exec (.recv ms) s = .next t ∧ none_ t ∧
          OpFaults c 4 s s t) ∧
      (∀ m, ms.find? (fun m => !checksOk m.2) = none → ms.find? (fun m => !descOk m.2 (windowBytes s)) = some m →
        ∃ t, exec (.recv ms) s = .next t ∧ none_ t ∧ (tileOf t m.1.val).opStatus = 0x0002 ∧ t.mem = s.mem ∧ t.mq = s.mq) ∧
      (recvBad ms s = none →
        (rTaken s n.val d = 0 → skips s n.val d = true → ∃ t, exec (.recv ms) s = .next t ∧ none_ t ∧ t.mq = s.mq ∧
          t.mem = s.mem) ∧
        (past → ¬ (rTaken s n.val d = 0 ∧ skips s n.val d = true) → idles (.recv ms)) ∧
        ((∀ m ∈ ms, rTaken s m.1.val m.2 = 0) → skips s n.val d = false → ¬ past → 1 ≤ rMax d →
          (k.entries = [] → idles (.recv ms)) ∧
          ∀ x rest, k.entries = x :: rest →
            let c := hdrCtx x.hdr
            let fit := ∀ m ∈ ms, oversized m.2 x.hdr = false
            (selects s n.val c d = false → idles (.recv ms)) ∧
            (selects s n.val c d = true → limited s q = true → ∃ t, exec (.recv ms) s = .next t ∧
              (queueOf t q).entries = k.entries ∧ (queueOf t q).limitFrame = true ∧ t.tile = s.tile ∧ t.mem = s.mem ∧
              (k.limitFrame = false → Logs 0x0305 s t)) ∧
            (selects s n.val c d = true → limited s q = false → ¬ fit → activeCtx (ctxOf s c) = true →
              ∃ t, exec (.recv ms) s = .next t ∧ (ctxOf t c).state = .faulted ∧ (ctxOf t c).cause = 9 ∧ Logs 0x0401 s t) ∧
            (selects s n.val c d = true → limited s q = false → fit → rMax d = 1 → x.hdr.length = 64 →
              (ms.map (·.1)).Nodup → Memory.wf s.tile.store = true →
              ∃ t, exec (.recv ms) s = .next t ∧ (queueOf t q).entries = rest ∧ t.tile.window = s.tile.window ∧
                t.mem = s.mem ∧
                (dRow d = true → rMatch d = false → (tileOf s n.val).sel = none →
                  (∀ u ∈ n.val :: slotTiles s n.val, (tileOf t u).sel = some c) ∧
                  ∀ en, tileEntry s n.val = some en → (rowAt s (entRow en)).arrival = true →
                    (rowAt t (entRow en)).ctx = some c ∧
                    ((ctxOf s c).state = .admitted → (ctxOf t c).state = .running)) ∧
                (k.phase = 0 → ((stageQueues s (ctxOf s c).pipeline (hdrStage x.hdr)).bind (·.bwdQ)).isSome = true →
                  tget [] (ctxOf t c).inflight (hdrStage x.hdr) =
                    tget [] (ctxOf s c).inflight (hdrStage x.hdr) ++ [(hdrStep x.hdr, hdrMb x.hdr, hdrVer x.hdr)]) ∧
                ∀ m ∈ ms, ∃ y, (tileOf t m.1.val).take = some y ∧ y.hdrs = [x.hdr] ∧ y.skip = false ∧ y.recv = m.2 ∧
                  (getLE m.2 0x30 4 = 0 →
                    memRead t.tile.store (m.1.val * 2 ^ 22 + getLE m.2 0x14 4 % 2 ^ 28) (rPart m.2 x.hdr) =
                      objBytes s k.handle (x.slot * slotBytes k + getLE m.2 0x1C 4) (rPart m.2 x.hdr)) ∧
                  (getLE m.2 0x30 4 ≠ 0 →
                    memRead t.tile.store (m.1.val * 2 ^ 22 + getLE m.2 0x30 4 % 2 ^ 28) 64 = x.hdr)) ∧
            (rMatch d = true ∨ dRow d = false → k.phase ≠ 0 → (ms.map (·.1)).Nodup →
              (∀ z ∈ k.entries.take (rMax d), opCtx s n.val d = some (hdrCtx z.hdr) ∧
                ∀ m ∈ ms, oversized m.2 z.hdr = false) →
              ∃ t, exec (.recv ms) s = .next t ∧ (queueOf t q).entries = k.entries.drop (rMax d) ∧ t.mem = s.mem ∧
                ∀ m ∈ ms, ∃ y, (tileOf t m.1.val).take = some y ∧
                  y.hdrs = (k.entries.take (rMax d)).map (·.hdr) ∧ y.skip = false))) ∧
      (rTaken s n.val d = 0 → ∃ t, exec (.recvTakeTail ms) s = .next t ∧ none_ t ∧
        t.mq.emptyCnt = min (s.mq.emptyCnt + 1) 0xFFFF_FFFF ∧ (queueOf t q).emptyFrame = true ∧
        (k.emptyFrame = false → Logs 0x0304 s t) ∧ (queueOf t q).entries = k.entries ∧
        (∀ p, takePoint s n.val d = some p → p ≤ t.now) ∧ t.tile.store = s.tile.store ∧ t.mem = s.mem) ∧
      (0 < rTaken s n.val d → ∃ t, exec (.recvTakeTail ms) s = .next t ∧ t.mq = s.mq ∧ t.mem = s.mem ∧
        ∀ m ∈ ms, (tileOf s m.1.val).ended = false →
          (tileOf t m.1.val).take = (tileOf s m.1.val).take.map fun y => { y with streaming := false }))

/-- The fill gate and the current of the grid (R79, R84-R87, R89-R91). A micro-batch with fewer rows than the fill opens a group
and waits, or joins the group of its key; the group is due once its rows reach the fill, when it would pass 128 rows, when a
fifth key comes, at the op's tail point and when its timeout ends: then the GEMM of each of its micro-batches drains in the
order of joining, and they share the passes of the first; weights that are gone by then fault the context. A due GEMM_SEND that
needs a credit waits, else it sends. A gap above the threshold ramps the tile down and a planned op ramps it up to its floor.
The governor moves a die's current by 50 A a window at most: it holds the first tile with an op running while the rise is
above that, lets all issue again when it is not, and fills dummy rows into the first idle tile while the fall is above it
(which tiles, and how many: log entry 104). -/
def Obligations.GroupsFillAndCurrentIsGoverned : Prop :=
  let put (s : State) (j : GridItem) : State :=
    gemmWrite j.env j.desc (itemOut j (gemmAnchor [j.inp] (gM j.desc) (gN j.desc))) s
  let plain (n c : Nat) (j : GridItem) : Prop := dKind j.desc = 1 ∧ j.parts = [] ∧ getLE j.desc 0x18 4 / 2 ^ 28 ≠ 3 ∧
    j.env.tile = n ∧ j.env.ctx = c ∧ 1 ≤ gM j.desc
  (∀ (r : OpRun) (d : Bytes) (c : Nat) (ls : List (Opnd × Loc)) (i : Instr) (parts : List (OpRun × Bytes)) (s : State),
    OpRuns r d c ls s →
    (i = .gemm r d parts ∧ dKind d = 1) ∨ (i = .gemmSend r d ∧ dKind d = 2 ∧ parts = []) →
    let n := r.tile.val
    let e := opEnv (opTurn r d s) r d c
    let b := opBegins r d c ls s
    let gs := (tileOf s n).groups
    let item := gridItem b e d parts
    let new : Group := ⟨c, e.stage, e.ver, joinRows e d, [item], item.since, false, 0⟩
    let key (g : Group) : Prop := g.op = dSeq d ∧ g.ctx = c ∧ g.version = e.ver ∧ g.stage = e.stage
    let early := ∀ p, fillTail s n d = some p → s.now < p
    let issues (js : List GridItem) (rest : List Group) : Prop := ∃ t, exec i s = .next t ∧
      TileHolds n (js.foldl put b) t ∧ (tileOf t n).groups = rest
    pastGate s r d = false → (∀ g ∈ gs, g.closed = false) → (tileOf s n).split = [] →
    (joinRows e d < gFill d → early → (∀ g ∈ gs, ¬ key g) → (gs.filter fun g => g.op == dSeq d).length < 4 →
      issues [] (gs ++ [new])) ∧
    (∀ g rest, joinRows e d < gFill d → early → gs = g :: rest → rest.length = 3 → gs.Nodup →
      (∀ x ∈ gs, ¬ key x ∧ x.op = dSeq d) → (∀ j ∈ g.items, plain n g.ctx j) → activeCtx (ctxOf s g.ctx) = true →
      issues g.items (rest ++ [new])) ∧
    ∀ g, gs = [g] → key g →
      (g.rows + joinRows e d < gFill d → early →
        issues [] [{ g with rows := g.rows + joinRows e d, items := g.items ++ [item] }]) ∧
      (128 < g.rows + joinRows e d → joinRows e d < gFill d → early → (∀ j ∈ g.items, plain n c j) →
        issues g.items [new]) ∧
      (gFill d ≤ g.rows + joinRows e d → g.rows + joinRows e d ≤ 128 → (∀ j ∈ g.items ++ [item], plain n c j) →
        issues (g.items ++ [item]) [])) ∧
  (∀ (n : Fin 256) (g : Group) (s : State),
    (tileOf s n.val).groups = [g] → g.closed = false → (tileOf s n.val).split = [] → activeCtx (ctxOf s g.ctx) = true →
    (∀ i u, (i = .fillTailPoint n ∧ u = (match Group.tail s n.val g with | some p => advance p s | none => s)) ∨
        (i = .fillGroupTimeout n g.ctx g.version ∧ u = advance g.deadline s) →
      ((∀ j ∈ g.items, plain n.val g.ctx j) → g.issued = 0 → ∃ t, exec i s = .next t ∧
        TileHolds n.val (g.items.foldl put u) t ∧ (tileOf t n.val).groups = [] ∧
        (tileOf t n.val).passes = (tileOf s n.val).passes +
          ((g.items.head?.map fun j => (gridPasses j.inp (gM j.desc)).length).getD 0)) ∧
      ∀ j, g.items = [j] → j.env.tile = n.val → j.env.ctx = g.ctx → j.parts = [] →
        (∀ cause, itemBlocked s j = false → weightsGone s j = some cause → ∃ t, exec i s = .next t ∧
          OpFaults g.ctx cause s s t) ∧
        (itemBlocked s j = true → ∃ t, exec i s = .next t ∧ TileHolds n.val u t ∧
          (tileOf t n.val).groups = [{ g with closed := true }]) ∧
        ∀ h, itemBlocked s j = false → weightsGone s j = none → dKind j.desc = 2 → j.env.hdr = some h →
          let x := bindOf s (sendWord j.desc % 256)
          let o := itemOut j (gemmAnchor [j.inp] (gM j.desc) (gN j.desc))
          let off := getLE j.desc 0x20 4 % 2 ^ 28
          let data := withTrailing (gFc j.desc) o
          openSend x g.ctx (hdrMb h) (memberKey n.val j.desc) = none → x.loc = false → data ≠ [] →
          off + data.length ≤ x.slotBytes → ∃ t, exec i s = .next t ∧ (tileOf t n.val).groups = [] ∧
            (bindOf t (sendWord j.desc % 256)).credits = x.credits.drop 1 ∧
            Sends (msgOut s.dvl.addr x.destAddr s.dvl.nextMsgId (.mqBlock x.handle (x.credits.headD 0 * x.slotBytes + off) data)) s t) ∧
    ∀ v, v ≠ g.version → ∃ t, exec (.fillGroupTimeout n g.ctx v) s = .next t ∧
      TileHolds n.val s t ∧ (tileOf t n.val).groups = [g]) ∧
  (∀ (n : Fin 256) (s : State),
    let x := tileOf s n.val
    (∃ t, exec (.keepCurrentThreshold n) s = .next t ∧ TileHolds n.val s t ∧
      tileOf t n.val = { x with level := 0, gated := true, lfsr := rampLfsr x.lfsr }) ∧
    ∃ t, exec (.tileRampUp n) s = .next t ∧ TileHolds n.val s t ∧
      tileOf t n.val = { x with
        gated := false, lfsr := rampLfsr x.lfsr
        level := floorLevel (currentFloor s) (if x.lastCurrent = 0 then (gridFigures s (n.val / 64)).1 else x.lastCurrent) }) ∧
  ∀ (die : Fin 4) (cur : Nat) (s : State), ∃ t, exec (.slewGovernorWindow die cur) s = .next t ∧
    let old := (dieOf s die).current
    let rise := cur - (old + 50000)
    let fall := old - 50000 - cur
    (dieOf t die).current = max (old - 50000) (min (old + 50000) cur) ∧
    (dieOf t die).held = decide (old + 50000 < cur) ∧
    (∀ x : Fin 4, x ≠ die → dieOf t x = dieOf s x) ∧
    (∀ u, u / 64 ≠ die.val → tileOf t u = tileOf s u) ∧
    (rise = 0 → ∀ u ∈ dieTiles s die true, (tileOf t u).held = false) ∧
    (∀ u r, 0 < rise → dieTiles s die true = u :: r →
      (tileOf t u).held = true ∧ (tileOf t u).slewNs = (tileOf s u).slewNs + 1000) ∧
    (fall = 0 → ∀ u, (tileOf t u).level = (tileOf s u).level) ∧
    (∀ u r, 0 < fall → dieTiles s die false = u :: r →
      (tileOf t u).level = (tileOf s u).level + min (16 - (tileOf s u).level) ((10 * fall + 5624) / 5625)) ∧
    t.tile.store = s.tile.store ∧ t.mem = s.mem

/-- Every command is executed: none is refused and none faults, in any state. -/
def Obligations.EveryCommandEndsInANextState : Prop := ∀ (c : Instr) (s : State), ∃ t, exec c s = .next t
end

