-- ==== Sys2Proof/Laws/Memory.lean ====
section
/-! SUPPORT. Byte memories: a read after a write, a write leaves every other byte alone, and every operation keeps the
canonical form. -/

namespace Sys2Proof.Machine

theorem memWfFrom_mono {lo hi : Nat} (h : lo ≤ hi) : ∀ m : Mem, memWfFrom hi m = true → memWfFrom lo m = true
  | [], _ => rfl
  | (a, v) :: r, hm => by
    simp only [memWfFrom, Bool.and_eq_true, decide_eq_true_eq] at hm ⊢
    exact ⟨⟨by omega, hm.1.2⟩, hm.2⟩

/-- No address below the bound is listed. -/
theorem memGet_below {lo a : Nat} (h : a < lo) : ∀ m : Mem, memWfFrom lo m = true → memGet m a = 0
  | [], _ => rfl
  | (b, v) :: r, hm => by
    simp only [memWfFrom, Bool.and_eq_true, decide_eq_true_eq] at hm
    have hb : b ≠ a := by omega
    simp only [memGet, hb, if_false]
    exact memGet_below (show a < b + 1 by omega) r hm.2

theorem memSet_wfFrom {lo a : Nat} (h : lo ≤ a) (v : Byte) :
    ∀ m : Mem, memWfFrom lo m = true → memWfFrom lo (memSet m a v) = true
  | [], _ => by
    simp only [memSet]
    split
    · rfl
    · simp_all [memWfFrom]
  | (b, w) :: r, hm => by
    have hm' := hm
    simp only [memWfFrom, Bool.and_eq_true, decide_eq_true_eq] at hm
    obtain ⟨⟨hb, hw⟩, hr⟩ := hm
    simp only [memSet]
    split
    · simp only [memWfFrom, Bool.and_eq_true, decide_eq_true_eq]
      exact ⟨⟨hb, hw⟩, memSet_wfFrom (by omega) v r hr⟩
    · split
      · split
        · exact memWfFrom_mono (by omega) r hr
        · subst_vars; simp_all [memWfFrom]
      · split
        · exact hm'
        · have : a + 1 ≤ b := by omega
          simp_all [memWfFrom]

/-- Writing a byte keeps the canonical form. -/
theorem memSet_wf (m : Mem) (a : Nat) (v : Byte) (h : Memory.wf m = true) : Memory.wf (memSet m a v) = true :=
  memSet_wfFrom (Nat.zero_le a) v m h

/-- Writing a run of bytes keeps the canonical form. -/
theorem memWrite_wf : ∀ (bs : Bytes) (m : Mem) (a : Nat), Memory.wf m = true → Memory.wf (memWrite m a bs) = true
  | [], _, _, h => h
  | b :: bs, m, a, h => memWrite_wf bs (memSet m a b) (a + 1) (memSet_wf m a b h)

theorem filter_wfFrom (p : Host.Cell → Bool) : ∀ (m : Mem) (lo : Nat), memWfFrom lo m = true →
    memWfFrom lo (m.filter p) = true
  | [], _, _ => rfl
  | (a, v) :: r, lo, h => by
    simp only [memWfFrom, Bool.and_eq_true, decide_eq_true_eq] at h
    have ih := filter_wfFrom p r (a + 1) h.2
    simp only [List.filter_cons]
    split
    · simp only [memWfFrom, Bool.and_eq_true, decide_eq_true_eq]
      exact ⟨h.1, ih⟩
    · exact memWfFrom_mono (by omega) _ ih

/-- Zeroing a range keeps the canonical form. -/
theorem memZero_wf (m : Mem) (a n : Nat) (h : Memory.wf m = true) : Memory.wf (memZero m a n) = true :=
  filter_wfFrom _ m 0 h

theorem memGet_memSet_from {lo : Nat} (a j : Nat) (v : Byte) (ha : lo ≤ a) :
    ∀ m : Mem, memWfFrom lo m = true → memGet (memSet m a v) j = if a = j then v else memGet m j
  | [], _ => by
    simp only [memSet]
    split
    · simp_all [memGet]
    · simp [memGet]
  | (b, w) :: r, hm => by
    simp only [memWfFrom, Bool.and_eq_true, decide_eq_true_eq] at hm
    obtain ⟨⟨hb, hw⟩, hr⟩ := hm
    simp only [memSet]
    split
    · have ih := memGet_memSet_from a j v (show b + 1 ≤ a by omega) r hr
      simp only [memGet, ih]
      by_cases h1 : b = j
      · have : a ≠ j := by omega
        simp [h1, this]
      · simp [h1]
    · split
      · subst_vars
        split
        · by_cases h1 : b = j
          · subst h1
            have h0 := memGet_below (show b < b + 1 by omega) r hr
            simp_all
          · simp [memGet, h1]
        · by_cases h1 : b = j <;> simp [memGet, h1]
      · split
        · by_cases h1 : a = j
          · have h0 := memGet_below (show a < b by omega) ((b, w) :: r)
              (by simp only [memWfFrom, Bool.and_eq_true, decide_eq_true_eq]; exact ⟨⟨by omega, hw⟩, hr⟩)
            subst h1; rw [h0]; simp_all
          · simp [h1]
        · simp [memGet]

/-- A read after a write: the byte written at its address, and every other byte as before. -/
theorem memGet_memSet (m : Mem) (a j : Nat) (v : Byte) (h : Memory.wf m = true) :
    memGet (memSet m a v) j = if a = j then v else memGet m j := memGet_memSet_from a j v (Nat.zero_le a) m h

/-- A read after a run of bytes is written. -/
theorem memGet_memWrite : ∀ (bs : Bytes) (m : Mem) (a j : Nat), Memory.wf m = true →
    memGet (memWrite m a bs) j = if a ≤ j ∧ j < a + bs.length then bs.getD (j - a) 0 else memGet m j
  | [], m, a, j, _ => by
    have : ¬ (a ≤ j ∧ j < a + 0) := by omega
    simp [memWrite]
  | b :: bs, m, a, j, h => by
    have ih := memGet_memWrite bs (memSet m a b) (a + 1) j (memSet_wf m a b h)
    simp only [memWrite, ih, memGet_memSet m a j b h, List.length_cons]
    by_cases h1 : a = j
    · subst h1
      simp
    · by_cases h2 : a + 1 ≤ j ∧ j < a + 1 + bs.length
      · have h3 : a ≤ j ∧ j < a + (bs.length + 1) := by omega
        have h4 : j - a = (j - (a + 1)) + 1 := by omega
        simp [h2, h3, h4]
      · have h3 : ¬ (a ≤ j ∧ j < a + (bs.length + 1)) := by omega
        rw [if_neg h2, if_neg h3, if_neg h1]

end Sys2Proof.Machine
end

