-- ==== Sys2Proof/Laws/State.lean ====
section
/-! SUPPORT. What each update of State leaves alone, one lemma per field, and what a table answers after it is written:
later proofs cite these in place of unfolding a record update. -/

namespace Sys2Proof.Machine

/-! ### Tables -/

theorem tget_tset {α : Type} (d : α) (t : Tab α) (k j : Nat) (v : α) :
    tget d (tset t k v) j = if k = j then v else tget d t j := by
  induction t with
  | nil => simp [tset, tget]
  | cons e r ih =>
    obtain ⟨i, w⟩ := e
    simp only [tset]
    split
    · subst_vars; by_cases h : i = j <;> simp [tget, h]
    · split
      · simp [tget]
      · simp only [tget, ih]
        by_cases h : i = j
        · subst h; simp_all [eq_comm]
        · simp [h]

@[simp] theorem tget_tset_same {α : Type} (d : α) (t : Tab α) (k : Nat) (v : α) : tget d (tset t k v) k = v := by
  simp [tget_tset]

theorem tget_tset_other {α : Type} (d : α) (t : Tab α) {k j : Nat} (v : α) (h : k ≠ j) :
    tget d (tset t k v) j = tget d t j := by simp [tget_tset, h]

@[simp] theorem tget_tupd_same {α : Type} (d : α) (t : Tab α) (k : Nat) (f : α → α) :
    tget d (tupd d t k f) k = f (tget d t k) := by simp [tupd]

theorem tget_tupd_other {α : Type} (d : α) (t : Tab α) {k j : Nat} (f : α → α) (h : k ≠ j) :
    tget d (tupd d t k f) j = tget d t j := by simp [tupd, tget_tset, h]

/-! ### Records read back -/

@[simp] theorem fnOf_setFn_same (f : Nat) (g : FnSt → FnSt) (s : State) : fnOf (setFn f g s) f = g (fnOf s f) := by
  simp [fnOf, setFn]

theorem fnOf_setFn_other {f j : Nat} (g : FnSt → FnSt) (s : State) (h : f ≠ j) :
    fnOf (setFn f g s) j = fnOf s j := by simp [fnOf, setFn, tget_tupd_other, h]

@[simp] theorem ctxOf_setCtx_same (c : Nat) (g : Ctx → Ctx) (s : State) : ctxOf (setCtx c g s) c = g (ctxOf s c) := by
  simp [ctxOf, setCtx]

theorem ctxOf_setCtx_other {c j : Nat} (g : Ctx → Ctx) (s : State) (h : c ≠ j) :
    ctxOf (setCtx c g s) j = ctxOf s j := by simp [ctxOf, setCtx, tget_tupd_other, h]

@[simp] theorem tileOf_setTile_same (c : Nat) (g : TileSt → TileSt) (s : State) :
    tileOf (setTile c g s) c = g (tileOf s c) := by simp [tileOf, setTile]

theorem tileOf_setTile_other {c j : Nat} (g : TileSt → TileSt) (s : State) (h : c ≠ j) :
    tileOf (setTile c g s) j = tileOf s j := by simp [tileOf, setTile, tget_tupd_other, h]

@[simp] theorem portOf_setPort_same (c : Nat) (g : PortSt → PortSt) (s : State) :
    portOf (setPort c g s) c = g (portOf s c) := by simp [portOf, setPort]

theorem portOf_setPort_other {c j : Nat} (g : PortSt → PortSt) (s : State) (h : c ≠ j) :
    portOf (setPort c g s) j = portOf s j := by simp [portOf, setPort, tget_tupd_other, h]

@[simp] theorem queueOf_setQueue_same (c : Nat) (g : Queue → Queue) (s : State) :
    queueOf (setQueue c g s) c = g (queueOf s c) := by simp [queueOf, setQueue]

theorem queueOf_setQueue_other {c j : Nat} (g : Queue → Queue) (s : State) (h : c ≠ j) :
    queueOf (setQueue c g s) j = queueOf s j := by simp [queueOf, setQueue, tget_tupd_other, h]

@[simp] theorem bindOf_setBind_same (c : Nat) (g : Binding → Binding) (s : State) :
    bindOf (setBind c g s) c = g (bindOf s c) := by simp [bindOf, setBind]

theorem bindOf_setBind_other {c j : Nat} (g : Binding → Binding) (s : State) (h : c ≠ j) :
    bindOf (setBind c g s) j = bindOf s j := by simp [bindOf, setBind, tget_tupd_other, h]

/-! ### setFn -/

@[simp] theorem setFn_pending (f : Nat) (g : FnSt → FnSt) (s : State) : (setFn f g s).pending = s.pending := rfl
@[simp] theorem setFn_now (f : Nat) (g : FnSt → FnSt) (s : State) : (setFn f g s).now = s.now := rfl
@[simp] theorem setFn_freeCtr (f : Nat) (g : FnSt → FnSt) (s : State) : (setFn f g s).freeCtr = s.freeCtr := rfl
@[simp] theorem setFn_dbg (f : Nat) (g : FnSt → FnSt) (s : State) : (setFn f g s).dbg = s.dbg := rfl
@[simp] theorem setFn_pkg (f : Nat) (g : FnSt → FnSt) (s : State) : (setFn f g s).pkg = s.pkg := rfl
@[simp] theorem setFn_pwr (f : Nat) (g : FnSt → FnSt) (s : State) : (setFn f g s).pwr = s.pwr := rfl
@[simp] theorem setFn_mem (f : Nat) (g : FnSt → FnSt) (s : State) : (setFn f g s).mem = s.mem := rfl
@[simp] theorem setFn_mq (f : Nat) (g : FnSt → FnSt) (s : State) : (setFn f g s).mq = s.mq := rfl
@[simp] theorem setFn_vnr (f : Nat) (g : FnSt → FnSt) (s : State) : (setFn f g s).vnr = s.vnr := rfl
@[simp] theorem setFn_jig (f : Nat) (g : FnSt → FnSt) (s : State) : (setFn f g s).jig = s.jig := rfl
@[simp] theorem setFn_tile (f : Nat) (g : FnSt → FnSt) (s : State) : (setFn f g s).tile = s.tile := rfl
@[simp] theorem setFn_glu (f : Nat) (g : FnSt → FnSt) (s : State) : (setFn f g s).glu = s.glu := rfl
@[simp] theorem setFn_dvl (f : Nat) (g : FnSt → FnSt) (s : State) : (setFn f g s).dvl = s.dvl := rfl
@[simp] theorem setFn_ckp (f : Nat) (g : FnSt → FnSt) (s : State) : (setFn f g s).ckp = s.ckp := rfl
@[simp] theorem setFn_out (f : Nat) (g : FnSt → FnSt) (s : State) : (setFn f g s).out = s.out := rfl

/-! ### setPair -/

@[simp] theorem setPair_pending (f p : Nat) (g : Pair → Pair) (s : State) : (setPair f p g s).pending = s.pending := rfl
@[simp] theorem setPair_now (f p : Nat) (g : Pair → Pair) (s : State) : (setPair f p g s).now = s.now := rfl
@[simp] theorem setPair_freeCtr (f p : Nat) (g : Pair → Pair) (s : State) : (setPair f p g s).freeCtr = s.freeCtr := rfl
@[simp] theorem setPair_dbg (f p : Nat) (g : Pair → Pair) (s : State) : (setPair f p g s).dbg = s.dbg := rfl
@[simp] theorem setPair_pkg (f p : Nat) (g : Pair → Pair) (s : State) : (setPair f p g s).pkg = s.pkg := rfl
@[simp] theorem setPair_pwr (f p : Nat) (g : Pair → Pair) (s : State) : (setPair f p g s).pwr = s.pwr := rfl
@[simp] theorem setPair_mem (f p : Nat) (g : Pair → Pair) (s : State) : (setPair f p g s).mem = s.mem := rfl
@[simp] theorem setPair_mq (f p : Nat) (g : Pair → Pair) (s : State) : (setPair f p g s).mq = s.mq := rfl
@[simp] theorem setPair_vnr (f p : Nat) (g : Pair → Pair) (s : State) : (setPair f p g s).vnr = s.vnr := rfl
@[simp] theorem setPair_jig (f p : Nat) (g : Pair → Pair) (s : State) : (setPair f p g s).jig = s.jig := rfl
@[simp] theorem setPair_tile (f p : Nat) (g : Pair → Pair) (s : State) : (setPair f p g s).tile = s.tile := rfl
@[simp] theorem setPair_glu (f p : Nat) (g : Pair → Pair) (s : State) : (setPair f p g s).glu = s.glu := rfl
@[simp] theorem setPair_dvl (f p : Nat) (g : Pair → Pair) (s : State) : (setPair f p g s).dvl = s.dvl := rfl
@[simp] theorem setPair_ckp (f p : Nat) (g : Pair → Pair) (s : State) : (setPair f p g s).ckp = s.ckp := rfl
@[simp] theorem setPair_out (f p : Nat) (g : Pair → Pair) (s : State) : (setPair f p g s).out = s.out := rfl

/-! ### setCtx -/

@[simp] theorem setCtx_pending (c : Nat) (g : Ctx → Ctx) (s : State) : (setCtx c g s).pending = s.pending := rfl
@[simp] theorem setCtx_now (c : Nat) (g : Ctx → Ctx) (s : State) : (setCtx c g s).now = s.now := rfl
@[simp] theorem setCtx_freeCtr (c : Nat) (g : Ctx → Ctx) (s : State) : (setCtx c g s).freeCtr = s.freeCtr := rfl
@[simp] theorem setCtx_host (c : Nat) (g : Ctx → Ctx) (s : State) : (setCtx c g s).host = s.host := rfl
@[simp] theorem setCtx_dbg (c : Nat) (g : Ctx → Ctx) (s : State) : (setCtx c g s).dbg = s.dbg := rfl
@[simp] theorem setCtx_pkg (c : Nat) (g : Ctx → Ctx) (s : State) : (setCtx c g s).pkg = s.pkg := rfl
@[simp] theorem setCtx_pwr (c : Nat) (g : Ctx → Ctx) (s : State) : (setCtx c g s).pwr = s.pwr := rfl
@[simp] theorem setCtx_mem (c : Nat) (g : Ctx → Ctx) (s : State) : (setCtx c g s).mem = s.mem := rfl
@[simp] theorem setCtx_mq (c : Nat) (g : Ctx → Ctx) (s : State) : (setCtx c g s).mq = s.mq := rfl
@[simp] theorem setCtx_jig (c : Nat) (g : Ctx → Ctx) (s : State) : (setCtx c g s).jig = s.jig := rfl
@[simp] theorem setCtx_tile (c : Nat) (g : Ctx → Ctx) (s : State) : (setCtx c g s).tile = s.tile := rfl
@[simp] theorem setCtx_glu (c : Nat) (g : Ctx → Ctx) (s : State) : (setCtx c g s).glu = s.glu := rfl
@[simp] theorem setCtx_dvl (c : Nat) (g : Ctx → Ctx) (s : State) : (setCtx c g s).dvl = s.dvl := rfl
@[simp] theorem setCtx_ckp (c : Nat) (g : Ctx → Ctx) (s : State) : (setCtx c g s).ckp = s.ckp := rfl
@[simp] theorem setCtx_out (c : Nat) (g : Ctx → Ctx) (s : State) : (setCtx c g s).out = s.out := rfl

/-! ### setJob -/

@[simp] theorem setJob_pending (j : Nat) (g : Job → Job) (s : State) : (setJob j g s).pending = s.pending := rfl
@[simp] theorem setJob_now (j : Nat) (g : Job → Job) (s : State) : (setJob j g s).now = s.now := rfl
@[simp] theorem setJob_freeCtr (j : Nat) (g : Job → Job) (s : State) : (setJob j g s).freeCtr = s.freeCtr := rfl
@[simp] theorem setJob_host (j : Nat) (g : Job → Job) (s : State) : (setJob j g s).host = s.host := rfl
@[simp] theorem setJob_dbg (j : Nat) (g : Job → Job) (s : State) : (setJob j g s).dbg = s.dbg := rfl
@[simp] theorem setJob_pkg (j : Nat) (g : Job → Job) (s : State) : (setJob j g s).pkg = s.pkg := rfl
@[simp] theorem setJob_pwr (j : Nat) (g : Job → Job) (s : State) : (setJob j g s).pwr = s.pwr := rfl
@[simp] theorem setJob_mem (j : Nat) (g : Job → Job) (s : State) : (setJob j g s).mem = s.mem := rfl
@[simp] theorem setJob_mq (j : Nat) (g : Job → Job) (s : State) : (setJob j g s).mq = s.mq := rfl
@[simp] theorem setJob_jig (j : Nat) (g : Job → Job) (s : State) : (setJob j g s).jig = s.jig := rfl
@[simp] theorem setJob_tile (j : Nat) (g : Job → Job) (s : State) : (setJob j g s).tile = s.tile := rfl
@[simp] theorem setJob_glu (j : Nat) (g : Job → Job) (s : State) : (setJob j g s).glu = s.glu := rfl
@[simp] theorem setJob_dvl (j : Nat) (g : Job → Job) (s : State) : (setJob j g s).dvl = s.dvl := rfl
@[simp] theorem setJob_ckp (j : Nat) (g : Job → Job) (s : State) : (setJob j g s).ckp = s.ckp := rfl
@[simp] theorem setJob_out (j : Nat) (g : Job → Job) (s : State) : (setJob j g s).out = s.out := rfl

/-! ### setTile -/

@[simp] theorem setTile_pending (t : Nat) (g : TileSt → TileSt) (s : State) : (setTile t g s).pending = s.pending := rfl
@[simp] theorem setTile_now (t : Nat) (g : TileSt → TileSt) (s : State) : (setTile t g s).now = s.now := rfl
@[simp] theorem setTile_freeCtr (t : Nat) (g : TileSt → TileSt) (s : State) : (setTile t g s).freeCtr = s.freeCtr := rfl
@[simp] theorem setTile_host (t : Nat) (g : TileSt → TileSt) (s : State) : (setTile t g s).host = s.host := rfl
@[simp] theorem setTile_dbg (t : Nat) (g : TileSt → TileSt) (s : State) : (setTile t g s).dbg = s.dbg := rfl
@[simp] theorem setTile_pkg (t : Nat) (g : TileSt → TileSt) (s : State) : (setTile t g s).pkg = s.pkg := rfl
@[simp] theorem setTile_pwr (t : Nat) (g : TileSt → TileSt) (s : State) : (setTile t g s).pwr = s.pwr := rfl
@[simp] theorem setTile_mem (t : Nat) (g : TileSt → TileSt) (s : State) : (setTile t g s).mem = s.mem := rfl
@[simp] theorem setTile_mq (t : Nat) (g : TileSt → TileSt) (s : State) : (setTile t g s).mq = s.mq := rfl
@[simp] theorem setTile_vnr (t : Nat) (g : TileSt → TileSt) (s : State) : (setTile t g s).vnr = s.vnr := rfl
@[simp] theorem setTile_jig (t : Nat) (g : TileSt → TileSt) (s : State) : (setTile t g s).jig = s.jig := rfl
@[simp] theorem setTile_glu (t : Nat) (g : TileSt → TileSt) (s : State) : (setTile t g s).glu = s.glu := rfl
@[simp] theorem setTile_dvl (t : Nat) (g : TileSt → TileSt) (s : State) : (setTile t g s).dvl = s.dvl := rfl
@[simp] theorem setTile_ckp (t : Nat) (g : TileSt → TileSt) (s : State) : (setTile t g s).ckp = s.ckp := rfl
@[simp] theorem setTile_out (t : Nat) (g : TileSt → TileSt) (s : State) : (setTile t g s).out = s.out := rfl

/-! ### setPort -/

@[simp] theorem setPort_pending (p : Nat) (g : PortSt → PortSt) (s : State) : (setPort p g s).pending = s.pending := rfl
@[simp] theorem setPort_now (p : Nat) (g : PortSt → PortSt) (s : State) : (setPort p g s).now = s.now := rfl
@[simp] theorem setPort_freeCtr (p : Nat) (g : PortSt → PortSt) (s : State) : (setPort p g s).freeCtr = s.freeCtr := rfl
@[simp] theorem setPort_host (p : Nat) (g : PortSt → PortSt) (s : State) : (setPort p g s).host = s.host := rfl
@[simp] theorem setPort_dbg (p : Nat) (g : PortSt → PortSt) (s : State) : (setPort p g s).dbg = s.dbg := rfl
@[simp] theorem setPort_pkg (p : Nat) (g : PortSt → PortSt) (s : State) : (setPort p g s).pkg = s.pkg := rfl
@[simp] theorem setPort_pwr (p : Nat) (g : PortSt → PortSt) (s : State) : (setPort p g s).pwr = s.pwr := rfl
@[simp] theorem setPort_mem (p : Nat) (g : PortSt → PortSt) (s : State) : (setPort p g s).mem = s.mem := rfl
@[simp] theorem setPort_mq (p : Nat) (g : PortSt → PortSt) (s : State) : (setPort p g s).mq = s.mq := rfl
@[simp] theorem setPort_vnr (p : Nat) (g : PortSt → PortSt) (s : State) : (setPort p g s).vnr = s.vnr := rfl
@[simp] theorem setPort_jig (p : Nat) (g : PortSt → PortSt) (s : State) : (setPort p g s).jig = s.jig := rfl
@[simp] theorem setPort_tile (p : Nat) (g : PortSt → PortSt) (s : State) : (setPort p g s).tile = s.tile := rfl
@[simp] theorem setPort_glu (p : Nat) (g : PortSt → PortSt) (s : State) : (setPort p g s).glu = s.glu := rfl
@[simp] theorem setPort_ckp (p : Nat) (g : PortSt → PortSt) (s : State) : (setPort p g s).ckp = s.ckp := rfl
@[simp] theorem setPort_out (p : Nat) (g : PortSt → PortSt) (s : State) : (setPort p g s).out = s.out := rfl

/-! ### setQueue -/

@[simp] theorem setQueue_pending (q : Nat) (g : Queue → Queue) (s : State) : (setQueue q g s).pending = s.pending := rfl
@[simp] theorem setQueue_now (q : Nat) (g : Queue → Queue) (s : State) : (setQueue q g s).now = s.now := rfl
@[simp] theorem setQueue_freeCtr (q : Nat) (g : Queue → Queue) (s : State) : (setQueue q g s).freeCtr = s.freeCtr := rfl
@[simp] theorem setQueue_host (q : Nat) (g : Queue → Queue) (s : State) : (setQueue q g s).host = s.host := rfl
@[simp] theorem setQueue_dbg (q : Nat) (g : Queue → Queue) (s : State) : (setQueue q g s).dbg = s.dbg := rfl
@[simp] theorem setQueue_pkg (q : Nat) (g : Queue → Queue) (s : State) : (setQueue q g s).pkg = s.pkg := rfl
@[simp] theorem setQueue_pwr (q : Nat) (g : Queue → Queue) (s : State) : (setQueue q g s).pwr = s.pwr := rfl
@[simp] theorem setQueue_mem (q : Nat) (g : Queue → Queue) (s : State) : (setQueue q g s).mem = s.mem := rfl
@[simp] theorem setQueue_vnr (q : Nat) (g : Queue → Queue) (s : State) : (setQueue q g s).vnr = s.vnr := rfl
@[simp] theorem setQueue_jig (q : Nat) (g : Queue → Queue) (s : State) : (setQueue q g s).jig = s.jig := rfl
@[simp] theorem setQueue_tile (q : Nat) (g : Queue → Queue) (s : State) : (setQueue q g s).tile = s.tile := rfl
@[simp] theorem setQueue_glu (q : Nat) (g : Queue → Queue) (s : State) : (setQueue q g s).glu = s.glu := rfl
@[simp] theorem setQueue_dvl (q : Nat) (g : Queue → Queue) (s : State) : (setQueue q g s).dvl = s.dvl := rfl
@[simp] theorem setQueue_ckp (q : Nat) (g : Queue → Queue) (s : State) : (setQueue q g s).ckp = s.ckp := rfl
@[simp] theorem setQueue_out (q : Nat) (g : Queue → Queue) (s : State) : (setQueue q g s).out = s.out := rfl

/-! ### setBind -/

@[simp] theorem setBind_pending (b : Nat) (g : Binding → Binding) (s : State) : (setBind b g s).pending = s.pending := rfl
@[simp] theorem setBind_now (b : Nat) (g : Binding → Binding) (s : State) : (setBind b g s).now = s.now := rfl
@[simp] theorem setBind_freeCtr (b : Nat) (g : Binding → Binding) (s : State) : (setBind b g s).freeCtr = s.freeCtr := rfl
@[simp] theorem setBind_host (b : Nat) (g : Binding → Binding) (s : State) : (setBind b g s).host = s.host := rfl
@[simp] theorem setBind_dbg (b : Nat) (g : Binding → Binding) (s : State) : (setBind b g s).dbg = s.dbg := rfl
@[simp] theorem setBind_pkg (b : Nat) (g : Binding → Binding) (s : State) : (setBind b g s).pkg = s.pkg := rfl
@[simp] theorem setBind_pwr (b : Nat) (g : Binding → Binding) (s : State) : (setBind b g s).pwr = s.pwr := rfl
@[simp] theorem setBind_mem (b : Nat) (g : Binding → Binding) (s : State) : (setBind b g s).mem = s.mem := rfl
@[simp] theorem setBind_vnr (b : Nat) (g : Binding → Binding) (s : State) : (setBind b g s).vnr = s.vnr := rfl
@[simp] theorem setBind_jig (b : Nat) (g : Binding → Binding) (s : State) : (setBind b g s).jig = s.jig := rfl
@[simp] theorem setBind_tile (b : Nat) (g : Binding → Binding) (s : State) : (setBind b g s).tile = s.tile := rfl
@[simp] theorem setBind_glu (b : Nat) (g : Binding → Binding) (s : State) : (setBind b g s).glu = s.glu := rfl
@[simp] theorem setBind_dvl (b : Nat) (g : Binding → Binding) (s : State) : (setBind b g s).dvl = s.dvl := rfl
@[simp] theorem setBind_ckp (b : Nat) (g : Binding → Binding) (s : State) : (setBind b g s).ckp = s.ckp := rfl
@[simp] theorem setBind_out (b : Nat) (g : Binding → Binding) (s : State) : (setBind b g s).out = s.out := rfl

/-! ### emit -/

@[simp] theorem emit_pending (o : Out) (s : State) : (emit o s).pending = s.pending := rfl
@[simp] theorem emit_now (o : Out) (s : State) : (emit o s).now = s.now := rfl
@[simp] theorem emit_freeCtr (o : Out) (s : State) : (emit o s).freeCtr = s.freeCtr := rfl
@[simp] theorem emit_host (o : Out) (s : State) : (emit o s).host = s.host := rfl
@[simp] theorem emit_dbg (o : Out) (s : State) : (emit o s).dbg = s.dbg := rfl
@[simp] theorem emit_pkg (o : Out) (s : State) : (emit o s).pkg = s.pkg := rfl
@[simp] theorem emit_pwr (o : Out) (s : State) : (emit o s).pwr = s.pwr := rfl
@[simp] theorem emit_mem (o : Out) (s : State) : (emit o s).mem = s.mem := rfl
@[simp] theorem emit_mq (o : Out) (s : State) : (emit o s).mq = s.mq := rfl
@[simp] theorem emit_vnr (o : Out) (s : State) : (emit o s).vnr = s.vnr := rfl
@[simp] theorem emit_jig (o : Out) (s : State) : (emit o s).jig = s.jig := rfl
@[simp] theorem emit_tile (o : Out) (s : State) : (emit o s).tile = s.tile := rfl
@[simp] theorem emit_glu (o : Out) (s : State) : (emit o s).glu = s.glu := rfl
@[simp] theorem emit_dvl (o : Out) (s : State) : (emit o s).dvl = s.dvl := rfl
@[simp] theorem emit_ckp (o : Out) (s : State) : (emit o s).ckp = s.ckp := rfl

/-! ### advance -/

@[simp] theorem advance_pending (t : Nat) (s : State) : (advance t s).pending = s.pending := rfl
@[simp] theorem advance_freeCtr (t : Nat) (s : State) : (advance t s).freeCtr = s.freeCtr := rfl
@[simp] theorem advance_host (t : Nat) (s : State) : (advance t s).host = s.host := rfl
@[simp] theorem advance_dbg (t : Nat) (s : State) : (advance t s).dbg = s.dbg := rfl
@[simp] theorem advance_pkg (t : Nat) (s : State) : (advance t s).pkg = s.pkg := rfl
@[simp] theorem advance_mem (t : Nat) (s : State) : (advance t s).mem = s.mem := rfl
@[simp] theorem advance_mq (t : Nat) (s : State) : (advance t s).mq = s.mq := rfl
@[simp] theorem advance_vnr (t : Nat) (s : State) : (advance t s).vnr = s.vnr := rfl
@[simp] theorem advance_jig (t : Nat) (s : State) : (advance t s).jig = s.jig := rfl
@[simp] theorem advance_tile (t : Nat) (s : State) : (advance t s).tile = s.tile := rfl
@[simp] theorem advance_glu (t : Nat) (s : State) : (advance t s).glu = s.glu := rfl
@[simp] theorem advance_dvl (t : Nat) (s : State) : (advance t s).dvl = s.dvl := rfl
@[simp] theorem advance_ckp (t : Nat) (s : State) : (advance t s).ckp = s.ckp := rfl
@[simp] theorem advance_out (t : Nat) (s : State) : (advance t s).out = s.out := rfl

/-! ### await -/

@[simp] theorem await_pending (src : Src) (w : Wait) (s : State) : (await src w s).pending = s.pending := rfl
@[simp] theorem await_now (src : Src) (w : Wait) (s : State) : (await src w s).now = s.now := rfl
@[simp] theorem await_freeCtr (src : Src) (w : Wait) (s : State) : (await src w s).freeCtr = s.freeCtr := rfl
@[simp] theorem await_dbg (src : Src) (w : Wait) (s : State) : (await src w s).dbg = s.dbg := rfl
@[simp] theorem await_pkg (src : Src) (w : Wait) (s : State) : (await src w s).pkg = s.pkg := rfl
@[simp] theorem await_pwr (src : Src) (w : Wait) (s : State) : (await src w s).pwr = s.pwr := rfl
@[simp] theorem await_mem (src : Src) (w : Wait) (s : State) : (await src w s).mem = s.mem := rfl
@[simp] theorem await_mq (src : Src) (w : Wait) (s : State) : (await src w s).mq = s.mq := rfl
@[simp] theorem await_vnr (src : Src) (w : Wait) (s : State) : (await src w s).vnr = s.vnr := rfl
@[simp] theorem await_jig (src : Src) (w : Wait) (s : State) : (await src w s).jig = s.jig := rfl
@[simp] theorem await_tile (src : Src) (w : Wait) (s : State) : (await src w s).tile = s.tile := rfl
@[simp] theorem await_glu (src : Src) (w : Wait) (s : State) : (await src w s).glu = s.glu := rfl
@[simp] theorem await_dvl (src : Src) (w : Wait) (s : State) : (await src w s).dvl = s.dvl := rfl
@[simp] theorem await_ckp (src : Src) (w : Wait) (s : State) : (await src w s).ckp = s.ckp := rfl
@[simp] theorem await_out (src : Src) (w : Wait) (s : State) : (await src w s).out = s.out := rfl

/-! ### logEntry -/

@[simp] theorem logEntry_pending (e : Ev) (s : State) : (logEntry e s).pending = s.pending := rfl
@[simp] theorem logEntry_now (e : Ev) (s : State) : (logEntry e s).now = s.now := rfl
@[simp] theorem logEntry_freeCtr (e : Ev) (s : State) : (logEntry e s).freeCtr = s.freeCtr := rfl
@[simp] theorem logEntry_host (e : Ev) (s : State) : (logEntry e s).host = s.host := rfl
@[simp] theorem logEntry_pkg (e : Ev) (s : State) : (logEntry e s).pkg = s.pkg := rfl
@[simp] theorem logEntry_pwr (e : Ev) (s : State) : (logEntry e s).pwr = s.pwr := rfl
@[simp] theorem logEntry_mem (e : Ev) (s : State) : (logEntry e s).mem = s.mem := rfl
@[simp] theorem logEntry_mq (e : Ev) (s : State) : (logEntry e s).mq = s.mq := rfl
@[simp] theorem logEntry_vnr (e : Ev) (s : State) : (logEntry e s).vnr = s.vnr := rfl
@[simp] theorem logEntry_jig (e : Ev) (s : State) : (logEntry e s).jig = s.jig := rfl
@[simp] theorem logEntry_tile (e : Ev) (s : State) : (logEntry e s).tile = s.tile := rfl
@[simp] theorem logEntry_glu (e : Ev) (s : State) : (logEntry e s).glu = s.glu := rfl
@[simp] theorem logEntry_dvl (e : Ev) (s : State) : (logEntry e s).dvl = s.dvl := rfl
@[simp] theorem logEntry_ckp (e : Ev) (s : State) : (logEntry e s).ckp = s.ckp := rfl
@[simp] theorem logEntry_out (e : Ev) (s : State) : (logEntry e s).out = s.out := rfl

/-! ### send -/

@[simp] theorem send_pending (d : Nat) (m : Msg) (s : State) : (send d m s).pending = s.pending := rfl
@[simp] theorem send_now (d : Nat) (m : Msg) (s : State) : (send d m s).now = s.now := rfl
@[simp] theorem send_freeCtr (d : Nat) (m : Msg) (s : State) : (send d m s).freeCtr = s.freeCtr := rfl
@[simp] theorem send_host (d : Nat) (m : Msg) (s : State) : (send d m s).host = s.host := rfl
@[simp] theorem send_dbg (d : Nat) (m : Msg) (s : State) : (send d m s).dbg = s.dbg := rfl
@[simp] theorem send_pkg (d : Nat) (m : Msg) (s : State) : (send d m s).pkg = s.pkg := rfl
@[simp] theorem send_pwr (d : Nat) (m : Msg) (s : State) : (send d m s).pwr = s.pwr := rfl
@[simp] theorem send_mem (d : Nat) (m : Msg) (s : State) : (send d m s).mem = s.mem := rfl
@[simp] theorem send_mq (d : Nat) (m : Msg) (s : State) : (send d m s).mq = s.mq := rfl
@[simp] theorem send_vnr (d : Nat) (m : Msg) (s : State) : (send d m s).vnr = s.vnr := rfl
@[simp] theorem send_jig (d : Nat) (m : Msg) (s : State) : (send d m s).jig = s.jig := rfl
@[simp] theorem send_tile (d : Nat) (m : Msg) (s : State) : (send d m s).tile = s.tile := rfl
@[simp] theorem send_glu (d : Nat) (m : Msg) (s : State) : (send d m s).glu = s.glu := rfl
@[simp] theorem send_ckp (d : Nat) (m : Msg) (s : State) : (send d m s).ckp = s.ckp := rfl

/-! ### Records across updates of other parts -/

@[simp] theorem ctxOf_setFn (f : Nat) (g : FnSt → FnSt) (s : State) (i : Nat) : ctxOf (setFn f g s) i = ctxOf s i := rfl
@[simp] theorem tileOf_setFn (f : Nat) (g : FnSt → FnSt) (s : State) (i : Nat) : tileOf (setFn f g s) i = tileOf s i := rfl
@[simp] theorem portOf_setFn (f : Nat) (g : FnSt → FnSt) (s : State) (i : Nat) : portOf (setFn f g s) i = portOf s i := rfl
@[simp] theorem queueOf_setFn (f : Nat) (g : FnSt → FnSt) (s : State) (i : Nat) : queueOf (setFn f g s) i = queueOf s i := rfl
@[simp] theorem bindOf_setFn (f : Nat) (g : FnSt → FnSt) (s : State) (i : Nat) : bindOf (setFn f g s) i = bindOf s i := rfl
@[simp] theorem jobOf_setFn (f : Nat) (g : FnSt → FnSt) (s : State) (i : Nat) : jobOf (setFn f g s) i = jobOf s i := rfl
@[simp] theorem ctxOf_setPair (f p : Nat) (g : Pair → Pair) (s : State) (i : Nat) : ctxOf (setPair f p g s) i = ctxOf s i := rfl
@[simp] theorem tileOf_setPair (f p : Nat) (g : Pair → Pair) (s : State) (i : Nat) : tileOf (setPair f p g s) i = tileOf s i := rfl
@[simp] theorem portOf_setPair (f p : Nat) (g : Pair → Pair) (s : State) (i : Nat) : portOf (setPair f p g s) i = portOf s i := rfl
@[simp] theorem queueOf_setPair (f p : Nat) (g : Pair → Pair) (s : State) (i : Nat) : queueOf (setPair f p g s) i = queueOf s i := rfl
@[simp] theorem bindOf_setPair (f p : Nat) (g : Pair → Pair) (s : State) (i : Nat) : bindOf (setPair f p g s) i = bindOf s i := rfl
@[simp] theorem jobOf_setPair (f p : Nat) (g : Pair → Pair) (s : State) (i : Nat) : jobOf (setPair f p g s) i = jobOf s i := rfl
@[simp] theorem fnOf_setCtx (c : Nat) (g : Ctx → Ctx) (s : State) (i : Nat) : fnOf (setCtx c g s) i = fnOf s i := rfl
@[simp] theorem tileOf_setCtx (c : Nat) (g : Ctx → Ctx) (s : State) (i : Nat) : tileOf (setCtx c g s) i = tileOf s i := rfl
@[simp] theorem portOf_setCtx (c : Nat) (g : Ctx → Ctx) (s : State) (i : Nat) : portOf (setCtx c g s) i = portOf s i := rfl
@[simp] theorem queueOf_setCtx (c : Nat) (g : Ctx → Ctx) (s : State) (i : Nat) : queueOf (setCtx c g s) i = queueOf s i := rfl
@[simp] theorem bindOf_setCtx (c : Nat) (g : Ctx → Ctx) (s : State) (i : Nat) : bindOf (setCtx c g s) i = bindOf s i := rfl
@[simp] theorem linkOf_setCtx (c : Nat) (g : Ctx → Ctx) (s : State) (i : Nat) : linkOf (setCtx c g s) i = linkOf s i := rfl
@[simp] theorem fnOf_setJob (j : Nat) (g : Job → Job) (s : State) (i : Nat) : fnOf (setJob j g s) i = fnOf s i := rfl
@[simp] theorem tileOf_setJob (j : Nat) (g : Job → Job) (s : State) (i : Nat) : tileOf (setJob j g s) i = tileOf s i := rfl
@[simp] theorem portOf_setJob (j : Nat) (g : Job → Job) (s : State) (i : Nat) : portOf (setJob j g s) i = portOf s i := rfl
@[simp] theorem queueOf_setJob (j : Nat) (g : Job → Job) (s : State) (i : Nat) : queueOf (setJob j g s) i = queueOf s i := rfl
@[simp] theorem bindOf_setJob (j : Nat) (g : Job → Job) (s : State) (i : Nat) : bindOf (setJob j g s) i = bindOf s i := rfl
@[simp] theorem linkOf_setJob (j : Nat) (g : Job → Job) (s : State) (i : Nat) : linkOf (setJob j g s) i = linkOf s i := rfl
@[simp] theorem fnOf_setTile (t : Nat) (g : TileSt → TileSt) (s : State) (i : Nat) : fnOf (setTile t g s) i = fnOf s i := rfl
@[simp] theorem ctxOf_setTile (t : Nat) (g : TileSt → TileSt) (s : State) (i : Nat) : ctxOf (setTile t g s) i = ctxOf s i := rfl
@[simp] theorem portOf_setTile (t : Nat) (g : TileSt → TileSt) (s : State) (i : Nat) : portOf (setTile t g s) i = portOf s i := rfl
@[simp] theorem queueOf_setTile (t : Nat) (g : TileSt → TileSt) (s : State) (i : Nat) : queueOf (setTile t g s) i = queueOf s i := rfl
@[simp] theorem bindOf_setTile (t : Nat) (g : TileSt → TileSt) (s : State) (i : Nat) : bindOf (setTile t g s) i = bindOf s i := rfl
@[simp] theorem jobOf_setTile (t : Nat) (g : TileSt → TileSt) (s : State) (i : Nat) : jobOf (setTile t g s) i = jobOf s i := rfl
@[simp] theorem linkOf_setTile (t : Nat) (g : TileSt → TileSt) (s : State) (i : Nat) : linkOf (setTile t g s) i = linkOf s i := rfl
@[simp] theorem fnOf_setPort (p : Nat) (g : PortSt → PortSt) (s : State) (i : Nat) : fnOf (setPort p g s) i = fnOf s i := rfl
@[simp] theorem ctxOf_setPort (p : Nat) (g : PortSt → PortSt) (s : State) (i : Nat) : ctxOf (setPort p g s) i = ctxOf s i := rfl
@[simp] theorem tileOf_setPort (p : Nat) (g : PortSt → PortSt) (s : State) (i : Nat) : tileOf (setPort p g s) i = tileOf s i := rfl
@[simp] theorem queueOf_setPort (p : Nat) (g : PortSt → PortSt) (s : State) (i : Nat) : queueOf (setPort p g s) i = queueOf s i := rfl
@[simp] theorem bindOf_setPort (p : Nat) (g : PortSt → PortSt) (s : State) (i : Nat) : bindOf (setPort p g s) i = bindOf s i := rfl
@[simp] theorem jobOf_setPort (p : Nat) (g : PortSt → PortSt) (s : State) (i : Nat) : jobOf (setPort p g s) i = jobOf s i := rfl
@[simp] theorem linkOf_setPort (p : Nat) (g : PortSt → PortSt) (s : State) (i : Nat) : linkOf (setPort p g s) i = linkOf s i := rfl
@[simp] theorem fnOf_setQueue (q : Nat) (g : Queue → Queue) (s : State) (i : Nat) : fnOf (setQueue q g s) i = fnOf s i := rfl
@[simp] theorem ctxOf_setQueue (q : Nat) (g : Queue → Queue) (s : State) (i : Nat) : ctxOf (setQueue q g s) i = ctxOf s i := rfl
@[simp] theorem tileOf_setQueue (q : Nat) (g : Queue → Queue) (s : State) (i : Nat) : tileOf (setQueue q g s) i = tileOf s i := rfl
@[simp] theorem portOf_setQueue (q : Nat) (g : Queue → Queue) (s : State) (i : Nat) : portOf (setQueue q g s) i = portOf s i := rfl
@[simp] theorem jobOf_setQueue (q : Nat) (g : Queue → Queue) (s : State) (i : Nat) : jobOf (setQueue q g s) i = jobOf s i := rfl
@[simp] theorem linkOf_setQueue (q : Nat) (g : Queue → Queue) (s : State) (i : Nat) : linkOf (setQueue q g s) i = linkOf s i := rfl
@[simp] theorem fnOf_setBind (b : Nat) (g : Binding → Binding) (s : State) (i : Nat) : fnOf (setBind b g s) i = fnOf s i := rfl
@[simp] theorem ctxOf_setBind (b : Nat) (g : Binding → Binding) (s : State) (i : Nat) : ctxOf (setBind b g s) i = ctxOf s i := rfl
@[simp] theorem tileOf_setBind (b : Nat) (g : Binding → Binding) (s : State) (i : Nat) : tileOf (setBind b g s) i = tileOf s i := rfl
@[simp] theorem portOf_setBind (b : Nat) (g : Binding → Binding) (s : State) (i : Nat) : portOf (setBind b g s) i = portOf s i := rfl
@[simp] theorem jobOf_setBind (b : Nat) (g : Binding → Binding) (s : State) (i : Nat) : jobOf (setBind b g s) i = jobOf s i := rfl
@[simp] theorem linkOf_setBind (b : Nat) (g : Binding → Binding) (s : State) (i : Nat) : linkOf (setBind b g s) i = linkOf s i := rfl
@[simp] theorem fnOf_emit (o : Out) (s : State) (i : Nat) : fnOf (emit o s) i = fnOf s i := rfl
@[simp] theorem ctxOf_emit (o : Out) (s : State) (i : Nat) : ctxOf (emit o s) i = ctxOf s i := rfl
@[simp] theorem tileOf_emit (o : Out) (s : State) (i : Nat) : tileOf (emit o s) i = tileOf s i := rfl
@[simp] theorem portOf_emit (o : Out) (s : State) (i : Nat) : portOf (emit o s) i = portOf s i := rfl
@[simp] theorem queueOf_emit (o : Out) (s : State) (i : Nat) : queueOf (emit o s) i = queueOf s i := rfl
@[simp] theorem bindOf_emit (o : Out) (s : State) (i : Nat) : bindOf (emit o s) i = bindOf s i := rfl
@[simp] theorem jobOf_emit (o : Out) (s : State) (i : Nat) : jobOf (emit o s) i = jobOf s i := rfl
@[simp] theorem linkOf_emit (o : Out) (s : State) (i : Nat) : linkOf (emit o s) i = linkOf s i := rfl
@[simp] theorem fnOf_advance (t : Nat) (s : State) (i : Nat) : fnOf (advance t s) i = fnOf s i := rfl
@[simp] theorem ctxOf_advance (t : Nat) (s : State) (i : Nat) : ctxOf (advance t s) i = ctxOf s i := rfl
@[simp] theorem tileOf_advance (t : Nat) (s : State) (i : Nat) : tileOf (advance t s) i = tileOf s i := rfl
@[simp] theorem portOf_advance (t : Nat) (s : State) (i : Nat) : portOf (advance t s) i = portOf s i := rfl
@[simp] theorem queueOf_advance (t : Nat) (s : State) (i : Nat) : queueOf (advance t s) i = queueOf s i := rfl
@[simp] theorem bindOf_advance (t : Nat) (s : State) (i : Nat) : bindOf (advance t s) i = bindOf s i := rfl
@[simp] theorem jobOf_advance (t : Nat) (s : State) (i : Nat) : jobOf (advance t s) i = jobOf s i := rfl
@[simp] theorem linkOf_advance (t : Nat) (s : State) (i : Nat) : linkOf (advance t s) i = linkOf s i := rfl
@[simp] theorem ctxOf_await (src : Src) (w : Wait) (s : State) (i : Nat) : ctxOf (await src w s) i = ctxOf s i := rfl
@[simp] theorem tileOf_await (src : Src) (w : Wait) (s : State) (i : Nat) : tileOf (await src w s) i = tileOf s i := rfl
@[simp] theorem portOf_await (src : Src) (w : Wait) (s : State) (i : Nat) : portOf (await src w s) i = portOf s i := rfl
@[simp] theorem queueOf_await (src : Src) (w : Wait) (s : State) (i : Nat) : queueOf (await src w s) i = queueOf s i := rfl
@[simp] theorem bindOf_await (src : Src) (w : Wait) (s : State) (i : Nat) : bindOf (await src w s) i = bindOf s i := rfl
@[simp] theorem jobOf_await (src : Src) (w : Wait) (s : State) (i : Nat) : jobOf (await src w s) i = jobOf s i := rfl
@[simp] theorem fnOf_logEntry (e : Ev) (s : State) (i : Nat) : fnOf (logEntry e s) i = fnOf s i := rfl
@[simp] theorem ctxOf_logEntry (e : Ev) (s : State) (i : Nat) : ctxOf (logEntry e s) i = ctxOf s i := rfl
@[simp] theorem tileOf_logEntry (e : Ev) (s : State) (i : Nat) : tileOf (logEntry e s) i = tileOf s i := rfl
@[simp] theorem portOf_logEntry (e : Ev) (s : State) (i : Nat) : portOf (logEntry e s) i = portOf s i := rfl
@[simp] theorem queueOf_logEntry (e : Ev) (s : State) (i : Nat) : queueOf (logEntry e s) i = queueOf s i := rfl
@[simp] theorem bindOf_logEntry (e : Ev) (s : State) (i : Nat) : bindOf (logEntry e s) i = bindOf s i := rfl
@[simp] theorem jobOf_logEntry (e : Ev) (s : State) (i : Nat) : jobOf (logEntry e s) i = jobOf s i := rfl
@[simp] theorem linkOf_logEntry (e : Ev) (s : State) (i : Nat) : linkOf (logEntry e s) i = linkOf s i := rfl
@[simp] theorem fnOf_send (d : Nat) (m : Msg) (s : State) (i : Nat) : fnOf (send d m s) i = fnOf s i := rfl
@[simp] theorem ctxOf_send (d : Nat) (m : Msg) (s : State) (i : Nat) : ctxOf (send d m s) i = ctxOf s i := rfl
@[simp] theorem tileOf_send (d : Nat) (m : Msg) (s : State) (i : Nat) : tileOf (send d m s) i = tileOf s i := rfl
@[simp] theorem queueOf_send (d : Nat) (m : Msg) (s : State) (i : Nat) : queueOf (send d m s) i = queueOf s i := rfl
@[simp] theorem bindOf_send (d : Nat) (m : Msg) (s : State) (i : Nat) : bindOf (send d m s) i = bindOf s i := rfl
@[simp] theorem jobOf_send (d : Nat) (m : Msg) (s : State) (i : Nat) : jobOf (send d m s) i = jobOf s i := rfl
@[simp] theorem linkOf_send (d : Nat) (m : Msg) (s : State) (i : Nat) : linkOf (send d m s) i = linkOf s i := rfl

@[simp] theorem emit_out (o : Out) (s : State) : (emit o s).out = o :: s.out := rfl

end Sys2Proof.Machine
end

