-- ==== Sys2Proof/Laws/Ops.lean ====
section
/-! SUPPORT. The shared operations, each with what it leaves alone: raising an event touches the log and one EVENTS
register, completing a command touches the outstanding commands, its pair and what is sent, and `settle` touches the log's
length, the functions, the outstanding commands, ALERT# and what is sent. -/

namespace Sys2Proof.Machine

/-! ### Events -/

@[simp] theorem setEvent_pending (code : Nat) (s : State) : (setEvent code s).pending = s.pending := by unfold setEvent; split <;> rfl
@[simp] theorem setEvent_now (code : Nat) (s : State) : (setEvent code s).now = s.now := by unfold setEvent; split <;> rfl
@[simp] theorem setEvent_freeCtr (code : Nat) (s : State) : (setEvent code s).freeCtr = s.freeCtr := by unfold setEvent; split <;> rfl
@[simp] theorem setEvent_host (code : Nat) (s : State) : (setEvent code s).host = s.host := by unfold setEvent; split <;> rfl
@[simp] theorem setEvent_pkg (code : Nat) (s : State) : (setEvent code s).pkg = s.pkg := by unfold setEvent; split <;> rfl
@[simp] theorem setEvent_tile (code : Nat) (s : State) : (setEvent code s).tile = s.tile := by unfold setEvent; split <;> rfl
@[simp] theorem setEvent_out (code : Nat) (s : State) : (setEvent code s).out = s.out := by unfold setEvent; split <;> rfl

@[simp] theorem setEvent_jig_lateCnt (code : Nat) (s : State) : (setEvent code s).jig.lateCnt = s.jig.lateCnt := by unfold setEvent; split <;> rfl
@[simp] theorem setEvent_jig_idleRows (code : Nat) (s : State) : (setEvent code s).jig.idleRows = s.jig.idleRows := by unfold setEvent; split <;> rfl
@[simp] theorem setEvent_jig_bank0 (code : Nat) (s : State) : (setEvent code s).jig.bank0 = s.jig.bank0 := by unfold setEvent; split <;> rfl
@[simp] theorem setEvent_jig_bank1 (code : Nat) (s : State) : (setEvent code s).jig.bank1 = s.jig.bank1 := by unfold setEvent; split <;> rfl
@[simp] theorem setEvent_jig_activeNo (code : Nat) (s : State) : (setEvent code s).jig.activeNo = s.jig.activeNo := by unfold setEvent; split <;> rfl
@[simp] theorem setEvent_jig_running (code : Nat) (s : State) : (setEvent code s).jig.running = s.jig.running := by unfold setEvent; split <;> rfl
@[simp] theorem setEvent_jig_ts (code : Nat) (s : State) : (setEvent code s).jig.ts = s.jig.ts := by unfold setEvent; split <;> rfl
@[simp] theorem setEvent_jig_frame (code : Nat) (s : State) : (setEvent code s).jig.frame = s.jig.frame := by unfold setEvent; split <;> rfl
@[simp] theorem setEvent_jig_pos (code : Nat) (s : State) : (setEvent code s).jig.pos = s.jig.pos := by unfold setEvent; split <;> rfl
@[simp] theorem setEvent_jig_visit (code : Nat) (s : State) : (setEvent code s).jig.visit = s.jig.visit := by unfold setEvent; split <;> rfl
@[simp] theorem setEvent_jig_pend (code : Nat) (s : State) : (setEvent code s).jig.pend = s.jig.pend := by unfold setEvent; split <;> rfl
@[simp] theorem setEvent_jig_rows (code : Nat) (s : State) : (setEvent code s).jig.rows = s.jig.rows := by unfold setEvent; split <;> rfl
@[simp] theorem setEvent_jig_plans (code : Nat) (s : State) : (setEvent code s).jig.plans = s.jig.plans := by unfold setEvent; split <;> rfl
@[simp] theorem setEvent_jig_readies (code : Nat) (s : State) : (setEvent code s).jig.readies = s.jig.readies := by unfold setEvent; split <;> rfl
@[simp] theorem setEvent_jig_commits (code : Nat) (s : State) : (setEvent code s).jig.commits = s.jig.commits := by unfold setEvent; split <;> rfl
@[simp] theorem setEvent_jig_groupPlans (code : Nat) (s : State) : (setEvent code s).jig.groupPlans = s.jig.groupPlans := by unfold setEvent; split <;> rfl
@[simp] theorem setEvent_jig_usage (code : Nat) (s : State) : (setEvent code s).jig.usage = s.jig.usage := by unfold setEvent; split <;> rfl
@[simp] theorem setEvent_jig_late (code : Nat) (s : State) : (setEvent code s).jig.late = s.jig.late := by unfold setEvent; split <;> rfl
@[simp] theorem setEvent_jig_latest (code : Nat) (s : State) : (setEvent code s).jig.latest = s.jig.latest := by unfold setEvent; split <;> rfl
@[simp] theorem setEvent_jig_lateHist (code : Nat) (s : State) : (setEvent code s).jig.lateHist = s.jig.lateHist := by unfold setEvent; split <;> rfl
@[simp] theorem setEvent_jig_throttleArmed (code : Nat) (s : State) : (setEvent code s).jig.throttleArmed = s.jig.throttleArmed := by unfold setEvent; split <;> rfl
@[simp] theorem setEvent_jig_noCommit (code : Nat) (s : State) : (setEvent code s).jig.noCommit = s.jig.noCommit := by unfold setEvent; split <;> rfl
@[simp] theorem setEvent_jig_retest (code : Nat) (s : State) : (setEvent code s).jig.retest = s.jig.retest := by unfold setEvent; split <;> rfl
@[simp] theorem setEvent_jig_paused (code : Nat) (s : State) : (setEvent code s).jig.paused = s.jig.paused := by unfold setEvent; split <;> rfl
@[simp] theorem setEvent_mq_refuseCnt (code : Nat) (s : State) : (setEvent code s).mq.refuseCnt = s.mq.refuseCnt := by unfold setEvent; split <;> rfl
@[simp] theorem setEvent_mq_emptyCnt (code : Nat) (s : State) : (setEvent code s).mq.emptyCnt = s.mq.emptyCnt := by unfold setEvent; split <;> rfl
@[simp] theorem setEvent_mq_stallCnt (code : Nat) (s : State) : (setEvent code s).mq.stallCnt = s.mq.stallCnt := by unfold setEvent; split <;> rfl
@[simp] theorem setEvent_mq_resendCnt (code : Nat) (s : State) : (setEvent code s).mq.resendCnt = s.mq.resendCnt := by unfold setEvent; split <;> rfl
@[simp] theorem setEvent_mq_queues (code : Nat) (s : State) : (setEvent code s).mq.queues = s.mq.queues := by unfold setEvent; split <;> rfl
@[simp] theorem setEvent_mq_bindings (code : Nat) (s : State) : (setEvent code s).mq.bindings = s.mq.bindings := by unfold setEvent; split <;> rfl
@[simp] theorem setEvent_mq_gone (code : Nat) (s : State) : (setEvent code s).mq.gone = s.mq.gone := by unfold setEvent; split <;> rfl
@[simp] theorem setEvent_vnr_faultCnt (code : Nat) (s : State) : (setEvent code s).vnr.faultCnt = s.vnr.faultCnt := by unfold setEvent; split <;> rfl
@[simp] theorem setEvent_vnr_indexCnt (code : Nat) (s : State) : (setEvent code s).vnr.indexCnt = s.vnr.indexCnt := by unfold setEvent; split <;> rfl
@[simp] theorem setEvent_vnr_ctxs (code : Nat) (s : State) : (setEvent code s).vnr.ctxs = s.vnr.ctxs := by unfold setEvent; split <;> rfl
@[simp] theorem setEvent_vnr_jobs (code : Nat) (s : State) : (setEvent code s).vnr.jobs = s.vnr.jobs := by unfold setEvent; split <;> rfl
@[simp] theorem setEvent_vnr_jobSerial (code : Nat) (s : State) : (setEvent code s).vnr.jobSerial = s.vnr.jobSerial := by unfold setEvent; split <;> rfl
@[simp] theorem setEvent_vnr_divergeCnt (code : Nat) (s : State) : (setEvent code s).vnr.divergeCnt = s.vnr.divergeCnt := by unfold setEvent; split <;> rfl
@[simp] theorem setEvent_glu_mismatchCnt (code : Nat) (s : State) : (setEvent code s).glu.mismatchCnt = s.glu.mismatchCnt := by unfold setEvent; split <;> rfl
@[simp] theorem setEvent_glu_lateCnt (code : Nat) (s : State) : (setEvent code s).glu.lateCnt = s.glu.lateCnt := by unfold setEvent; split <;> rfl
@[simp] theorem setEvent_glu_deferCnt (code : Nat) (s : State) : (setEvent code s).glu.deferCnt = s.glu.deferCnt := by unfold setEvent; split <;> rfl
@[simp] theorem setEvent_glu_dropCnt (code : Nat) (s : State) : (setEvent code s).glu.dropCnt = s.glu.dropCnt := by unfold setEvent; split <;> rfl
@[simp] theorem setEvent_glu_queues (code : Nat) (s : State) : (setEvent code s).glu.queues = s.glu.queues := by unfold setEvent; split <;> rfl
@[simp] theorem setEvent_glu_insts (code : Nat) (s : State) : (setEvent code s).glu.insts = s.glu.insts := by unfold setEvent; split <;> rfl
@[simp] theorem setEvent_glu_deferred (code : Nat) (s : State) : (setEvent code s).glu.deferred = s.glu.deferred := by unfold setEvent; split <;> rfl
@[simp] theorem setEvent_glu_credits (code : Nat) (s : State) : (setEvent code s).glu.credits = s.glu.credits := by unfold setEvent; split <;> rfl
@[simp] theorem setEvent_glu_lateEv (code : Nat) (s : State) : (setEvent code s).glu.lateEv = s.glu.lateEv := by unfold setEvent; split <;> rfl
@[simp] theorem setEvent_mem_ceCnt (code : Nat) (s : State) : (setEvent code s).mem.ceCnt = s.mem.ceCnt := by unfold setEvent; split <;> rfl
@[simp] theorem setEvent_mem_ueCnt (code : Nat) (s : State) : (setEvent code s).mem.ueCnt = s.mem.ueCnt := by unfold setEvent; split <;> rfl
@[simp] theorem setEvent_mem_lateCnt (code : Nat) (s : State) : (setEvent code s).mem.lateCnt = s.mem.lateCnt := by unfold setEvent; split <;> rfl
@[simp] theorem setEvent_mem_refreshCnt (code : Nat) (s : State) : (setEvent code s).mem.refreshCnt = s.mem.refreshCnt := by unfold setEvent; split <;> rfl
@[simp] theorem setEvent_mem_objs (code : Nat) (s : State) : (setEvent code s).mem.objs = s.mem.objs := by unfold setEvent; split <;> rfl
@[simp] theorem setEvent_mem_wcb (code : Nat) (s : State) : (setEvent code s).mem.wcb = s.mem.wcb := by unfold setEvent; split <;> rfl
@[simp] theorem setEvent_mem_gddrRate (code : Nat) (s : State) : (setEvent code s).mem.gddrRate = s.mem.gddrRate := by unfold setEvent; split <;> rfl
@[simp] theorem setEvent_mem_gddrSyms (code : Nat) (s : State) : (setEvent code s).mem.gddrSyms = s.mem.gddrSyms := by unfold setEvent; split <;> rfl
@[simp] theorem setEvent_mem_flashFailed (code : Nat) (s : State) : (setEvent code s).mem.flashFailed = s.mem.flashFailed := by unfold setEvent; split <;> rfl
@[simp] theorem setEvent_mem_rebuilding (code : Nat) (s : State) : (setEvent code s).mem.rebuilding = s.mem.rebuilding := by unfold setEvent; split <;> rfl
@[simp] theorem setEvent_mem_maxRetry (code : Nat) (s : State) : (setEvent code s).mem.maxRetry = s.mem.maxRetry := by unfold setEvent; split <;> rfl
@[simp] theorem setEvent_mem_blocks (code : Nat) (s : State) : (setEvent code s).mem.blocks = s.mem.blocks := by unfold setEvent; split <;> rfl
@[simp] theorem setEvent_mem_records (code : Nat) (s : State) : (setEvent code s).mem.records = s.mem.records := by unfold setEvent; split <;> rfl
@[simp] theorem setEvent_mem_gddrReady (code : Nat) (s : State) : (setEvent code s).mem.gddrReady = s.mem.gddrReady := by unfold setEvent; split <;> rfl
@[simp] theorem setEvent_mem_nextCal (code : Nat) (s : State) : (setEvent code s).mem.nextCal = s.mem.nextCal := by unfold setEvent; split <;> rfl
@[simp] theorem setEvent_mem_journalSeq (code : Nat) (s : State) : (setEvent code s).mem.journalSeq = s.mem.journalSeq := by unfold setEvent; split <;> rfl
@[simp] theorem setEvent_dvl_step (code : Nat) (s : State) : (setEvent code s).dvl.step = s.dvl.step := by unfold setEvent; split <;> rfl
@[simp] theorem setEvent_dvl_hold (code : Nat) (s : State) : (setEvent code s).dvl.hold = s.dvl.hold := by unfold setEvent; split <;> rfl
@[simp] theorem setEvent_dvl_holdDue (code : Nat) (s : State) : (setEvent code s).dvl.holdDue = s.dvl.holdDue := by unfold setEvent; split <;> rfl
@[simp] theorem setEvent_dvl_holdEnd (code : Nat) (s : State) : (setEvent code s).dvl.holdEnd = s.dvl.holdEnd := by unfold setEvent; split <;> rfl
@[simp] theorem setEvent_dvl_locked (code : Nat) (s : State) : (setEvent code s).dvl.locked = s.dvl.locked := by unfold setEvent; split <;> rfl
@[simp] theorem setEvent_dvl_closed (code : Nat) (s : State) : (setEvent code s).dvl.closed = s.dvl.closed := by unfold setEvent; split <;> rfl
@[simp] theorem setEvent_dvl_outCause (code : Nat) (s : State) : (setEvent code s).dvl.outCause = s.dvl.outCause := by unfold setEvent; split <;> rfl
@[simp] theorem setEvent_dvl_rootAddr (code : Nat) (s : State) : (setEvent code s).dvl.rootAddr = s.dvl.rootAddr := by unfold setEvent; split <;> rfl
@[simp] theorem setEvent_dvl_parent (code : Nat) (s : State) : (setEvent code s).dvl.parent = s.dvl.parent := by unfold setEvent; split <;> rfl
@[simp] theorem setEvent_dvl_epoch (code : Nat) (s : State) : (setEvent code s).dvl.epoch = s.dvl.epoch := by unfold setEvent; split <;> rfl
@[simp] theorem setEvent_dvl_digest (code : Nat) (s : State) : (setEvent code s).dvl.digest = s.dvl.digest := by unfold setEvent; split <;> rfl
@[simp] theorem setEvent_dvl_set (code : Nat) (s : State) : (setEvent code s).dvl.set = s.dvl.set := by unfold setEvent; split <;> rfl
@[simp] theorem setEvent_dvl_map (code : Nat) (s : State) : (setEvent code s).dvl.map = s.dvl.map := by unfold setEvent; split <;> rfl
@[simp] theorem setEvent_dvl_serial (code : Nat) (s : State) : (setEvent code s).dvl.serial = s.dvl.serial := by unfold setEvent; split <;> rfl
@[simp] theorem setEvent_dvl_addr (code : Nat) (s : State) : (setEvent code s).dvl.addr = s.dvl.addr := by unfold setEvent; split <;> rfl
@[simp] theorem setEvent_dvl_staged (code : Nat) (s : State) : (setEvent code s).dvl.staged = s.dvl.staged := by unfold setEvent; split <;> rfl
@[simp] theorem setEvent_dvl_lostCnt (code : Nat) (s : State) : (setEvent code s).dvl.lostCnt = s.dvl.lostCnt := by unfold setEvent; split <;> rfl
@[simp] theorem setEvent_dvl_nextMsgId (code : Nat) (s : State) : (setEvent code s).dvl.nextMsgId = s.dvl.nextMsgId := by unfold setEvent; split <;> rfl
@[simp] theorem setEvent_dvl_sent (code : Nat) (s : State) : (setEvent code s).dvl.sent = s.dvl.sent := by unfold setEvent; split <;> rfl
@[simp] theorem setEvent_dvl_linkSeen (code : Nat) (s : State) : (setEvent code s).dvl.linkSeen = s.dvl.linkSeen := by unfold setEvent; split <;> rfl
@[simp] theorem setEvent_dvl_downLinks (code : Nat) (s : State) : (setEvent code s).dvl.downLinks = s.dvl.downLinks := by unfold setEvent; split <;> rfl
@[simp] theorem setEvent_dvl_routedDown (code : Nat) (s : State) : (setEvent code s).dvl.routedDown = s.dvl.routedDown := by unfold setEvent; split <;> rfl
@[simp] theorem setEvent_dvl_ports (code : Nat) (s : State) : (setEvent code s).dvl.ports = s.dvl.ports := by unfold setEvent; split <;> rfl
@[simp] theorem setEvent_dvl_ext (code : Nat) (s : State) : (setEvent code s).dvl.ext = s.dvl.ext := by unfold setEvent; split <;> rfl
@[simp] theorem setEvent_dvl_fleetReady (code : Nat) (s : State) : (setEvent code s).dvl.fleetReady = s.dvl.fleetReady := by unfold setEvent; split <;> rfl
@[simp] theorem setEvent_dvl_agreed (code : Nat) (s : State) : (setEvent code s).dvl.agreed = s.dvl.agreed := by unfold setEvent; split <;> rfl
@[simp] theorem setEvent_dvl_offsets (code : Nat) (s : State) : (setEvent code s).dvl.offsets = s.dvl.offsets := by unfold setEvent; split <;> rfl
@[simp] theorem setEvent_dvl_rate (code : Nat) (s : State) : (setEvent code s).dvl.rate = s.dvl.rate := by unfold setEvent; split <;> rfl
@[simp] theorem setEvent_dvl_estError (code : Nat) (s : State) : (setEvent code s).dvl.estError = s.dvl.estError := by unfold setEvent; split <;> rfl
@[simp] theorem setEvent_ckp_reserveGiB (code : Nat) (s : State) : (setEvent code s).ckp.reserveGiB = s.ckp.reserveGiB := by unfold setEvent; split <;> rfl
@[simp] theorem setEvent_ckp_failCnt (code : Nat) (s : State) : (setEvent code s).ckp.failCnt = s.ckp.failCnt := by unfold setEvent; split <;> rfl
@[simp] theorem setEvent_ckp_shrinkCnt (code : Nat) (s : State) : (setEvent code s).ckp.shrinkCnt = s.ckp.shrinkCnt := by unfold setEvent; split <;> rfl
@[simp] theorem setEvent_ckp_localSeq (code : Nat) (s : State) : (setEvent code s).ckp.localSeq = s.ckp.localSeq := by unfold setEvent; split <;> rfl
@[simp] theorem setEvent_ckp_policy (code : Nat) (s : State) : (setEvent code s).ckp.policy = s.ckp.policy := by unfold setEvent; split <;> rfl
@[simp] theorem setEvent_ckp_captures (code : Nat) (s : State) : (setEvent code s).ckp.captures = s.ckp.captures := by unfold setEvent; split <;> rfl
@[simp] theorem setEvent_ckp_retained (code : Nat) (s : State) : (setEvent code s).ckp.retained = s.ckp.retained := by unfold setEvent; split <;> rfl
@[simp] theorem setEvent_ckp_buddy (code : Nat) (s : State) : (setEvent code s).ckp.buddy = s.ckp.buddy := by unfold setEvent; split <;> rfl
@[simp] theorem setEvent_ckp_shrinks (code : Nat) (s : State) : (setEvent code s).ckp.shrinks = s.ckp.shrinks := by unfold setEvent; split <;> rfl
@[simp] theorem setEvent_ckp_rollbacks (code : Nat) (s : State) : (setEvent code s).ckp.rollbacks = s.ckp.rollbacks := by unfold setEvent; split <;> rfl
@[simp] theorem setEvent_ckp_leads (code : Nat) (s : State) : (setEvent code s).ckp.leads = s.ckp.leads := by unfold setEvent; split <;> rfl
@[simp] theorem setEvent_ckp_lost (code : Nat) (s : State) : (setEvent code s).ckp.lost = s.ckp.lost := by unfold setEvent; split <;> rfl
@[simp] theorem setEvent_pwr_state (code : Nat) (s : State) : (setEvent code s).pwr.state = s.pwr.state := by unfold setEvent; split <;> rfl
@[simp] theorem setEvent_pwr_waking (code : Nat) (s : State) : (setEvent code s).pwr.waking = s.pwr.waking := by unfold setEvent; split <;> rfl
@[simp] theorem setEvent_pwr_entryDue (code : Nat) (s : State) : (setEvent code s).pwr.entryDue = s.pwr.entryDue := by unfold setEvent; split <;> rfl
@[simp] theorem setEvent_pwr_entering (code : Nat) (s : State) : (setEvent code s).pwr.entering = s.pwr.entering := by unfold setEvent; split <;> rfl
@[simp] theorem setEvent_pwr_entryCause (code : Nat) (s : State) : (setEvent code s).pwr.entryCause = s.pwr.entryCause := by unfold setEvent; split <;> rfl
@[simp] theorem setEvent_pwr_wakeEn (code : Nat) (s : State) : (setEvent code s).pwr.wakeEn = s.pwr.wakeEn := by unfold setEvent; split <;> rfl
@[simp] theorem setEvent_pwr_lastWake (code : Nat) (s : State) : (setEvent code s).pwr.lastWake = s.pwr.lastWake := by unfold setEvent; split <;> rfl
@[simp] theorem setEvent_pwr_limit (code : Nat) (s : State) : (setEvent code s).pwr.limit = s.pwr.limit := by unfold setEvent; split <;> rfl
@[simp] theorem setEvent_pwr_inputCut (code : Nat) (s : State) : (setEvent code s).pwr.inputCut = s.pwr.inputCut := by unfold setEvent; split <;> rfl
@[simp] theorem setEvent_pwr_volts (code : Nat) (s : State) : (setEvent code s).pwr.volts = s.pwr.volts := by unfold setEvent; split <;> rfl
@[simp] theorem setEvent_pwr_amps (code : Nat) (s : State) : (setEvent code s).pwr.amps = s.pwr.amps := by unfold setEvent; split <;> rfl
@[simp] theorem setEvent_pwr_inlet (code : Nat) (s : State) : (setEvent code s).pwr.inlet = s.pwr.inlet := by unfold setEvent; split <;> rfl
@[simp] theorem setEvent_pwr_flow (code : Nat) (s : State) : (setEvent code s).pwr.flow = s.pwr.flow := by unfold setEvent; split <;> rfl
@[simp] theorem setEvent_pwr_rtc (code : Nat) (s : State) : (setEvent code s).pwr.rtc = s.pwr.rtc := by unfold setEvent; split <;> rfl
@[simp] theorem setEvent_pwr_alarm (code : Nat) (s : State) : (setEvent code s).pwr.alarm = s.pwr.alarm := by unfold setEvent; split <;> rfl
@[simp] theorem setEvent_pwr_shimSeq (code : Nat) (s : State) : (setEvent code s).pwr.shimSeq = s.pwr.shimSeq := by unfold setEvent; split <;> rfl
@[simp] theorem setEvent_pwr_plan (code : Nat) (s : State) : (setEvent code s).pwr.plan = s.pwr.plan := by unfold setEvent; split <;> rfl
@[simp] theorem setEvent_pwr_nextPlan (code : Nat) (s : State) : (setEvent code s).pwr.nextPlan = s.pwr.nextPlan := by unfold setEvent; split <;> rfl
@[simp] theorem setEvent_pwr_nextPlanSeq (code : Nat) (s : State) : (setEvent code s).pwr.nextPlanSeq = s.pwr.nextPlanSeq := by unfold setEvent; split <;> rfl
@[simp] theorem setEvent_pwr_throttleCnt (code : Nat) (s : State) : (setEvent code s).pwr.throttleCnt = s.pwr.throttleCnt := by unfold setEvent; split <;> rfl
@[simp] theorem setEvent_pwr_dies (code : Nat) (s : State) : (setEvent code s).pwr.dies = s.pwr.dies := by unfold setEvent; split <;> rfl
@[simp] theorem setEvent_pwr_otherBudget (code : Nat) (s : State) : (setEvent code s).pwr.otherBudget = s.pwr.otherBudget := by unfold setEvent; split <;> rfl
@[simp] theorem setEvent_pwr_draw (code : Nat) (s : State) : (setEvent code s).pwr.draw = s.pwr.draw := by unfold setEvent; split <;> rfl
@[simp] theorem setEvent_pwr_dark (code : Nat) (s : State) : (setEvent code s).pwr.dark = s.pwr.dark := by unfold setEvent; split <;> rfl
@[simp] theorem setEvent_pwr_planAtWake (code : Nat) (s : State) : (setEvent code s).pwr.planAtWake = s.pwr.planAtWake := by unfold setEvent; split <;> rfl
@[simp] theorem setEvent_pwr_activeFrom (code : Nat) (s : State) : (setEvent code s).pwr.activeFrom = s.pwr.activeFrom := by unfold setEvent; split <;> rfl
@[simp] theorem setEvent_dbg_log (code : Nat) (s : State) : (setEvent code s).dbg.log = s.dbg.log := by unfold setEvent; split <;> rfl
@[simp] theorem setEvent_dbg_nextSeq (code : Nat) (s : State) : (setEvent code s).dbg.nextSeq = s.dbg.nextSeq := by unfold setEvent; split <;> rfl
@[simp] theorem setEvent_dbg_lastLog (code : Nat) (s : State) : (setEvent code s).dbg.lastLog = s.dbg.lastLog := by unfold setEvent; split <;> rfl
@[simp] theorem setEvent_dbg_live (code : Nat) (s : State) : (setEvent code s).dbg.live = s.dbg.live := by unfold setEvent; split <;> rfl
@[simp] theorem setEvent_dbg_saved (code : Nat) (s : State) : (setEvent code s).dbg.saved = s.dbg.saved := by unfold setEvent; split <;> rfl
@[simp] theorem setEvent_dbg_summaryDue (code : Nat) (s : State) : (setEvent code s).dbg.summaryDue = s.dbg.summaryDue := by unfold setEvent; split <;> rfl
@[simp] theorem setEvent_dbg_summarySeq (code : Nat) (s : State) : (setEvent code s).dbg.summarySeq = s.dbg.summarySeq := by unfold setEvent; split <;> rfl
@[simp] theorem setEvent_dbg_lastSummary (code : Nat) (s : State) : (setEvent code s).dbg.lastSummary = s.dbg.lastSummary := by unfold setEvent; split <;> rfl
@[simp] theorem setEvent_dbg_lanes (code : Nat) (s : State) : (setEvent code s).dbg.lanes = s.dbg.lanes := by unfold setEvent; split <;> rfl
@[simp] theorem setEvent_dbg_laneErrs (code : Nat) (s : State) : (setEvent code s).dbg.laneErrs = s.dbg.laneErrs := by unfold setEvent; split <;> rfl

/-! ### Raising -/

@[simp] theorem raise_pending (e : Ev) (s : State) : (raise e s).pending = s.pending := by simp [raise]
@[simp] theorem raise_now (e : Ev) (s : State) : (raise e s).now = s.now := by simp [raise]
@[simp] theorem raise_freeCtr (e : Ev) (s : State) : (raise e s).freeCtr = s.freeCtr := by simp [raise]
@[simp] theorem raise_host (e : Ev) (s : State) : (raise e s).host = s.host := by simp [raise]
@[simp] theorem raise_pkg (e : Ev) (s : State) : (raise e s).pkg = s.pkg := by simp [raise]
@[simp] theorem raise_tile (e : Ev) (s : State) : (raise e s).tile = s.tile := by simp [raise]
@[simp] theorem raise_out (e : Ev) (s : State) : (raise e s).out = s.out := by simp [raise]
@[simp] theorem raise_jig_lateCnt (e : Ev) (s : State) : (raise e s).jig.lateCnt = s.jig.lateCnt := by simp [raise]
@[simp] theorem raise_jig_idleRows (e : Ev) (s : State) : (raise e s).jig.idleRows = s.jig.idleRows := by simp [raise]
@[simp] theorem raise_jig_bank0 (e : Ev) (s : State) : (raise e s).jig.bank0 = s.jig.bank0 := by simp [raise]
@[simp] theorem raise_jig_bank1 (e : Ev) (s : State) : (raise e s).jig.bank1 = s.jig.bank1 := by simp [raise]
@[simp] theorem raise_jig_activeNo (e : Ev) (s : State) : (raise e s).jig.activeNo = s.jig.activeNo := by simp [raise]
@[simp] theorem raise_jig_running (e : Ev) (s : State) : (raise e s).jig.running = s.jig.running := by simp [raise]
@[simp] theorem raise_jig_ts (e : Ev) (s : State) : (raise e s).jig.ts = s.jig.ts := by simp [raise]
@[simp] theorem raise_jig_frame (e : Ev) (s : State) : (raise e s).jig.frame = s.jig.frame := by simp [raise]
@[simp] theorem raise_jig_pos (e : Ev) (s : State) : (raise e s).jig.pos = s.jig.pos := by simp [raise]
@[simp] theorem raise_jig_visit (e : Ev) (s : State) : (raise e s).jig.visit = s.jig.visit := by simp [raise]
@[simp] theorem raise_jig_pend (e : Ev) (s : State) : (raise e s).jig.pend = s.jig.pend := by simp [raise]
@[simp] theorem raise_jig_rows (e : Ev) (s : State) : (raise e s).jig.rows = s.jig.rows := by simp [raise]
@[simp] theorem raise_jig_plans (e : Ev) (s : State) : (raise e s).jig.plans = s.jig.plans := by simp [raise]
@[simp] theorem raise_jig_readies (e : Ev) (s : State) : (raise e s).jig.readies = s.jig.readies := by simp [raise]
@[simp] theorem raise_jig_commits (e : Ev) (s : State) : (raise e s).jig.commits = s.jig.commits := by simp [raise]
@[simp] theorem raise_jig_groupPlans (e : Ev) (s : State) : (raise e s).jig.groupPlans = s.jig.groupPlans := by simp [raise]
@[simp] theorem raise_jig_usage (e : Ev) (s : State) : (raise e s).jig.usage = s.jig.usage := by simp [raise]
@[simp] theorem raise_jig_late (e : Ev) (s : State) : (raise e s).jig.late = s.jig.late := by simp [raise]
@[simp] theorem raise_jig_latest (e : Ev) (s : State) : (raise e s).jig.latest = s.jig.latest := by simp [raise]
@[simp] theorem raise_jig_lateHist (e : Ev) (s : State) : (raise e s).jig.lateHist = s.jig.lateHist := by simp [raise]
@[simp] theorem raise_jig_throttleArmed (e : Ev) (s : State) : (raise e s).jig.throttleArmed = s.jig.throttleArmed := by simp [raise]
@[simp] theorem raise_jig_noCommit (e : Ev) (s : State) : (raise e s).jig.noCommit = s.jig.noCommit := by simp [raise]
@[simp] theorem raise_jig_retest (e : Ev) (s : State) : (raise e s).jig.retest = s.jig.retest := by simp [raise]
@[simp] theorem raise_jig_paused (e : Ev) (s : State) : (raise e s).jig.paused = s.jig.paused := by simp [raise]
@[simp] theorem raise_mq_refuseCnt (e : Ev) (s : State) : (raise e s).mq.refuseCnt = s.mq.refuseCnt := by simp [raise]
@[simp] theorem raise_mq_emptyCnt (e : Ev) (s : State) : (raise e s).mq.emptyCnt = s.mq.emptyCnt := by simp [raise]
@[simp] theorem raise_mq_stallCnt (e : Ev) (s : State) : (raise e s).mq.stallCnt = s.mq.stallCnt := by simp [raise]
@[simp] theorem raise_mq_resendCnt (e : Ev) (s : State) : (raise e s).mq.resendCnt = s.mq.resendCnt := by simp [raise]
@[simp] theorem raise_mq_queues (e : Ev) (s : State) : (raise e s).mq.queues = s.mq.queues := by simp [raise]
@[simp] theorem raise_mq_bindings (e : Ev) (s : State) : (raise e s).mq.bindings = s.mq.bindings := by simp [raise]
@[simp] theorem raise_mq_gone (e : Ev) (s : State) : (raise e s).mq.gone = s.mq.gone := by simp [raise]
@[simp] theorem raise_vnr_faultCnt (e : Ev) (s : State) : (raise e s).vnr.faultCnt = s.vnr.faultCnt := by simp [raise]
@[simp] theorem raise_vnr_indexCnt (e : Ev) (s : State) : (raise e s).vnr.indexCnt = s.vnr.indexCnt := by simp [raise]
@[simp] theorem raise_vnr_ctxs (e : Ev) (s : State) : (raise e s).vnr.ctxs = s.vnr.ctxs := by simp [raise]
@[simp] theorem raise_vnr_jobs (e : Ev) (s : State) : (raise e s).vnr.jobs = s.vnr.jobs := by simp [raise]
@[simp] theorem raise_vnr_jobSerial (e : Ev) (s : State) : (raise e s).vnr.jobSerial = s.vnr.jobSerial := by simp [raise]
@[simp] theorem raise_vnr_divergeCnt (e : Ev) (s : State) : (raise e s).vnr.divergeCnt = s.vnr.divergeCnt := by simp [raise]
@[simp] theorem raise_glu_mismatchCnt (e : Ev) (s : State) : (raise e s).glu.mismatchCnt = s.glu.mismatchCnt := by simp [raise]
@[simp] theorem raise_glu_lateCnt (e : Ev) (s : State) : (raise e s).glu.lateCnt = s.glu.lateCnt := by simp [raise]
@[simp] theorem raise_glu_deferCnt (e : Ev) (s : State) : (raise e s).glu.deferCnt = s.glu.deferCnt := by simp [raise]
@[simp] theorem raise_glu_dropCnt (e : Ev) (s : State) : (raise e s).glu.dropCnt = s.glu.dropCnt := by simp [raise]
@[simp] theorem raise_glu_queues (e : Ev) (s : State) : (raise e s).glu.queues = s.glu.queues := by simp [raise]
@[simp] theorem raise_glu_insts (e : Ev) (s : State) : (raise e s).glu.insts = s.glu.insts := by simp [raise]
@[simp] theorem raise_glu_deferred (e : Ev) (s : State) : (raise e s).glu.deferred = s.glu.deferred := by simp [raise]
@[simp] theorem raise_glu_credits (e : Ev) (s : State) : (raise e s).glu.credits = s.glu.credits := by simp [raise]
@[simp] theorem raise_glu_lateEv (e : Ev) (s : State) : (raise e s).glu.lateEv = s.glu.lateEv := by simp [raise]
@[simp] theorem raise_mem_ceCnt (e : Ev) (s : State) : (raise e s).mem.ceCnt = s.mem.ceCnt := by simp [raise]
@[simp] theorem raise_mem_ueCnt (e : Ev) (s : State) : (raise e s).mem.ueCnt = s.mem.ueCnt := by simp [raise]
@[simp] theorem raise_mem_lateCnt (e : Ev) (s : State) : (raise e s).mem.lateCnt = s.mem.lateCnt := by simp [raise]
@[simp] theorem raise_mem_refreshCnt (e : Ev) (s : State) : (raise e s).mem.refreshCnt = s.mem.refreshCnt := by simp [raise]
@[simp] theorem raise_mem_objs (e : Ev) (s : State) : (raise e s).mem.objs = s.mem.objs := by simp [raise]
@[simp] theorem raise_mem_wcb (e : Ev) (s : State) : (raise e s).mem.wcb = s.mem.wcb := by simp [raise]
@[simp] theorem raise_mem_gddrRate (e : Ev) (s : State) : (raise e s).mem.gddrRate = s.mem.gddrRate := by simp [raise]
@[simp] theorem raise_mem_gddrSyms (e : Ev) (s : State) : (raise e s).mem.gddrSyms = s.mem.gddrSyms := by simp [raise]
@[simp] theorem raise_mem_flashFailed (e : Ev) (s : State) : (raise e s).mem.flashFailed = s.mem.flashFailed := by simp [raise]
@[simp] theorem raise_mem_rebuilding (e : Ev) (s : State) : (raise e s).mem.rebuilding = s.mem.rebuilding := by simp [raise]
@[simp] theorem raise_mem_maxRetry (e : Ev) (s : State) : (raise e s).mem.maxRetry = s.mem.maxRetry := by simp [raise]
@[simp] theorem raise_mem_blocks (e : Ev) (s : State) : (raise e s).mem.blocks = s.mem.blocks := by simp [raise]
@[simp] theorem raise_mem_records (e : Ev) (s : State) : (raise e s).mem.records = s.mem.records := by simp [raise]
@[simp] theorem raise_mem_gddrReady (e : Ev) (s : State) : (raise e s).mem.gddrReady = s.mem.gddrReady := by simp [raise]
@[simp] theorem raise_mem_nextCal (e : Ev) (s : State) : (raise e s).mem.nextCal = s.mem.nextCal := by simp [raise]
@[simp] theorem raise_mem_journalSeq (e : Ev) (s : State) : (raise e s).mem.journalSeq = s.mem.journalSeq := by simp [raise]
@[simp] theorem raise_dvl_step (e : Ev) (s : State) : (raise e s).dvl.step = s.dvl.step := by simp [raise]
@[simp] theorem raise_dvl_hold (e : Ev) (s : State) : (raise e s).dvl.hold = s.dvl.hold := by simp [raise]
@[simp] theorem raise_dvl_holdDue (e : Ev) (s : State) : (raise e s).dvl.holdDue = s.dvl.holdDue := by simp [raise]
@[simp] theorem raise_dvl_holdEnd (e : Ev) (s : State) : (raise e s).dvl.holdEnd = s.dvl.holdEnd := by simp [raise]
@[simp] theorem raise_dvl_locked (e : Ev) (s : State) : (raise e s).dvl.locked = s.dvl.locked := by simp [raise]
@[simp] theorem raise_dvl_closed (e : Ev) (s : State) : (raise e s).dvl.closed = s.dvl.closed := by simp [raise]
@[simp] theorem raise_dvl_outCause (e : Ev) (s : State) : (raise e s).dvl.outCause = s.dvl.outCause := by simp [raise]
@[simp] theorem raise_dvl_rootAddr (e : Ev) (s : State) : (raise e s).dvl.rootAddr = s.dvl.rootAddr := by simp [raise]
@[simp] theorem raise_dvl_parent (e : Ev) (s : State) : (raise e s).dvl.parent = s.dvl.parent := by simp [raise]
@[simp] theorem raise_dvl_epoch (e : Ev) (s : State) : (raise e s).dvl.epoch = s.dvl.epoch := by simp [raise]
@[simp] theorem raise_dvl_digest (e : Ev) (s : State) : (raise e s).dvl.digest = s.dvl.digest := by simp [raise]
@[simp] theorem raise_dvl_set (e : Ev) (s : State) : (raise e s).dvl.set = s.dvl.set := by simp [raise]
@[simp] theorem raise_dvl_map (e : Ev) (s : State) : (raise e s).dvl.map = s.dvl.map := by simp [raise]
@[simp] theorem raise_dvl_serial (e : Ev) (s : State) : (raise e s).dvl.serial = s.dvl.serial := by simp [raise]
@[simp] theorem raise_dvl_addr (e : Ev) (s : State) : (raise e s).dvl.addr = s.dvl.addr := by simp [raise]
@[simp] theorem raise_dvl_staged (e : Ev) (s : State) : (raise e s).dvl.staged = s.dvl.staged := by simp [raise]
@[simp] theorem raise_dvl_lostCnt (e : Ev) (s : State) : (raise e s).dvl.lostCnt = s.dvl.lostCnt := by simp [raise]
@[simp] theorem raise_dvl_nextMsgId (e : Ev) (s : State) : (raise e s).dvl.nextMsgId = s.dvl.nextMsgId := by simp [raise]
@[simp] theorem raise_dvl_sent (e : Ev) (s : State) : (raise e s).dvl.sent = s.dvl.sent := by simp [raise]
@[simp] theorem raise_dvl_linkSeen (e : Ev) (s : State) : (raise e s).dvl.linkSeen = s.dvl.linkSeen := by simp [raise]
@[simp] theorem raise_dvl_downLinks (e : Ev) (s : State) : (raise e s).dvl.downLinks = s.dvl.downLinks := by simp [raise]
@[simp] theorem raise_dvl_routedDown (e : Ev) (s : State) : (raise e s).dvl.routedDown = s.dvl.routedDown := by simp [raise]
@[simp] theorem raise_dvl_ports (e : Ev) (s : State) : (raise e s).dvl.ports = s.dvl.ports := by simp [raise]
@[simp] theorem raise_dvl_ext (e : Ev) (s : State) : (raise e s).dvl.ext = s.dvl.ext := by simp [raise]
@[simp] theorem raise_dvl_fleetReady (e : Ev) (s : State) : (raise e s).dvl.fleetReady = s.dvl.fleetReady := by simp [raise]
@[simp] theorem raise_dvl_agreed (e : Ev) (s : State) : (raise e s).dvl.agreed = s.dvl.agreed := by simp [raise]
@[simp] theorem raise_dvl_offsets (e : Ev) (s : State) : (raise e s).dvl.offsets = s.dvl.offsets := by simp [raise]
@[simp] theorem raise_dvl_rate (e : Ev) (s : State) : (raise e s).dvl.rate = s.dvl.rate := by simp [raise]
@[simp] theorem raise_dvl_estError (e : Ev) (s : State) : (raise e s).dvl.estError = s.dvl.estError := by simp [raise]
@[simp] theorem raise_ckp_reserveGiB (e : Ev) (s : State) : (raise e s).ckp.reserveGiB = s.ckp.reserveGiB := by simp [raise]
@[simp] theorem raise_ckp_failCnt (e : Ev) (s : State) : (raise e s).ckp.failCnt = s.ckp.failCnt := by simp [raise]
@[simp] theorem raise_ckp_shrinkCnt (e : Ev) (s : State) : (raise e s).ckp.shrinkCnt = s.ckp.shrinkCnt := by simp [raise]
@[simp] theorem raise_ckp_localSeq (e : Ev) (s : State) : (raise e s).ckp.localSeq = s.ckp.localSeq := by simp [raise]
@[simp] theorem raise_ckp_policy (e : Ev) (s : State) : (raise e s).ckp.policy = s.ckp.policy := by simp [raise]
@[simp] theorem raise_ckp_captures (e : Ev) (s : State) : (raise e s).ckp.captures = s.ckp.captures := by simp [raise]
@[simp] theorem raise_ckp_retained (e : Ev) (s : State) : (raise e s).ckp.retained = s.ckp.retained := by simp [raise]
@[simp] theorem raise_ckp_buddy (e : Ev) (s : State) : (raise e s).ckp.buddy = s.ckp.buddy := by simp [raise]
@[simp] theorem raise_ckp_shrinks (e : Ev) (s : State) : (raise e s).ckp.shrinks = s.ckp.shrinks := by simp [raise]
@[simp] theorem raise_ckp_rollbacks (e : Ev) (s : State) : (raise e s).ckp.rollbacks = s.ckp.rollbacks := by simp [raise]
@[simp] theorem raise_ckp_leads (e : Ev) (s : State) : (raise e s).ckp.leads = s.ckp.leads := by simp [raise]
@[simp] theorem raise_ckp_lost (e : Ev) (s : State) : (raise e s).ckp.lost = s.ckp.lost := by simp [raise]
@[simp] theorem raise_pwr_state (e : Ev) (s : State) : (raise e s).pwr.state = s.pwr.state := by simp [raise]
@[simp] theorem raise_pwr_waking (e : Ev) (s : State) : (raise e s).pwr.waking = s.pwr.waking := by simp [raise]
@[simp] theorem raise_pwr_entryDue (e : Ev) (s : State) : (raise e s).pwr.entryDue = s.pwr.entryDue := by simp [raise]
@[simp] theorem raise_pwr_entering (e : Ev) (s : State) : (raise e s).pwr.entering = s.pwr.entering := by simp [raise]
@[simp] theorem raise_pwr_entryCause (e : Ev) (s : State) : (raise e s).pwr.entryCause = s.pwr.entryCause := by simp [raise]
@[simp] theorem raise_pwr_wakeEn (e : Ev) (s : State) : (raise e s).pwr.wakeEn = s.pwr.wakeEn := by simp [raise]
@[simp] theorem raise_pwr_lastWake (e : Ev) (s : State) : (raise e s).pwr.lastWake = s.pwr.lastWake := by simp [raise]
@[simp] theorem raise_pwr_limit (e : Ev) (s : State) : (raise e s).pwr.limit = s.pwr.limit := by simp [raise]
@[simp] theorem raise_pwr_inputCut (e : Ev) (s : State) : (raise e s).pwr.inputCut = s.pwr.inputCut := by simp [raise]
@[simp] theorem raise_pwr_volts (e : Ev) (s : State) : (raise e s).pwr.volts = s.pwr.volts := by simp [raise]
@[simp] theorem raise_pwr_amps (e : Ev) (s : State) : (raise e s).pwr.amps = s.pwr.amps := by simp [raise]
@[simp] theorem raise_pwr_inlet (e : Ev) (s : State) : (raise e s).pwr.inlet = s.pwr.inlet := by simp [raise]
@[simp] theorem raise_pwr_flow (e : Ev) (s : State) : (raise e s).pwr.flow = s.pwr.flow := by simp [raise]
@[simp] theorem raise_pwr_rtc (e : Ev) (s : State) : (raise e s).pwr.rtc = s.pwr.rtc := by simp [raise]
@[simp] theorem raise_pwr_alarm (e : Ev) (s : State) : (raise e s).pwr.alarm = s.pwr.alarm := by simp [raise]
@[simp] theorem raise_pwr_shimSeq (e : Ev) (s : State) : (raise e s).pwr.shimSeq = s.pwr.shimSeq := by simp [raise]
@[simp] theorem raise_pwr_plan (e : Ev) (s : State) : (raise e s).pwr.plan = s.pwr.plan := by simp [raise]
@[simp] theorem raise_pwr_nextPlan (e : Ev) (s : State) : (raise e s).pwr.nextPlan = s.pwr.nextPlan := by simp [raise]
@[simp] theorem raise_pwr_nextPlanSeq (e : Ev) (s : State) : (raise e s).pwr.nextPlanSeq = s.pwr.nextPlanSeq := by simp [raise]
@[simp] theorem raise_pwr_throttleCnt (e : Ev) (s : State) : (raise e s).pwr.throttleCnt = s.pwr.throttleCnt := by simp [raise]
@[simp] theorem raise_pwr_dies (e : Ev) (s : State) : (raise e s).pwr.dies = s.pwr.dies := by simp [raise]
@[simp] theorem raise_pwr_otherBudget (e : Ev) (s : State) : (raise e s).pwr.otherBudget = s.pwr.otherBudget := by simp [raise]
@[simp] theorem raise_pwr_draw (e : Ev) (s : State) : (raise e s).pwr.draw = s.pwr.draw := by simp [raise]
@[simp] theorem raise_pwr_dark (e : Ev) (s : State) : (raise e s).pwr.dark = s.pwr.dark := by simp [raise]
@[simp] theorem raise_pwr_planAtWake (e : Ev) (s : State) : (raise e s).pwr.planAtWake = s.pwr.planAtWake := by simp [raise]
@[simp] theorem raise_pwr_activeFrom (e : Ev) (s : State) : (raise e s).pwr.activeFrom = s.pwr.activeFrom := by simp [raise]
@[simp] theorem raiseCtx_pending (code source c : Nat) (d : List (Nat × Nat)) (s : State) : (raiseCtx code source c d s).pending = s.pending := by simp [raiseCtx]
@[simp] theorem raiseCtx_now (code source c : Nat) (d : List (Nat × Nat)) (s : State) : (raiseCtx code source c d s).now = s.now := by simp [raiseCtx]
@[simp] theorem raiseCtx_freeCtr (code source c : Nat) (d : List (Nat × Nat)) (s : State) : (raiseCtx code source c d s).freeCtr = s.freeCtr := by simp [raiseCtx]
@[simp] theorem raiseCtx_host (code source c : Nat) (d : List (Nat × Nat)) (s : State) : (raiseCtx code source c d s).host = s.host := by simp [raiseCtx]
@[simp] theorem raiseCtx_pkg (code source c : Nat) (d : List (Nat × Nat)) (s : State) : (raiseCtx code source c d s).pkg = s.pkg := by simp [raiseCtx]
@[simp] theorem raiseCtx_tile (code source c : Nat) (d : List (Nat × Nat)) (s : State) : (raiseCtx code source c d s).tile = s.tile := by simp [raiseCtx]
@[simp] theorem raiseCtx_out (code source c : Nat) (d : List (Nat × Nat)) (s : State) : (raiseCtx code source c d s).out = s.out := by simp [raiseCtx]
@[simp] theorem raiseCtx_jig_lateCnt (code source c : Nat) (d : List (Nat × Nat)) (s : State) : (raiseCtx code source c d s).jig.lateCnt = s.jig.lateCnt := by simp [raiseCtx]
@[simp] theorem raiseCtx_jig_idleRows (code source c : Nat) (d : List (Nat × Nat)) (s : State) : (raiseCtx code source c d s).jig.idleRows = s.jig.idleRows := by simp [raiseCtx]
@[simp] theorem raiseCtx_jig_bank0 (code source c : Nat) (d : List (Nat × Nat)) (s : State) : (raiseCtx code source c d s).jig.bank0 = s.jig.bank0 := by simp [raiseCtx]
@[simp] theorem raiseCtx_jig_bank1 (code source c : Nat) (d : List (Nat × Nat)) (s : State) : (raiseCtx code source c d s).jig.bank1 = s.jig.bank1 := by simp [raiseCtx]
@[simp] theorem raiseCtx_jig_activeNo (code source c : Nat) (d : List (Nat × Nat)) (s : State) : (raiseCtx code source c d s).jig.activeNo = s.jig.activeNo := by simp [raiseCtx]
@[simp] theorem raiseCtx_jig_running (code source c : Nat) (d : List (Nat × Nat)) (s : State) : (raiseCtx code source c d s).jig.running = s.jig.running := by simp [raiseCtx]
@[simp] theorem raiseCtx_jig_ts (code source c : Nat) (d : List (Nat × Nat)) (s : State) : (raiseCtx code source c d s).jig.ts = s.jig.ts := by simp [raiseCtx]
@[simp] theorem raiseCtx_jig_frame (code source c : Nat) (d : List (Nat × Nat)) (s : State) : (raiseCtx code source c d s).jig.frame = s.jig.frame := by simp [raiseCtx]
@[simp] theorem raiseCtx_jig_pos (code source c : Nat) (d : List (Nat × Nat)) (s : State) : (raiseCtx code source c d s).jig.pos = s.jig.pos := by simp [raiseCtx]
@[simp] theorem raiseCtx_jig_visit (code source c : Nat) (d : List (Nat × Nat)) (s : State) : (raiseCtx code source c d s).jig.visit = s.jig.visit := by simp [raiseCtx]
@[simp] theorem raiseCtx_jig_pend (code source c : Nat) (d : List (Nat × Nat)) (s : State) : (raiseCtx code source c d s).jig.pend = s.jig.pend := by simp [raiseCtx]
@[simp] theorem raiseCtx_jig_rows (code source c : Nat) (d : List (Nat × Nat)) (s : State) : (raiseCtx code source c d s).jig.rows = s.jig.rows := by simp [raiseCtx]
@[simp] theorem raiseCtx_jig_plans (code source c : Nat) (d : List (Nat × Nat)) (s : State) : (raiseCtx code source c d s).jig.plans = s.jig.plans := by simp [raiseCtx]
@[simp] theorem raiseCtx_jig_readies (code source c : Nat) (d : List (Nat × Nat)) (s : State) : (raiseCtx code source c d s).jig.readies = s.jig.readies := by simp [raiseCtx]
@[simp] theorem raiseCtx_jig_commits (code source c : Nat) (d : List (Nat × Nat)) (s : State) : (raiseCtx code source c d s).jig.commits = s.jig.commits := by simp [raiseCtx]
@[simp] theorem raiseCtx_jig_groupPlans (code source c : Nat) (d : List (Nat × Nat)) (s : State) : (raiseCtx code source c d s).jig.groupPlans = s.jig.groupPlans := by simp [raiseCtx]
@[simp] theorem raiseCtx_jig_usage (code source c : Nat) (d : List (Nat × Nat)) (s : State) : (raiseCtx code source c d s).jig.usage = s.jig.usage := by simp [raiseCtx]
@[simp] theorem raiseCtx_jig_late (code source c : Nat) (d : List (Nat × Nat)) (s : State) : (raiseCtx code source c d s).jig.late = s.jig.late := by simp [raiseCtx]
@[simp] theorem raiseCtx_jig_latest (code source c : Nat) (d : List (Nat × Nat)) (s : State) : (raiseCtx code source c d s).jig.latest = s.jig.latest := by simp [raiseCtx]
@[simp] theorem raiseCtx_jig_lateHist (code source c : Nat) (d : List (Nat × Nat)) (s : State) : (raiseCtx code source c d s).jig.lateHist = s.jig.lateHist := by simp [raiseCtx]
@[simp] theorem raiseCtx_jig_throttleArmed (code source c : Nat) (d : List (Nat × Nat)) (s : State) : (raiseCtx code source c d s).jig.throttleArmed = s.jig.throttleArmed := by simp [raiseCtx]
@[simp] theorem raiseCtx_jig_noCommit (code source c : Nat) (d : List (Nat × Nat)) (s : State) : (raiseCtx code source c d s).jig.noCommit = s.jig.noCommit := by simp [raiseCtx]
@[simp] theorem raiseCtx_jig_retest (code source c : Nat) (d : List (Nat × Nat)) (s : State) : (raiseCtx code source c d s).jig.retest = s.jig.retest := by simp [raiseCtx]
@[simp] theorem raiseCtx_jig_paused (code source c : Nat) (d : List (Nat × Nat)) (s : State) : (raiseCtx code source c d s).jig.paused = s.jig.paused := by simp [raiseCtx]
@[simp] theorem raiseCtx_mq_refuseCnt (code source c : Nat) (d : List (Nat × Nat)) (s : State) : (raiseCtx code source c d s).mq.refuseCnt = s.mq.refuseCnt := by simp [raiseCtx]
@[simp] theorem raiseCtx_mq_emptyCnt (code source c : Nat) (d : List (Nat × Nat)) (s : State) : (raiseCtx code source c d s).mq.emptyCnt = s.mq.emptyCnt := by simp [raiseCtx]
@[simp] theorem raiseCtx_mq_stallCnt (code source c : Nat) (d : List (Nat × Nat)) (s : State) : (raiseCtx code source c d s).mq.stallCnt = s.mq.stallCnt := by simp [raiseCtx]
@[simp] theorem raiseCtx_mq_resendCnt (code source c : Nat) (d : List (Nat × Nat)) (s : State) : (raiseCtx code source c d s).mq.resendCnt = s.mq.resendCnt := by simp [raiseCtx]
@[simp] theorem raiseCtx_mq_queues (code source c : Nat) (d : List (Nat × Nat)) (s : State) : (raiseCtx code source c d s).mq.queues = s.mq.queues := by simp [raiseCtx]
@[simp] theorem raiseCtx_mq_bindings (code source c : Nat) (d : List (Nat × Nat)) (s : State) : (raiseCtx code source c d s).mq.bindings = s.mq.bindings := by simp [raiseCtx]
@[simp] theorem raiseCtx_mq_gone (code source c : Nat) (d : List (Nat × Nat)) (s : State) : (raiseCtx code source c d s).mq.gone = s.mq.gone := by simp [raiseCtx]
@[simp] theorem raiseCtx_vnr_faultCnt (code source c : Nat) (d : List (Nat × Nat)) (s : State) : (raiseCtx code source c d s).vnr.faultCnt = s.vnr.faultCnt := by simp [raiseCtx]
@[simp] theorem raiseCtx_vnr_indexCnt (code source c : Nat) (d : List (Nat × Nat)) (s : State) : (raiseCtx code source c d s).vnr.indexCnt = s.vnr.indexCnt := by simp [raiseCtx]
@[simp] theorem raiseCtx_vnr_ctxs (code source c : Nat) (d : List (Nat × Nat)) (s : State) : (raiseCtx code source c d s).vnr.ctxs = s.vnr.ctxs := by simp [raiseCtx]
@[simp] theorem raiseCtx_vnr_jobs (code source c : Nat) (d : List (Nat × Nat)) (s : State) : (raiseCtx code source c d s).vnr.jobs = s.vnr.jobs := by simp [raiseCtx]
@[simp] theorem raiseCtx_vnr_jobSerial (code source c : Nat) (d : List (Nat × Nat)) (s : State) : (raiseCtx code source c d s).vnr.jobSerial = s.vnr.jobSerial := by simp [raiseCtx]
@[simp] theorem raiseCtx_vnr_divergeCnt (code source c : Nat) (d : List (Nat × Nat)) (s : State) : (raiseCtx code source c d s).vnr.divergeCnt = s.vnr.divergeCnt := by simp [raiseCtx]
@[simp] theorem raiseCtx_glu_mismatchCnt (code source c : Nat) (d : List (Nat × Nat)) (s : State) : (raiseCtx code source c d s).glu.mismatchCnt = s.glu.mismatchCnt := by simp [raiseCtx]
@[simp] theorem raiseCtx_glu_lateCnt (code source c : Nat) (d : List (Nat × Nat)) (s : State) : (raiseCtx code source c d s).glu.lateCnt = s.glu.lateCnt := by simp [raiseCtx]
@[simp] theorem raiseCtx_glu_deferCnt (code source c : Nat) (d : List (Nat × Nat)) (s : State) : (raiseCtx code source c d s).glu.deferCnt = s.glu.deferCnt := by simp [raiseCtx]
@[simp] theorem raiseCtx_glu_dropCnt (code source c : Nat) (d : List (Nat × Nat)) (s : State) : (raiseCtx code source c d s).glu.dropCnt = s.glu.dropCnt := by simp [raiseCtx]
@[simp] theorem raiseCtx_glu_queues (code source c : Nat) (d : List (Nat × Nat)) (s : State) : (raiseCtx code source c d s).glu.queues = s.glu.queues := by simp [raiseCtx]
@[simp] theorem raiseCtx_glu_insts (code source c : Nat) (d : List (Nat × Nat)) (s : State) : (raiseCtx code source c d s).glu.insts = s.glu.insts := by simp [raiseCtx]
@[simp] theorem raiseCtx_glu_deferred (code source c : Nat) (d : List (Nat × Nat)) (s : State) : (raiseCtx code source c d s).glu.deferred = s.glu.deferred := by simp [raiseCtx]
@[simp] theorem raiseCtx_glu_credits (code source c : Nat) (d : List (Nat × Nat)) (s : State) : (raiseCtx code source c d s).glu.credits = s.glu.credits := by simp [raiseCtx]
@[simp] theorem raiseCtx_glu_lateEv (code source c : Nat) (d : List (Nat × Nat)) (s : State) : (raiseCtx code source c d s).glu.lateEv = s.glu.lateEv := by simp [raiseCtx]
@[simp] theorem raiseCtx_mem_ceCnt (code source c : Nat) (d : List (Nat × Nat)) (s : State) : (raiseCtx code source c d s).mem.ceCnt = s.mem.ceCnt := by simp [raiseCtx]
@[simp] theorem raiseCtx_mem_ueCnt (code source c : Nat) (d : List (Nat × Nat)) (s : State) : (raiseCtx code source c d s).mem.ueCnt = s.mem.ueCnt := by simp [raiseCtx]
@[simp] theorem raiseCtx_mem_lateCnt (code source c : Nat) (d : List (Nat × Nat)) (s : State) : (raiseCtx code source c d s).mem.lateCnt = s.mem.lateCnt := by simp [raiseCtx]
@[simp] theorem raiseCtx_mem_refreshCnt (code source c : Nat) (d : List (Nat × Nat)) (s : State) : (raiseCtx code source c d s).mem.refreshCnt = s.mem.refreshCnt := by simp [raiseCtx]
@[simp] theorem raiseCtx_mem_objs (code source c : Nat) (d : List (Nat × Nat)) (s : State) : (raiseCtx code source c d s).mem.objs = s.mem.objs := by simp [raiseCtx]
@[simp] theorem raiseCtx_mem_wcb (code source c : Nat) (d : List (Nat × Nat)) (s : State) : (raiseCtx code source c d s).mem.wcb = s.mem.wcb := by simp [raiseCtx]
@[simp] theorem raiseCtx_mem_gddrRate (code source c : Nat) (d : List (Nat × Nat)) (s : State) : (raiseCtx code source c d s).mem.gddrRate = s.mem.gddrRate := by simp [raiseCtx]
@[simp] theorem raiseCtx_mem_gddrSyms (code source c : Nat) (d : List (Nat × Nat)) (s : State) : (raiseCtx code source c d s).mem.gddrSyms = s.mem.gddrSyms := by simp [raiseCtx]
@[simp] theorem raiseCtx_mem_flashFailed (code source c : Nat) (d : List (Nat × Nat)) (s : State) : (raiseCtx code source c d s).mem.flashFailed = s.mem.flashFailed := by simp [raiseCtx]
@[simp] theorem raiseCtx_mem_rebuilding (code source c : Nat) (d : List (Nat × Nat)) (s : State) : (raiseCtx code source c d s).mem.rebuilding = s.mem.rebuilding := by simp [raiseCtx]
@[simp] theorem raiseCtx_mem_maxRetry (code source c : Nat) (d : List (Nat × Nat)) (s : State) : (raiseCtx code source c d s).mem.maxRetry = s.mem.maxRetry := by simp [raiseCtx]
@[simp] theorem raiseCtx_mem_blocks (code source c : Nat) (d : List (Nat × Nat)) (s : State) : (raiseCtx code source c d s).mem.blocks = s.mem.blocks := by simp [raiseCtx]
@[simp] theorem raiseCtx_mem_records (code source c : Nat) (d : List (Nat × Nat)) (s : State) : (raiseCtx code source c d s).mem.records = s.mem.records := by simp [raiseCtx]
@[simp] theorem raiseCtx_mem_gddrReady (code source c : Nat) (d : List (Nat × Nat)) (s : State) : (raiseCtx code source c d s).mem.gddrReady = s.mem.gddrReady := by simp [raiseCtx]
@[simp] theorem raiseCtx_mem_nextCal (code source c : Nat) (d : List (Nat × Nat)) (s : State) : (raiseCtx code source c d s).mem.nextCal = s.mem.nextCal := by simp [raiseCtx]
@[simp] theorem raiseCtx_mem_journalSeq (code source c : Nat) (d : List (Nat × Nat)) (s : State) : (raiseCtx code source c d s).mem.journalSeq = s.mem.journalSeq := by simp [raiseCtx]
@[simp] theorem raiseCtx_dvl_step (code source c : Nat) (d : List (Nat × Nat)) (s : State) : (raiseCtx code source c d s).dvl.step = s.dvl.step := by simp [raiseCtx]
@[simp] theorem raiseCtx_dvl_hold (code source c : Nat) (d : List (Nat × Nat)) (s : State) : (raiseCtx code source c d s).dvl.hold = s.dvl.hold := by simp [raiseCtx]
@[simp] theorem raiseCtx_dvl_holdDue (code source c : Nat) (d : List (Nat × Nat)) (s : State) : (raiseCtx code source c d s).dvl.holdDue = s.dvl.holdDue := by simp [raiseCtx]
@[simp] theorem raiseCtx_dvl_holdEnd (code source c : Nat) (d : List (Nat × Nat)) (s : State) : (raiseCtx code source c d s).dvl.holdEnd = s.dvl.holdEnd := by simp [raiseCtx]
@[simp] theorem raiseCtx_dvl_locked (code source c : Nat) (d : List (Nat × Nat)) (s : State) : (raiseCtx code source c d s).dvl.locked = s.dvl.locked := by simp [raiseCtx]
@[simp] theorem raiseCtx_dvl_closed (code source c : Nat) (d : List (Nat × Nat)) (s : State) : (raiseCtx code source c d s).dvl.closed = s.dvl.closed := by simp [raiseCtx]
@[simp] theorem raiseCtx_dvl_outCause (code source c : Nat) (d : List (Nat × Nat)) (s : State) : (raiseCtx code source c d s).dvl.outCause = s.dvl.outCause := by simp [raiseCtx]
@[simp] theorem raiseCtx_dvl_rootAddr (code source c : Nat) (d : List (Nat × Nat)) (s : State) : (raiseCtx code source c d s).dvl.rootAddr = s.dvl.rootAddr := by simp [raiseCtx]
@[simp] theorem raiseCtx_dvl_parent (code source c : Nat) (d : List (Nat × Nat)) (s : State) : (raiseCtx code source c d s).dvl.parent = s.dvl.parent := by simp [raiseCtx]
@[simp] theorem raiseCtx_dvl_epoch (code source c : Nat) (d : List (Nat × Nat)) (s : State) : (raiseCtx code source c d s).dvl.epoch = s.dvl.epoch := by simp [raiseCtx]
@[simp] theorem raiseCtx_dvl_digest (code source c : Nat) (d : List (Nat × Nat)) (s : State) : (raiseCtx code source c d s).dvl.digest = s.dvl.digest := by simp [raiseCtx]
@[simp] theorem raiseCtx_dvl_set (code source c : Nat) (d : List (Nat × Nat)) (s : State) : (raiseCtx code source c d s).dvl.set = s.dvl.set := by simp [raiseCtx]
@[simp] theorem raiseCtx_dvl_map (code source c : Nat) (d : List (Nat × Nat)) (s : State) : (raiseCtx code source c d s).dvl.map = s.dvl.map := by simp [raiseCtx]
@[simp] theorem raiseCtx_dvl_serial (code source c : Nat) (d : List (Nat × Nat)) (s : State) : (raiseCtx code source c d s).dvl.serial = s.dvl.serial := by simp [raiseCtx]
@[simp] theorem raiseCtx_dvl_addr (code source c : Nat) (d : List (Nat × Nat)) (s : State) : (raiseCtx code source c d s).dvl.addr = s.dvl.addr := by simp [raiseCtx]
@[simp] theorem raiseCtx_dvl_staged (code source c : Nat) (d : List (Nat × Nat)) (s : State) : (raiseCtx code source c d s).dvl.staged = s.dvl.staged := by simp [raiseCtx]
@[simp] theorem raiseCtx_dvl_lostCnt (code source c : Nat) (d : List (Nat × Nat)) (s : State) : (raiseCtx code source c d s).dvl.lostCnt = s.dvl.lostCnt := by simp [raiseCtx]
@[simp] theorem raiseCtx_dvl_nextMsgId (code source c : Nat) (d : List (Nat × Nat)) (s : State) : (raiseCtx code source c d s).dvl.nextMsgId = s.dvl.nextMsgId := by simp [raiseCtx]
@[simp] theorem raiseCtx_dvl_sent (code source c : Nat) (d : List (Nat × Nat)) (s : State) : (raiseCtx code source c d s).dvl.sent = s.dvl.sent := by simp [raiseCtx]
@[simp] theorem raiseCtx_dvl_linkSeen (code source c : Nat) (d : List (Nat × Nat)) (s : State) : (raiseCtx code source c d s).dvl.linkSeen = s.dvl.linkSeen := by simp [raiseCtx]
@[simp] theorem raiseCtx_dvl_downLinks (code source c : Nat) (d : List (Nat × Nat)) (s : State) : (raiseCtx code source c d s).dvl.downLinks = s.dvl.downLinks := by simp [raiseCtx]
@[simp] theorem raiseCtx_dvl_routedDown (code source c : Nat) (d : List (Nat × Nat)) (s : State) : (raiseCtx code source c d s).dvl.routedDown = s.dvl.routedDown := by simp [raiseCtx]
@[simp] theorem raiseCtx_dvl_ports (code source c : Nat) (d : List (Nat × Nat)) (s : State) : (raiseCtx code source c d s).dvl.ports = s.dvl.ports := by simp [raiseCtx]
@[simp] theorem raiseCtx_dvl_ext (code source c : Nat) (d : List (Nat × Nat)) (s : State) : (raiseCtx code source c d s).dvl.ext = s.dvl.ext := by simp [raiseCtx]
@[simp] theorem raiseCtx_dvl_fleetReady (code source c : Nat) (d : List (Nat × Nat)) (s : State) : (raiseCtx code source c d s).dvl.fleetReady = s.dvl.fleetReady := by simp [raiseCtx]
@[simp] theorem raiseCtx_dvl_agreed (code source c : Nat) (d : List (Nat × Nat)) (s : State) : (raiseCtx code source c d s).dvl.agreed = s.dvl.agreed := by simp [raiseCtx]
@[simp] theorem raiseCtx_dvl_offsets (code source c : Nat) (d : List (Nat × Nat)) (s : State) : (raiseCtx code source c d s).dvl.offsets = s.dvl.offsets := by simp [raiseCtx]
@[simp] theorem raiseCtx_dvl_rate (code source c : Nat) (d : List (Nat × Nat)) (s : State) : (raiseCtx code source c d s).dvl.rate = s.dvl.rate := by simp [raiseCtx]
@[simp] theorem raiseCtx_dvl_estError (code source c : Nat) (d : List (Nat × Nat)) (s : State) : (raiseCtx code source c d s).dvl.estError = s.dvl.estError := by simp [raiseCtx]
@[simp] theorem raiseCtx_ckp_reserveGiB (code source c : Nat) (d : List (Nat × Nat)) (s : State) : (raiseCtx code source c d s).ckp.reserveGiB = s.ckp.reserveGiB := by simp [raiseCtx]
@[simp] theorem raiseCtx_ckp_failCnt (code source c : Nat) (d : List (Nat × Nat)) (s : State) : (raiseCtx code source c d s).ckp.failCnt = s.ckp.failCnt := by simp [raiseCtx]
@[simp] theorem raiseCtx_ckp_shrinkCnt (code source c : Nat) (d : List (Nat × Nat)) (s : State) : (raiseCtx code source c d s).ckp.shrinkCnt = s.ckp.shrinkCnt := by simp [raiseCtx]
@[simp] theorem raiseCtx_ckp_localSeq (code source c : Nat) (d : List (Nat × Nat)) (s : State) : (raiseCtx code source c d s).ckp.localSeq = s.ckp.localSeq := by simp [raiseCtx]
@[simp] theorem raiseCtx_ckp_policy (code source c : Nat) (d : List (Nat × Nat)) (s : State) : (raiseCtx code source c d s).ckp.policy = s.ckp.policy := by simp [raiseCtx]
@[simp] theorem raiseCtx_ckp_captures (code source c : Nat) (d : List (Nat × Nat)) (s : State) : (raiseCtx code source c d s).ckp.captures = s.ckp.captures := by simp [raiseCtx]
@[simp] theorem raiseCtx_ckp_retained (code source c : Nat) (d : List (Nat × Nat)) (s : State) : (raiseCtx code source c d s).ckp.retained = s.ckp.retained := by simp [raiseCtx]
@[simp] theorem raiseCtx_ckp_buddy (code source c : Nat) (d : List (Nat × Nat)) (s : State) : (raiseCtx code source c d s).ckp.buddy = s.ckp.buddy := by simp [raiseCtx]
@[simp] theorem raiseCtx_ckp_shrinks (code source c : Nat) (d : List (Nat × Nat)) (s : State) : (raiseCtx code source c d s).ckp.shrinks = s.ckp.shrinks := by simp [raiseCtx]
@[simp] theorem raiseCtx_ckp_rollbacks (code source c : Nat) (d : List (Nat × Nat)) (s : State) : (raiseCtx code source c d s).ckp.rollbacks = s.ckp.rollbacks := by simp [raiseCtx]
@[simp] theorem raiseCtx_ckp_leads (code source c : Nat) (d : List (Nat × Nat)) (s : State) : (raiseCtx code source c d s).ckp.leads = s.ckp.leads := by simp [raiseCtx]
@[simp] theorem raiseCtx_ckp_lost (code source c : Nat) (d : List (Nat × Nat)) (s : State) : (raiseCtx code source c d s).ckp.lost = s.ckp.lost := by simp [raiseCtx]
@[simp] theorem raiseCtx_pwr_state (code source c : Nat) (d : List (Nat × Nat)) (s : State) : (raiseCtx code source c d s).pwr.state = s.pwr.state := by simp [raiseCtx]
@[simp] theorem raiseCtx_pwr_waking (code source c : Nat) (d : List (Nat × Nat)) (s : State) : (raiseCtx code source c d s).pwr.waking = s.pwr.waking := by simp [raiseCtx]
@[simp] theorem raiseCtx_pwr_entryDue (code source c : Nat) (d : List (Nat × Nat)) (s : State) : (raiseCtx code source c d s).pwr.entryDue = s.pwr.entryDue := by simp [raiseCtx]
@[simp] theorem raiseCtx_pwr_entering (code source c : Nat) (d : List (Nat × Nat)) (s : State) : (raiseCtx code source c d s).pwr.entering = s.pwr.entering := by simp [raiseCtx]
@[simp] theorem raiseCtx_pwr_entryCause (code source c : Nat) (d : List (Nat × Nat)) (s : State) : (raiseCtx code source c d s).pwr.entryCause = s.pwr.entryCause := by simp [raiseCtx]
@[simp] theorem raiseCtx_pwr_wakeEn (code source c : Nat) (d : List (Nat × Nat)) (s : State) : (raiseCtx code source c d s).pwr.wakeEn = s.pwr.wakeEn := by simp [raiseCtx]
@[simp] theorem raiseCtx_pwr_lastWake (code source c : Nat) (d : List (Nat × Nat)) (s : State) : (raiseCtx code source c d s).pwr.lastWake = s.pwr.lastWake := by simp [raiseCtx]
@[simp] theorem raiseCtx_pwr_limit (code source c : Nat) (d : List (Nat × Nat)) (s : State) : (raiseCtx code source c d s).pwr.limit = s.pwr.limit := by simp [raiseCtx]
@[simp] theorem raiseCtx_pwr_inputCut (code source c : Nat) (d : List (Nat × Nat)) (s : State) : (raiseCtx code source c d s).pwr.inputCut = s.pwr.inputCut := by simp [raiseCtx]
@[simp] theorem raiseCtx_pwr_volts (code source c : Nat) (d : List (Nat × Nat)) (s : State) : (raiseCtx code source c d s).pwr.volts = s.pwr.volts := by simp [raiseCtx]
@[simp] theorem raiseCtx_pwr_amps (code source c : Nat) (d : List (Nat × Nat)) (s : State) : (raiseCtx code source c d s).pwr.amps = s.pwr.amps := by simp [raiseCtx]
@[simp] theorem raiseCtx_pwr_inlet (code source c : Nat) (d : List (Nat × Nat)) (s : State) : (raiseCtx code source c d s).pwr.inlet = s.pwr.inlet := by simp [raiseCtx]
@[simp] theorem raiseCtx_pwr_flow (code source c : Nat) (d : List (Nat × Nat)) (s : State) : (raiseCtx code source c d s).pwr.flow = s.pwr.flow := by simp [raiseCtx]
@[simp] theorem raiseCtx_pwr_rtc (code source c : Nat) (d : List (Nat × Nat)) (s : State) : (raiseCtx code source c d s).pwr.rtc = s.pwr.rtc := by simp [raiseCtx]
@[simp] theorem raiseCtx_pwr_alarm (code source c : Nat) (d : List (Nat × Nat)) (s : State) : (raiseCtx code source c d s).pwr.alarm = s.pwr.alarm := by simp [raiseCtx]
@[simp] theorem raiseCtx_pwr_shimSeq (code source c : Nat) (d : List (Nat × Nat)) (s : State) : (raiseCtx code source c d s).pwr.shimSeq = s.pwr.shimSeq := by simp [raiseCtx]
@[simp] theorem raiseCtx_pwr_plan (code source c : Nat) (d : List (Nat × Nat)) (s : State) : (raiseCtx code source c d s).pwr.plan = s.pwr.plan := by simp [raiseCtx]
@[simp] theorem raiseCtx_pwr_nextPlan (code source c : Nat) (d : List (Nat × Nat)) (s : State) : (raiseCtx code source c d s).pwr.nextPlan = s.pwr.nextPlan := by simp [raiseCtx]
@[simp] theorem raiseCtx_pwr_nextPlanSeq (code source c : Nat) (d : List (Nat × Nat)) (s : State) : (raiseCtx code source c d s).pwr.nextPlanSeq = s.pwr.nextPlanSeq := by simp [raiseCtx]
@[simp] theorem raiseCtx_pwr_throttleCnt (code source c : Nat) (d : List (Nat × Nat)) (s : State) : (raiseCtx code source c d s).pwr.throttleCnt = s.pwr.throttleCnt := by simp [raiseCtx]
@[simp] theorem raiseCtx_pwr_dies (code source c : Nat) (d : List (Nat × Nat)) (s : State) : (raiseCtx code source c d s).pwr.dies = s.pwr.dies := by simp [raiseCtx]
@[simp] theorem raiseCtx_pwr_otherBudget (code source c : Nat) (d : List (Nat × Nat)) (s : State) : (raiseCtx code source c d s).pwr.otherBudget = s.pwr.otherBudget := by simp [raiseCtx]
@[simp] theorem raiseCtx_pwr_draw (code source c : Nat) (d : List (Nat × Nat)) (s : State) : (raiseCtx code source c d s).pwr.draw = s.pwr.draw := by simp [raiseCtx]
@[simp] theorem raiseCtx_pwr_dark (code source c : Nat) (d : List (Nat × Nat)) (s : State) : (raiseCtx code source c d s).pwr.dark = s.pwr.dark := by simp [raiseCtx]
@[simp] theorem raiseCtx_pwr_planAtWake (code source c : Nat) (d : List (Nat × Nat)) (s : State) : (raiseCtx code source c d s).pwr.planAtWake = s.pwr.planAtWake := by simp [raiseCtx]
@[simp] theorem raiseCtx_pwr_activeFrom (code source c : Nat) (d : List (Nat × Nat)) (s : State) : (raiseCtx code source c d s).pwr.activeFrom = s.pwr.activeFrom := by simp [raiseCtx]

/-! ### Completing -/

theorem pairOf_setFn_pairs (f p : Nat) (g : FnSt → FnSt) (s : State) (h : (g (fnOf s f)).pairs = (fnOf s f).pairs) (j : Nat) :
    pairOf (setFn f g s) j p = pairOf s j p := by
  by_cases hf : f = j
  · subst hf; simp [pairOf, h]
  · simp [pairOf, fnOf_setFn_other g s hf]

theorem find_map_same {q : Nat} (g : Pair → Pair) (p : Nat) : ∀ l : List (Nat × Pair),
    ((l.map fun e => if e.1 = p then (p, g e.2) else e).find? fun e => e.1 == q).map (·.2) =
      if p = q then ((l.find? fun e => e.1 == q).map (·.2)).map g else (l.find? fun e => e.1 == q).map (·.2)
  | [] => by simp
  | (i, v) :: r => by
    have ih := find_map_same (q := q) g p r
    by_cases h1 : i = p
    · subst h1
      by_cases h2 : i = q
      · subst h2; simp
      · simp only [List.map_cons, if_true, List.find?_cons, beq_eq_false_iff_ne.mpr h2]
        simpa [h2] using ih
    · by_cases h2 : i = q
      · subst h2
        have h3 : p ≠ i := fun h => h1 h.symm
        simp [h1, h3]
      · simp only [List.map_cons, if_neg h1, List.find?_cons, beq_eq_false_iff_ne.mpr h2]
        exact ih

/-- A pair that is changed reads back changed, if it exists; every other pair is as before. -/
theorem pairOf_setPair (f p : Nat) (g : Pair → Pair) (s : State) (j q : Nat) :
    pairOf (setPair f p g s) j q = if f = j ∧ p = q then (pairOf s j q).map g else pairOf s j q := by
  by_cases hf : f = j
  · subst hf
    simp only [pairOf, setPair, fnOf_setFn_same, true_and]
    exact find_map_same g p _
  · simp [setPair, pairOf, fnOf_setFn_other _ s hf, hf]

@[simp] theorem enlist_fns (i : CmdInfo) (s : State) : (enlist i s).host.fns = s.host.fns := by unfold enlist; split <;> rfl
@[simp] theorem await_fns (src : Src) (w : Wait) (s : State) : (await src w s).host.fns = s.host.fns := rfl

theorem complete_sideband {src : Src} (h : src.issuer = .sideband) (st : Nat) (ws : List Nat) (s : State) :
    complete src st ws s = { s with
      host := { s.host with outst := s.host.outst.filter fun o => !Outst.is src o }
      out := .sideband (.completion st src.tag ws) :: s.out } := by simp [complete, h]

theorem complete_fn {src : Src} {f p : Fin 64} (h : src.issuer = .fn f p) (st : Nat) (ws : List Nat) (s : State) :
    complete src st ws s = setPair f p (fun q => { q with held := q.held ++ [⟨src.tag, st, ws, src.noIrq⟩] })
      { s with host := { s.host with
        outst := s.host.outst.map fun o => if Outst.is src o then { o with wait := .done } else o } } := by
  simp [complete, h]

/-- What is sent, and the completions a pair holds, only grow. -/
def Grows (s t : State) : Prop :=
  (∃ l, t.out = l ++ s.out) ∧ ∀ f p q, pairOf t f p = some q → ∃ q0 l, pairOf s f p = some q0 ∧ q.held = q0.held ++ l

theorem grows_of {s t : State} (h1 : t.host.fns = s.host.fns) (h2 : ∃ l, t.out = l ++ s.out) : Grows s t :=
  ⟨h2, fun f p q hq => ⟨q, [], by simpa only [pairOf, fnOf, h1] using hq, by simp⟩⟩

theorem grows_refl (s : State) : Grows s s := grows_of rfl ⟨[], rfl⟩

theorem grows_trans {s t u : State} (h1 : Grows s t) (h2 : Grows t u) : Grows s u := by
  obtain ⟨⟨l, hl⟩, hp⟩ := h1
  obtain ⟨⟨m, hm⟩, hq⟩ := h2
  refine ⟨⟨m ++ l, by simp [hm, hl]⟩, fun f p q h => ?_⟩
  obtain ⟨q1, l1, h1, e1⟩ := hq f p q h
  obtain ⟨q0, l0, h0, e0⟩ := hp f p q1 h1
  exact ⟨q0, l0 ++ l1, h0, by simp [e1, e0]⟩

theorem grows_complete (k : Src) (st : Nat) (ws : List Nat) (s : State) : Grows s (complete k st ws s) := by
  cases h : k.issuer with
  | sideband => rw [complete_sideband h]; exact grows_of rfl ⟨[_], rfl⟩
  | fn f p =>
    rw [complete_fn h]
    refine ⟨⟨[], rfl⟩, fun f' p' q hq => ?_⟩
    rw [pairOf_setPair] at hq
    split at hq
    · simp only [Option.map_eq_some_iff] at hq
      obtain ⟨r, hr, rfl⟩ := hq
      exact ⟨r, _, hr, rfl⟩
    · exact ⟨q, [], hq, by simp⟩

theorem grows_setFn (f : Nat) (g : FnSt → FnSt) (s : State) (hg : (g (fnOf s f)).pairs = (fnOf s f).pairs) :
    Grows s (setFn f g s) :=
  ⟨⟨[], rfl⟩, fun f' p q hq => ⟨q, [], by rwa [pairOf_setFn_pairs f p g s hg] at hq, by simp⟩⟩

theorem grows_emit (o : Out) (s : State) : Grows s (emit o s) := grows_of rfl ⟨[o], rfl⟩

theorem sends_emit (o : Out) {s t : State} (h : Grows s t) : Sends o s (emit o t) := by
  obtain ⟨⟨l, hl⟩, _⟩ := h
  exact ⟨o :: l, by simp [emit, hl], by simp⟩

theorem sends_grows {o : Out} {s t u : State} (h : Sends o s t) (h2 : Grows t u) : Sends o s u := by
  obtain ⟨l, hl, ho⟩ := h
  obtain ⟨⟨m, hm⟩, _⟩ := h2
  exact ⟨m ++ l, by simp [hm, hl], by simp [ho]⟩

/-- Completing a command answers it. -/
theorem answered_complete (src : Src) (st : Nat) (ws : List Nat) {s t : State} (h : Grows s t) :
    Answered src st ws s (complete src st ws t) := by
  cases h1 : src.issuer with
  | sideband =>
    obtain ⟨⟨l, hl⟩, _⟩ := h
    simp only [Answered, h1, complete_sideband h1]
    exact ⟨.sideband (.completion st src.tag ws) :: l, by simp [hl], by simp⟩
  | fn f p =>
    simp only [Answered, h1, complete_fn h1]
    intro q hq
    rw [pairOf_setPair] at hq
    simp only [and_self, if_true, Option.map_eq_some_iff] at hq
    obtain ⟨r, hr, rfl⟩ := hq
    obtain ⟨q0, l, h0, e0⟩ := h.2 _ _ r hr
    exact ⟨q0, l ++ [⟨src.tag, st, ws, src.noIrq⟩], h0, by simp [e0], by simp⟩

/-- Nothing that follows takes an answer back. -/
theorem answered_grows {src : Src} {st : Nat} {ws : List Nat} {s t u : State} (h : Answered src st ws s t)
    (h2 : Grows t u) : Answered src st ws s u := by
  cases h1 : src.issuer with
  | sideband => simp only [Answered, h1] at h ⊢; exact sends_grows h h2
  | fn f p =>
    simp only [Answered, h1] at h ⊢
    intro q hq
    obtain ⟨q1, l1, hq1, e1⟩ := h2.2 _ _ q hq
    obtain ⟨q0, l, h0, e0, hm⟩ := h q1 hq1
    exact ⟨q0, l ++ l1, h0, by simp [e1, e0], by simp [hm]⟩

theorem complete_out_of_fn {src : Src} {f p : Fin 64} (h : src.issuer = .fn f p) (st : Nat) (ws : List Nat) (s : State) :
    (complete src st ws s).out = s.out := by rw [complete_fn h]; rfl

/-! ### Settling -/

/-- What delivering an event changes in a function: its held events and its wake latch. -/
def Delivered (x y : FnSt) : Prop :=
  { y with evtHeld := x.evtHeld, ovfl := x.ovfl, wakeCause := x.wakeCause, wakePending := x.wakePending } = x

theorem delivered_field {α : Type} (φ : FnSt → α) (hφ : ∀ x e o w p,
    φ { x with evtHeld := e, ovfl := o, wakeCause := w, wakePending := p } = φ x) {x y : FnSt} (h : Delivered x y) :
    φ y = φ x := (hφ y _ _ _ _).symm.trans (congrArg φ h)

theorem delivered_pairs {x y : FnSt} (h : Delivered x y) : y.pairs = x.pairs :=
  delivered_field FnSt.pairs (fun _ _ _ _ _ => rfl) h

/-- What delivering records keeps: anything that completing a command, a function's record and a message sent keep. -/
theorem deliver_keeps (P : State → Prop) (hc : ∀ k st ws s, P s → P (complete k st ws s))
    (hf : ∀ f (g : FnSt → FnSt) s, (∀ x, Delivered x (g x)) → P s → P (setFn f g s))
    (he : ∀ o s, P s → P (emit o s)) (r : LogRec) (s : State) (h : P s) : P (deliver r s) := by
  have hw : ∀ f b s, P s → P (requestWake f b s) := by
    intro f b s h
    have h' : P (setFn f (fun x => { x with wakeCause := x.wakeCause ||| word b, wakePending := true }) s) :=
      hf _ _ _ (fun _ => rfl) h
    simp only [requestWake]
    split
    · split
      · exact h'
      · split
        · exact he _ _ h'
        · exact he _ _ h'
    · exact h
  have hd : ∀ f s, P s → P (deliverTo r f s) := by
    intro f s h
    dsimp only [deliverTo]
    split
    · exact hc _ _ _ _ h
    · refine hf _ _ _ (fun x => ?_) h
      unfold Delivered
      split <;> rfl
  have hl : ∀ (l : List Nat) s, P s → P (l.foldl (fun s f =>
      if fnExists s f && visible s f r then requestWake f 0x2000 (deliverTo r f s) else s) s) := by
    intro l
    induction l with
    | nil => exact fun _ h => h
    | cons f l ih =>
      intro s h
      refine ih _ ?_
      dsimp only
      split
      · exact hw _ _ _ (hd _ _ h)
      · exact h
  exact hl _ _ h

theorem settle_keeps (P : State → Prop) (hc : ∀ k st ws s, P s → P (complete k st ws s))
    (hf : ∀ f (g : FnSt → FnSt) s, (∀ x, Delivered x (g x)) → P s → P (setFn f g s))
    (he : ∀ o s, P s → P (emit o s)) (ha : ∀ s, P s → P (alertLine s)) (ht : ∀ s, P s → P (trimLog s)) (s t : State)
    (h : P t) : P (settle s t) := by
  have hl : ∀ (l : List LogRec) t, P t → P (l.foldl (fun t r => deliver r t) t) := by
    intro l
    induction l with
    | nil => exact fun _ h => h
    | cons r l ih =>
      intro t h
      rw [List.foldl_cons]
      exact ih _ (deliver_keeps P hc hf he r t h)
  unfold settle
  exact ht _ (ha _ (hl _ _ h))

theorem grows_settle (s t : State) : Grows t (settle s t) :=
  settle_keeps (Grows t) (fun k st ws s h => grows_trans h (grows_complete k st ws s))
    (fun f g s hg h => grows_trans h (grows_setFn f g s (delivered_pairs (hg _))))
    (fun o s h => grows_trans h (grows_emit o s)) (fun _ h => grows_trans h (grows_of rfl ⟨[], rfl⟩))
    (fun _ h => grows_trans h (grows_of rfl ⟨[], rfl⟩)) s t (grows_refl t)

/-- An answer given before the end of a command stands after it. -/
theorem answered_settle {src : Src} {st : Nat} {ws : List Nat} {s u : State} (v : State) (h : Answered src st ws s u) :
    Answered src st ws s (settle v u) := answered_grows h (grows_settle v u)

/-- What is sent stays sent. -/
theorem sends_settle {o : Out} {s u : State} (v : State) (h : Sends o s u) : Sends o s (settle v u) :=
  sends_grows h (grows_settle v u)

theorem settle_log_length (s t : State) : (settle s t).dbg.log.length ≤ 4096 := by
  simp only [settle, trimLog, List.length_take]; omega

theorem settle_alert (s t : State) :
    (settle s t).pkg.alert = ((settle s t).pkg.pwrGood &&
      (!(settle s t).pkg.holding.isEmpty || !(settle s t).pkg.alertStatus.isEmpty)) := rfl

/-- Every command leaves the invariant, whatever it found. -/
theorem settle_inv (s t : State) : Inv (settle s t) := ⟨settle_log_length s t, settle_alert s t⟩

theorem settle_keeps_eq {α : Type} (φ : State → α) (hc : ∀ k st ws s, φ (complete k st ws s) = φ s)
    (hf : ∀ f g s, φ (setFn f g s) = φ s) (he : ∀ o s, φ (emit o s) = φ s) (ha : ∀ s, φ (alertLine s) = φ s)
    (ht : ∀ s, φ (trimLog s) = φ s) (s t : State) : φ (settle s t) = φ t :=
  settle_keeps (fun u => φ u = φ t) (fun k st ws s h => (hc k st ws s).trans h) (fun f g s _ h => (hf f g s).trans h)
    (fun o s h => (he o s).trans h) (fun s h => (ha s).trans h) (fun s h => (ht s).trans h) s t rfl

/-! ### What completing and settling leave alone -/

@[simp] theorem complete_pending (src : Src) (st : Nat) (ws : List Nat) (s : State) : (complete src st ws s).pending = s.pending := by
  cases h : src.issuer <;> simp [complete, h]
@[simp] theorem complete_now (src : Src) (st : Nat) (ws : List Nat) (s : State) : (complete src st ws s).now = s.now := by
  cases h : src.issuer <;> simp [complete, h]
@[simp] theorem complete_freeCtr (src : Src) (st : Nat) (ws : List Nat) (s : State) : (complete src st ws s).freeCtr = s.freeCtr := by
  cases h : src.issuer <;> simp [complete, h]
@[simp] theorem complete_dbg (src : Src) (st : Nat) (ws : List Nat) (s : State) : (complete src st ws s).dbg = s.dbg := by
  cases h : src.issuer <;> simp [complete, h]
@[simp] theorem complete_pkg (src : Src) (st : Nat) (ws : List Nat) (s : State) : (complete src st ws s).pkg = s.pkg := by
  cases h : src.issuer <;> simp [complete, h]
@[simp] theorem complete_pwr (src : Src) (st : Nat) (ws : List Nat) (s : State) : (complete src st ws s).pwr = s.pwr := by
  cases h : src.issuer <;> simp [complete, h]
@[simp] theorem complete_mem (src : Src) (st : Nat) (ws : List Nat) (s : State) : (complete src st ws s).mem = s.mem := by
  cases h : src.issuer <;> simp [complete, h]
@[simp] theorem complete_mq (src : Src) (st : Nat) (ws : List Nat) (s : State) : (complete src st ws s).mq = s.mq := by
  cases h : src.issuer <;> simp [complete, h]
@[simp] theorem complete_vnr (src : Src) (st : Nat) (ws : List Nat) (s : State) : (complete src st ws s).vnr = s.vnr := by
  cases h : src.issuer <;> simp [complete, h]
@[simp] theorem complete_jig (src : Src) (st : Nat) (ws : List Nat) (s : State) : (complete src st ws s).jig = s.jig := by
  cases h : src.issuer <;> simp [complete, h]
@[simp] theorem complete_tile (src : Src) (st : Nat) (ws : List Nat) (s : State) : (complete src st ws s).tile = s.tile := by
  cases h : src.issuer <;> simp [complete, h]
@[simp] theorem complete_glu (src : Src) (st : Nat) (ws : List Nat) (s : State) : (complete src st ws s).glu = s.glu := by
  cases h : src.issuer <;> simp [complete, h]
@[simp] theorem complete_dvl (src : Src) (st : Nat) (ws : List Nat) (s : State) : (complete src st ws s).dvl = s.dvl := by
  cases h : src.issuer <;> simp [complete, h]
@[simp] theorem complete_ckp (src : Src) (st : Nat) (ws : List Nat) (s : State) : (complete src st ws s).ckp = s.ckp := by
  cases h : src.issuer <;> simp [complete, h]
@[simp] theorem complete_host_links (src : Src) (st : Nat) (ws : List Nat) (s : State) : (complete src st ws s).host.links = s.host.links := by
  cases h : src.issuer <;> simp [complete, h, setPair, setFn]
@[simp] theorem complete_host_ownerPf (src : Src) (st : Nat) (ws : List Nat) (s : State) : (complete src st ws s).host.ownerPf = s.host.ownerPf := by
  cases h : src.issuer <;> simp [complete, h, setPair, setFn]
@[simp] theorem complete_host_ready (src : Src) (st : Nat) (ws : List Nat) (s : State) : (complete src st ws s).host.ready = s.host.ready := by
  cases h : src.issuer <;> simp [complete, h, setPair, setFn]
@[simp] theorem complete_host_fwVersion (src : Src) (st : Nat) (ws : List Nat) (s : State) : (complete src st ws s).host.fwVersion = s.host.fwVersion := by
  cases h : src.issuer <;> simp [complete, h, setPair, setFn]
@[simp] theorem complete_host_fwAct (src : Src) (st : Nat) (ws : List Nat) (s : State) : (complete src st ws s).host.fwAct = s.host.fwAct := by
  cases h : src.issuer <;> simp [complete, h, setPair, setFn]
@[simp] theorem complete_host_fwCommitted (src : Src) (st : Nat) (ws : List Nat) (s : State) : (complete src st ws s).host.fwCommitted = s.host.fwCommitted := by
  cases h : src.issuer <;> simp [complete, h, setPair, setFn]
@[simp] theorem settle_pending (s t : State) : (settle s t).pending = t.pending :=
  settle_keeps_eq (fun u => u.pending) (by simp) (by simp [setFn]) (by simp [emit]) (by simp [alertLine]) (by simp [trimLog]) s t
@[simp] theorem settle_now (s t : State) : (settle s t).now = t.now :=
  settle_keeps_eq (fun u => u.now) (by simp) (by simp [setFn]) (by simp [emit]) (by simp [alertLine]) (by simp [trimLog]) s t
@[simp] theorem settle_freeCtr (s t : State) : (settle s t).freeCtr = t.freeCtr :=
  settle_keeps_eq (fun u => u.freeCtr) (by simp) (by simp [setFn]) (by simp [emit]) (by simp [alertLine]) (by simp [trimLog]) s t
@[simp] theorem settle_pwr (s t : State) : (settle s t).pwr = t.pwr :=
  settle_keeps_eq (fun u => u.pwr) (by simp) (by simp [setFn]) (by simp [emit]) (by simp [alertLine]) (by simp [trimLog]) s t
@[simp] theorem settle_mem (s t : State) : (settle s t).mem = t.mem :=
  settle_keeps_eq (fun u => u.mem) (by simp) (by simp [setFn]) (by simp [emit]) (by simp [alertLine]) (by simp [trimLog]) s t
@[simp] theorem settle_mq (s t : State) : (settle s t).mq = t.mq :=
  settle_keeps_eq (fun u => u.mq) (by simp) (by simp [setFn]) (by simp [emit]) (by simp [alertLine]) (by simp [trimLog]) s t
@[simp] theorem settle_vnr (s t : State) : (settle s t).vnr = t.vnr :=
  settle_keeps_eq (fun u => u.vnr) (by simp) (by simp [setFn]) (by simp [emit]) (by simp [alertLine]) (by simp [trimLog]) s t
@[simp] theorem settle_jig (s t : State) : (settle s t).jig = t.jig :=
  settle_keeps_eq (fun u => u.jig) (by simp) (by simp [setFn]) (by simp [emit]) (by simp [alertLine]) (by simp [trimLog]) s t
@[simp] theorem settle_tile (s t : State) : (settle s t).tile = t.tile :=
  settle_keeps_eq (fun u => u.tile) (by simp) (by simp [setFn]) (by simp [emit]) (by simp [alertLine]) (by simp [trimLog]) s t
@[simp] theorem settle_glu (s t : State) : (settle s t).glu = t.glu :=
  settle_keeps_eq (fun u => u.glu) (by simp) (by simp [setFn]) (by simp [emit]) (by simp [alertLine]) (by simp [trimLog]) s t
@[simp] theorem settle_dvl (s t : State) : (settle s t).dvl = t.dvl :=
  settle_keeps_eq (fun u => u.dvl) (by simp) (by simp [setFn]) (by simp [emit]) (by simp [alertLine]) (by simp [trimLog]) s t
@[simp] theorem settle_ckp (s t : State) : (settle s t).ckp = t.ckp :=
  settle_keeps_eq (fun u => u.ckp) (by simp) (by simp [setFn]) (by simp [emit]) (by simp [alertLine]) (by simp [trimLog]) s t
@[simp] theorem settle_host_links (s t : State) : (settle s t).host.links = t.host.links :=
  settle_keeps_eq (fun u => u.host.links) (by simp) (by simp [setFn]) (by simp [emit]) (by simp [alertLine]) (by simp [trimLog]) s t
@[simp] theorem settle_host_ownerPf (s t : State) : (settle s t).host.ownerPf = t.host.ownerPf :=
  settle_keeps_eq (fun u => u.host.ownerPf) (by simp) (by simp [setFn]) (by simp [emit]) (by simp [alertLine]) (by simp [trimLog]) s t
@[simp] theorem settle_host_ready (s t : State) : (settle s t).host.ready = t.host.ready :=
  settle_keeps_eq (fun u => u.host.ready) (by simp) (by simp [setFn]) (by simp [emit]) (by simp [alertLine]) (by simp [trimLog]) s t
@[simp] theorem settle_host_fwVersion (s t : State) : (settle s t).host.fwVersion = t.host.fwVersion :=
  settle_keeps_eq (fun u => u.host.fwVersion) (by simp) (by simp [setFn]) (by simp [emit]) (by simp [alertLine]) (by simp [trimLog]) s t
@[simp] theorem settle_host_fwAct (s t : State) : (settle s t).host.fwAct = t.host.fwAct :=
  settle_keeps_eq (fun u => u.host.fwAct) (by simp) (by simp [setFn]) (by simp [emit]) (by simp [alertLine]) (by simp [trimLog]) s t
@[simp] theorem settle_host_fwCommitted (s t : State) : (settle s t).host.fwCommitted = t.host.fwCommitted :=
  settle_keeps_eq (fun u => u.host.fwCommitted) (by simp) (by simp [setFn]) (by simp [emit]) (by simp [alertLine]) (by simp [trimLog]) s t
@[simp] theorem settle_dbg_events (s t : State) : (settle s t).dbg.events = t.dbg.events :=
  settle_keeps_eq (fun u => u.dbg.events) (by simp) (by simp [setFn]) (by simp [emit]) (by simp [alertLine]) (by simp [trimLog]) s t
@[simp] theorem settle_dbg_nextSeq (s t : State) : (settle s t).dbg.nextSeq = t.dbg.nextSeq :=
  settle_keeps_eq (fun u => u.dbg.nextSeq) (by simp) (by simp [setFn]) (by simp [emit]) (by simp [alertLine]) (by simp [trimLog]) s t
@[simp] theorem settle_dbg_lastLog (s t : State) : (settle s t).dbg.lastLog = t.dbg.lastLog :=
  settle_keeps_eq (fun u => u.dbg.lastLog) (by simp) (by simp [setFn]) (by simp [emit]) (by simp [alertLine]) (by simp [trimLog]) s t
@[simp] theorem settle_dbg_live (s t : State) : (settle s t).dbg.live = t.dbg.live :=
  settle_keeps_eq (fun u => u.dbg.live) (by simp) (by simp [setFn]) (by simp [emit]) (by simp [alertLine]) (by simp [trimLog]) s t
@[simp] theorem settle_dbg_saved (s t : State) : (settle s t).dbg.saved = t.dbg.saved :=
  settle_keeps_eq (fun u => u.dbg.saved) (by simp) (by simp [setFn]) (by simp [emit]) (by simp [alertLine]) (by simp [trimLog]) s t
@[simp] theorem settle_dbg_summaryDue (s t : State) : (settle s t).dbg.summaryDue = t.dbg.summaryDue :=
  settle_keeps_eq (fun u => u.dbg.summaryDue) (by simp) (by simp [setFn]) (by simp [emit]) (by simp [alertLine]) (by simp [trimLog]) s t
@[simp] theorem settle_dbg_summarySeq (s t : State) : (settle s t).dbg.summarySeq = t.dbg.summarySeq :=
  settle_keeps_eq (fun u => u.dbg.summarySeq) (by simp) (by simp [setFn]) (by simp [emit]) (by simp [alertLine]) (by simp [trimLog]) s t
@[simp] theorem settle_dbg_lastSummary (s t : State) : (settle s t).dbg.lastSummary = t.dbg.lastSummary :=
  settle_keeps_eq (fun u => u.dbg.lastSummary) (by simp) (by simp [setFn]) (by simp [emit]) (by simp [alertLine]) (by simp [trimLog]) s t
@[simp] theorem settle_dbg_lanes (s t : State) : (settle s t).dbg.lanes = t.dbg.lanes :=
  settle_keeps_eq (fun u => u.dbg.lanes) (by simp) (by simp [setFn]) (by simp [emit]) (by simp [alertLine]) (by simp [trimLog]) s t
@[simp] theorem settle_dbg_laneErrs (s t : State) : (settle s t).dbg.laneErrs = t.dbg.laneErrs :=
  settle_keeps_eq (fun u => u.dbg.laneErrs) (by simp) (by simp [setFn]) (by simp [emit]) (by simp [alertLine]) (by simp [trimLog]) s t
@[simp] theorem settle_pkg_pwrGood (s t : State) : (settle s t).pkg.pwrGood = t.pkg.pwrGood :=
  settle_keeps_eq (fun u => u.pkg.pwrGood) (by simp) (by simp [setFn]) (by simp [emit]) (by simp [alertLine]) (by simp [trimLog]) s t
@[simp] theorem settle_pkg_aonValid (s t : State) : (settle s t).pkg.aonValid = t.pkg.aonValid :=
  settle_keeps_eq (fun u => u.pkg.aonValid) (by simp) (by simp [setFn]) (by simp [emit]) (by simp [alertLine]) (by simp [trimLog]) s t
@[simp] theorem settle_pkg_uvArmed (s t : State) : (settle s t).pkg.uvArmed = t.pkg.uvArmed :=
  settle_keeps_eq (fun u => u.pkg.uvArmed) (by simp) (by simp [setFn]) (by simp [emit]) (by simp [alertLine]) (by simp [trimLog]) s t
@[simp] theorem settle_pkg_emergOffLow (s t : State) : (settle s t).pkg.emergOffLow = t.pkg.emergOffLow :=
  settle_keeps_eq (fun u => u.pkg.emergOffLow) (by simp) (by simp [setFn]) (by simp [emit]) (by simp [alertLine]) (by simp [trimLog]) s t
@[simp] theorem settle_pkg_leakWet (s t : State) : (settle s t).pkg.leakWet = t.pkg.leakWet :=
  settle_keeps_eq (fun u => u.pkg.leakWet) (by simp) (by simp [setFn]) (by simp [emit]) (by simp [alertLine]) (by simp [trimLog]) s t
@[simp] theorem settle_pkg_rails (s t : State) : (settle s t).pkg.rails = t.pkg.rails :=
  settle_keeps_eq (fun u => u.pkg.rails) (by simp) (by simp [setFn]) (by simp [emit]) (by simp [alertLine]) (by simp [trimLog]) s t
@[simp] theorem settle_pkg_holding (s t : State) : (settle s t).pkg.holding = t.pkg.holding :=
  settle_keeps_eq (fun u => u.pkg.holding) (by simp) (by simp [setFn]) (by simp [emit]) (by simp [alertLine]) (by simp [trimLog]) s t
@[simp] theorem settle_pkg_alertStatus (s t : State) : (settle s t).pkg.alertStatus = t.pkg.alertStatus :=
  settle_keeps_eq (fun u => u.pkg.alertStatus) (by simp) (by simp [setFn]) (by simp [emit]) (by simp [alertLine]) (by simp [trimLog]) s t
@[simp] theorem settle_pkg_latches (s t : State) : (settle s t).pkg.latches = t.pkg.latches :=
  settle_keeps_eq (fun u => u.pkg.latches) (by simp) (by simp [setFn]) (by simp [emit]) (by simp [alertLine]) (by simp [trimLog]) s t
@[simp] theorem settle_pkg_causesDue (s t : State) : (settle s t).pkg.causesDue = t.pkg.causesDue :=
  settle_keeps_eq (fun u => u.pkg.causesDue) (by simp) (by simp [setFn]) (by simp [emit]) (by simp [alertLine]) (by simp [trimLog]) s t
@[simp] theorem settle_pkg_resetDue (s t : State) : (settle s t).pkg.resetDue = t.pkg.resetDue :=
  settle_keeps_eq (fun u => u.pkg.resetDue) (by simp) (by simp [setFn]) (by simp [emit]) (by simp [alertLine]) (by simp [trimLog]) s t
@[simp] theorem settle_pkg_flowOk (s t : State) : (settle s t).pkg.flowOk = t.pkg.flowOk :=
  settle_keeps_eq (fun u => u.pkg.flowOk) (by simp) (by simp [setFn]) (by simp [emit]) (by simp [alertLine]) (by simp [trimLog]) s t
@[simp] theorem settle_pkg_selfTested (s t : State) : (settle s t).pkg.selfTested = t.pkg.selfTested :=
  settle_keeps_eq (fun u => u.pkg.selfTested) (by simp) (by simp [setFn]) (by simp [emit]) (by simp [alertLine]) (by simp [trimLog]) s t
@[simp] theorem settle_pkg_i3cAddr (s t : State) : (settle s t).pkg.i3cAddr = t.pkg.i3cAddr :=
  settle_keeps_eq (fun u => u.pkg.i3cAddr) (by simp) (by simp [setFn]) (by simp [emit]) (by simp [alertLine]) (by simp [trimLog]) s t
@[simp] theorem settle_pkg_hdrIgnore (s t : State) : (settle s t).pkg.hdrIgnore = t.pkg.hdrIgnore :=
  settle_keeps_eq (fun u => u.pkg.hdrIgnore) (by simp) (by simp [setFn]) (by simp [emit]) (by simp [alertLine]) (by simp [trimLog]) s t
@[simp] theorem settle_pkg_eid (s t : State) : (settle s t).pkg.eid = t.pkg.eid :=
  settle_keeps_eq (fun u => u.pkg.eid) (by simp) (by simp [setFn]) (by simp [emit]) (by simp [alertLine]) (by simp [trimLog]) s t
@[simp] theorem settle_pkg_eventReceiver (s t : State) : (settle s t).pkg.eventReceiver = t.pkg.eventReceiver :=
  settle_keeps_eq (fun u => u.pkg.eventReceiver) (by simp) (by simp [setFn]) (by simp [emit]) (by simp [alertLine]) (by simp [trimLog]) s t
@[simp] theorem settle_pkg_ibiQueue (s t : State) : (settle s t).pkg.ibiQueue = t.pkg.ibiQueue :=
  settle_keeps_eq (fun u => u.pkg.ibiQueue) (by simp) (by simp [setFn]) (by simp [emit]) (by simp [alertLine]) (by simp [trimLog]) s t

theorem settle_log (s t : State) : (settle s t).dbg.log = t.dbg.log.take 4096 := by
  have h : ∀ (l : List LogRec) (t : State), (l.foldl (fun t r => deliver r t) t).dbg.log = t.dbg.log := by
    intro l
    induction l with
    | nil => exact fun _ => rfl
    | cons r l ih =>
      intro t
      rw [List.foldl_cons, ih]
      exact deliver_keeps (fun u => u.dbg.log = t.dbg.log) (fun k st ws s h => by simpa using h)
        (fun _ _ _ _ h => h) (fun _ _ h => h) r t rfl
  simp only [settle, trimLog, alertLine, h]

/-! ### The log -/

theorem splitDetail_ne_nil (off : Nat) (acc d : List (Nat × Nat)) : splitDetail off acc d ≠ [] := by
  induction d generalizing off acc with
  | nil => simp [splitDetail]
  | cons e r ih =>
    obtain ⟨w, v⟩ := e
    simp only [splitDetail]
    split
    · exact ih _ _
    · simp

/-- An entry puts its own record on top of the log, with a number not used before. -/
theorem logEntry_head (e : Ev) (s : State) :
    ∃ r l, (logEntry e s).dbg.log = r :: l ∧ r.code = e.code ∧ s.dbg.nextSeq ≤ r.seq := by
  have hne : (entryRecs s e).reverse ≠ [] := by
    simp [entryRecs, splitDetail_ne_nil]
  obtain ⟨r, l, hr⟩ := List.exists_cons_of_ne_nil hne
  have hm : r ∈ entryRecs s e := by
    have : r ∈ (entryRecs s e).reverse := by simp [hr]
    simpa using this
  have h3 : r.code = e.code ∧ s.dbg.nextSeq ≤ r.seq := by
    simp only [entryRecs, List.mem_mapIdx] at hm
    obtain ⟨i, hi, rfl⟩ := hm
    simp [mkRec]
  refine ⟨r, (l ++ s.dbg.log).take 4095, ?_, h3⟩
  simp [logEntry, hr]

theorem logs_of_head {code : Nat} {s t : State} (v : State)
    (h : ∃ r l, t.dbg.log = r :: l ∧ r.code = code ∧ s.dbg.nextSeq ≤ r.seq) : Logs code s (settle v t) := by
  obtain ⟨r, l, hl, hc, hs⟩ := h
  exact ⟨r, by simp [settle_log, hl], hc, hs⟩

@[simp] theorem setEvent_log (code : Nat) (s : State) : (setEvent code s).dbg.log = s.dbg.log := by simp

/-- Raising an event logs it (R433, R436). -/
theorem logs_raise {s u : State} (v : State) (e : Ev) (h : s.dbg.nextSeq ≤ u.dbg.nextSeq) :
    Logs e.code s (settle v (raise e u)) := by
  obtain ⟨r, l, hl, hc, hs⟩ := logEntry_head e u
  exact logs_of_head v ⟨r, l, by simpa [raise] using hl, hc, Nat.le_trans h hs⟩

/-! ### Starting a command -/

@[simp] theorem enlist_pending (i : CmdInfo) (s : State) : (enlist i s).pending = s.pending := by
  unfold enlist; split <;> rfl
@[simp] theorem enlist_now (i : CmdInfo) (s : State) : (enlist i s).now = s.now := by
  unfold enlist; split <;> rfl
@[simp] theorem enlist_freeCtr (i : CmdInfo) (s : State) : (enlist i s).freeCtr = s.freeCtr := by
  unfold enlist; split <;> rfl
@[simp] theorem enlist_dbg (i : CmdInfo) (s : State) : (enlist i s).dbg = s.dbg := by
  unfold enlist; split <;> rfl
@[simp] theorem enlist_pkg (i : CmdInfo) (s : State) : (enlist i s).pkg = s.pkg := by
  unfold enlist; split <;> rfl
@[simp] theorem enlist_pwr (i : CmdInfo) (s : State) : (enlist i s).pwr = s.pwr := by
  unfold enlist; split <;> rfl
@[simp] theorem enlist_mem (i : CmdInfo) (s : State) : (enlist i s).mem = s.mem := by
  unfold enlist; split <;> rfl
@[simp] theorem enlist_mq (i : CmdInfo) (s : State) : (enlist i s).mq = s.mq := by
  unfold enlist; split <;> rfl
@[simp] theorem enlist_vnr (i : CmdInfo) (s : State) : (enlist i s).vnr = s.vnr := by
  unfold enlist; split <;> rfl
@[simp] theorem enlist_jig (i : CmdInfo) (s : State) : (enlist i s).jig = s.jig := by
  unfold enlist; split <;> rfl
@[simp] theorem enlist_tile (i : CmdInfo) (s : State) : (enlist i s).tile = s.tile := by
  unfold enlist; split <;> rfl
@[simp] theorem enlist_glu (i : CmdInfo) (s : State) : (enlist i s).glu = s.glu := by
  unfold enlist; split <;> rfl
@[simp] theorem enlist_dvl (i : CmdInfo) (s : State) : (enlist i s).dvl = s.dvl := by
  unfold enlist; split <;> rfl
@[simp] theorem enlist_ckp (i : CmdInfo) (s : State) : (enlist i s).ckp = s.ckp := by
  unfold enlist; split <;> rfl
@[simp] theorem enlist_out (i : CmdInfo) (s : State) : (enlist i s).out = s.out := by
  unfold enlist; split <;> rfl
@[simp] theorem enlist_host_links (i : CmdInfo) (s : State) : (enlist i s).host.links = s.host.links := by
  unfold enlist; split <;> rfl
@[simp] theorem enlist_host_ownerPf (i : CmdInfo) (s : State) : (enlist i s).host.ownerPf = s.host.ownerPf := by
  unfold enlist; split <;> rfl
@[simp] theorem enlist_host_ready (i : CmdInfo) (s : State) : (enlist i s).host.ready = s.host.ready := by
  unfold enlist; split <;> rfl
@[simp] theorem enlist_host_fwVersion (i : CmdInfo) (s : State) : (enlist i s).host.fwVersion = s.host.fwVersion := by
  unfold enlist; split <;> rfl
@[simp] theorem enlist_host_fwAct (i : CmdInfo) (s : State) : (enlist i s).host.fwAct = s.host.fwAct := by
  unfold enlist; split <;> rfl
@[simp] theorem enlist_host_fwCommitted (i : CmdInfo) (s : State) : (enlist i s).host.fwCommitted = s.host.fwCommitted := by
  unfold enlist; split <;> rfl

/-- A command that starts runs its body on the state that lists it (R394, R398). -/
theorem start_run {i : CmdInfo} {s : State} (h : Starts i s) (body : State → State) :
    start i body s = body (enlist i s) := by simp [start, h.1, h.2]

/-- A command that is turned away is answered with the status of the check, and its body does not run. -/
theorem start_turned {i : CmdInfo} {s : State} {st : Nat} (h1 : mustHold i (enlist i s) = false)
    (h2 : turnedAway i (enlist i s) = some st) (body : State → State) :
    start i body s = complete i.src st [] (enlist i s) := by simp [start, h1, h2]

/-- A command that must wait is listed and does nothing else. -/
theorem start_held {i : CmdInfo} {s : State} (h : mustHold i (enlist i s) = true) (body : State → State) :
    start i body s = await i.src .held (enlist i s) := by simp [start, h]

@[simp] theorem complete_freshFns (src : Src) (st : Nat) (ws : List Nat) (s : State) (h : src.issuer = .sideband) :
    (complete src st ws s).host.fns = s.host.fns := by rw [complete_sideband h]

/-! ### Functions across a settling -/

/-- A pair without the completions that wait for its completion ring. -/
def ringOf (q : Pair) : Pair := { q with held := [] }

theorem rings_setPair_held (f p : Nat) (h : List Completion → List Completion) (s : State) (j q : Nat) :
    (pairOf (setPair f p (fun x => { x with held := h x.held }) s) j q).map ringOf = (pairOf s j q).map ringOf := by
  rw [pairOf_setPair]
  split
  · rw [Option.map_map]; rfl
  · rfl

@[simp] theorem rings_complete (k : Src) (st : Nat) (ws : List Nat) (s : State) (j q : Nat) :
    (pairOf (complete k st ws s) j q).map ringOf = (pairOf s j q).map ringOf := by
  cases h : k.issuer with
  | sideband => rw [complete_sideband h]; rfl
  | fn f p => rw [complete_fn h]; exact rings_setPair_held f p (· ++ _) _ j q

/-- A ring pair's base, sizes, heads, tails and phase stay as the command left them. -/
@[simp] theorem rings_settle (s t : State) (j q : Nat) :
    (pairOf (settle s t) j q).map ringOf = (pairOf t j q).map ringOf :=
  settle_keeps (fun u => (pairOf u j q).map ringOf = (pairOf t j q).map ringOf)
    (fun k st ws s h => (rings_complete k st ws s j q).trans h)
    (fun f g s hg h => by rw [pairOf_setFn_pairs f q g s (delivered_pairs (hg _))]; exact h)
    (fun _ _ h => h) (fun _ h => h) (fun _ h => h) s t rfl

theorem fnOf_complete {α : Type} (φ : FnSt → α) (hφ : ∀ x l, φ { x with pairs := l } = φ x) (k : Src) (st : Nat)
    (ws : List Nat) (s : State) (j : Nat) : φ (fnOf (complete k st ws s) j) = φ (fnOf s j) := by
  cases h : k.issuer with
  | sideband => rw [complete_sideband h]; rfl
  | fn f p =>
    rw [complete_fn h]
    by_cases hf : f.val = j
    · subst hf; simp only [setPair, fnOf_setFn_same, hφ]; rfl
    · rw [setPair, fnOf_setFn_other _ _ hf]; rfl

/-- What a function holds beside its held events, its wake latch and its pairs stays as the command left it. -/
theorem fnOf_settle {α : Type} (φ : FnSt → α) (hp : ∀ x l, φ { x with pairs := l } = φ x)
    (hd : ∀ x e o w p, φ { x with evtHeld := e, ovfl := o, wakeCause := w, wakePending := p } = φ x) (s t : State) (j : Nat) : φ (fnOf (settle s t) j) = φ (fnOf t j) :=
  settle_keeps (fun u => φ (fnOf u j) = φ (fnOf t j)) (fun k st ws s h => (fnOf_complete φ hp k st ws s j).trans h)
    (fun f g s hg h => by
      by_cases hf : f = j
      · subst hf; rw [fnOf_setFn_same]; exact (delivered_field φ hd (hg _)).trans h
      · rw [fnOf_setFn_other g s hf]; exact h)
    (fun _ _ h => h) (fun _ h => h) (fun _ h => h) s t rfl

@[simp] theorem fnOf_settle_quarantine (s t : State) (j : Nat) : (fnOf (settle s t) j).quarantine = (fnOf t j).quarantine :=
  fnOf_settle FnSt.quarantine (fun _ _ => rfl) (fun _ _ _ _ _ => rfl) s t j
@[simp] theorem fnOf_complete_quarantine (k : Src) (st : Nat) (ws : List Nat) (s : State) (j : Nat) :
    (fnOf (complete k st ws s) j).quarantine = (fnOf s j).quarantine := fnOf_complete FnSt.quarantine (fun _ _ => rfl) k st ws s j
@[simp] theorem fnOf_settle_fatal (s t : State) (j : Nat) : (fnOf (settle s t) j).fatal = (fnOf t j).fatal :=
  fnOf_settle FnSt.fatal (fun _ _ => rfl) (fun _ _ _ _ _ => rfl) s t j
@[simp] theorem fnOf_complete_fatal (k : Src) (st : Nat) (ws : List Nat) (s : State) (j : Nat) :
    (fnOf (complete k st ws s) j).fatal = (fnOf s j).fatal := fnOf_complete FnSt.fatal (fun _ _ => rfl) k st ws s j
@[simp] theorem fnOf_settle_enable (s t : State) (j : Nat) : (fnOf (settle s t) j).enable = (fnOf t j).enable :=
  fnOf_settle FnSt.enable (fun _ _ => rfl) (fun _ _ _ _ _ => rfl) s t j
@[simp] theorem fnOf_complete_enable (k : Src) (st : Nat) (ws : List Nat) (s : State) (j : Nat) :
    (fnOf (complete k st ws s) j).enable = (fnOf s j).enable := fnOf_complete FnSt.enable (fun _ _ => rfl) k st ws s j
@[simp] theorem fnOf_settle_violCnt (s t : State) (j : Nat) : (fnOf (settle s t) j).violCnt = (fnOf t j).violCnt :=
  fnOf_settle FnSt.violCnt (fun _ _ => rfl) (fun _ _ _ _ _ => rfl) s t j
@[simp] theorem fnOf_complete_violCnt (k : Src) (st : Nat) (ws : List Nat) (s : State) (j : Nat) :
    (fnOf (complete k st ws s) j).violCnt = (fnOf s j).violCnt := fnOf_complete FnSt.violCnt (fun _ _ => rfl) k st ws s j
@[simp] theorem fnOf_settle_violTimes (s t : State) (j : Nat) : (fnOf (settle s t) j).violTimes = (fnOf t j).violTimes :=
  fnOf_settle FnSt.violTimes (fun _ _ => rfl) (fun _ _ _ _ _ => rfl) s t j
@[simp] theorem fnOf_complete_violTimes (k : Src) (st : Nat) (ws : List Nat) (s : State) (j : Nat) :
    (fnOf (complete k st ws s) j).violTimes = (fnOf s j).violTimes := fnOf_complete FnSt.violTimes (fun _ _ => rfl) k st ws s j
@[simp] theorem fnOf_settle_sq0Base (s t : State) (j : Nat) : (fnOf (settle s t) j).sq0Base = (fnOf t j).sq0Base :=
  fnOf_settle FnSt.sq0Base (fun _ _ => rfl) (fun _ _ _ _ _ => rfl) s t j
@[simp] theorem fnOf_complete_sq0Base (k : Src) (st : Nat) (ws : List Nat) (s : State) (j : Nat) :
    (fnOf (complete k st ws s) j).sq0Base = (fnOf s j).sq0Base := fnOf_complete FnSt.sq0Base (fun _ _ => rfl) k st ws s j
@[simp] theorem fnOf_settle_cq0Base (s t : State) (j : Nat) : (fnOf (settle s t) j).cq0Base = (fnOf t j).cq0Base :=
  fnOf_settle FnSt.cq0Base (fun _ _ => rfl) (fun _ _ _ _ _ => rfl) s t j
@[simp] theorem fnOf_complete_cq0Base (k : Src) (st : Nat) (ws : List Nat) (s : State) (j : Nat) :
    (fnOf (complete k st ws s) j).cq0Base = (fnOf s j).cq0Base := fnOf_complete FnSt.cq0Base (fun _ _ => rfl) k st ws s j
@[simp] theorem fnOf_settle_ring0Cfg (s t : State) (j : Nat) : (fnOf (settle s t) j).ring0Cfg = (fnOf t j).ring0Cfg :=
  fnOf_settle FnSt.ring0Cfg (fun _ _ => rfl) (fun _ _ _ _ _ => rfl) s t j
@[simp] theorem fnOf_complete_ring0Cfg (k : Src) (st : Nat) (ws : List Nat) (s : State) (j : Nat) :
    (fnOf (complete k st ws s) j).ring0Cfg = (fnOf s j).ring0Cfg := fnOf_complete FnSt.ring0Cfg (fun _ _ => rfl) k st ws s j
@[simp] theorem fnOf_settle_irqCoal (s t : State) (j : Nat) : (fnOf (settle s t) j).irqCoal = (fnOf t j).irqCoal :=
  fnOf_settle FnSt.irqCoal (fun _ _ => rfl) (fun _ _ _ _ _ => rfl) s t j
@[simp] theorem fnOf_complete_irqCoal (k : Src) (st : Nat) (ws : List Nat) (s : State) (j : Nat) :
    (fnOf (complete k st ws s) j).irqCoal = (fnOf s j).irqCoal := fnOf_complete FnSt.irqCoal (fun _ _ => rfl) k st ws s j
@[simp] theorem fnOf_settle_coalPend (s t : State) (j : Nat) : (fnOf (settle s t) j).coalPend = (fnOf t j).coalPend :=
  fnOf_settle FnSt.coalPend (fun _ _ => rfl) (fun _ _ _ _ _ => rfl) s t j
@[simp] theorem fnOf_complete_coalPend (k : Src) (st : Nat) (ws : List Nat) (s : State) (j : Nat) :
    (fnOf (complete k st ws s) j).coalPend = (fnOf s j).coalPend := fnOf_complete FnSt.coalPend (fun _ _ => rfl) k st ws s j
@[simp] theorem fnOf_settle_coalVectors (s t : State) (j : Nat) : (fnOf (settle s t) j).coalVectors = (fnOf t j).coalVectors :=
  fnOf_settle FnSt.coalVectors (fun _ _ => rfl) (fun _ _ _ _ _ => rfl) s t j
@[simp] theorem fnOf_complete_coalVectors (k : Src) (st : Nat) (ws : List Nat) (s : State) (j : Nat) :
    (fnOf (complete k st ws s) j).coalVectors = (fnOf s j).coalVectors := fnOf_complete FnSt.coalVectors (fun _ _ => rfl) k st ws s j
@[simp] theorem fnOf_settle_msixOn (s t : State) (j : Nat) : (fnOf (settle s t) j).msixOn = (fnOf t j).msixOn :=
  fnOf_settle FnSt.msixOn (fun _ _ => rfl) (fun _ _ _ _ _ => rfl) s t j
@[simp] theorem fnOf_complete_msixOn (k : Src) (st : Nat) (ws : List Nat) (s : State) (j : Nat) :
    (fnOf (complete k st ws s) j).msixOn = (fnOf s j).msixOn := fnOf_complete FnSt.msixOn (fun _ _ => rfl) k st ws s j
@[simp] theorem fnOf_settle_msixTable (s t : State) (j : Nat) : (fnOf (settle s t) j).msixTable = (fnOf t j).msixTable :=
  fnOf_settle FnSt.msixTable (fun _ _ => rfl) (fun _ _ _ _ _ => rfl) s t j
@[simp] theorem fnOf_complete_msixTable (k : Src) (st : Nat) (ws : List Nat) (s : State) (j : Nat) :
    (fnOf (complete k st ws s) j).msixTable = (fnOf s j).msixTable := fnOf_complete FnSt.msixTable (fun _ _ => rfl) k st ws s j
@[simp] theorem fnOf_settle_pba (s t : State) (j : Nat) : (fnOf (settle s t) j).pba = (fnOf t j).pba :=
  fnOf_settle FnSt.pba (fun _ _ => rfl) (fun _ _ _ _ _ => rfl) s t j
@[simp] theorem fnOf_complete_pba (k : Src) (st : Nat) (ws : List Nat) (s : State) (j : Nat) :
    (fnOf (complete k st ws s) j).pba = (fnOf s j).pba := fnOf_complete FnSt.pba (fun _ _ => rfl) k st ws s j
@[simp] theorem fnOf_settle_readLatch (s t : State) (j : Nat) : (fnOf (settle s t) j).readLatch = (fnOf t j).readLatch :=
  fnOf_settle FnSt.readLatch (fun _ _ => rfl) (fun _ _ _ _ _ => rfl) s t j
@[simp] theorem fnOf_complete_readLatch (k : Src) (st : Nat) (ws : List Nat) (s : State) (j : Nat) :
    (fnOf (complete k st ws s) j).readLatch = (fnOf s j).readLatch := fnOf_complete FnSt.readLatch (fun _ _ => rfl) k st ws s j
@[simp] theorem fnOf_settle_writeLatch (s t : State) (j : Nat) : (fnOf (settle s t) j).writeLatch = (fnOf t j).writeLatch :=
  fnOf_settle FnSt.writeLatch (fun _ _ => rfl) (fun _ _ _ _ _ => rfl) s t j
@[simp] theorem fnOf_complete_writeLatch (k : Src) (st : Nat) (ws : List Nat) (s : State) (j : Nat) :
    (fnOf (complete k st ws s) j).writeLatch = (fnOf s j).writeLatch := fnOf_complete FnSt.writeLatch (fun _ _ => rfl) k st ws s j
@[simp] theorem fnOf_settle_headLatch (s t : State) (j : Nat) : (fnOf (settle s t) j).headLatch = (fnOf t j).headLatch :=
  fnOf_settle FnSt.headLatch (fun _ _ => rfl) (fun _ _ _ _ _ => rfl) s t j
@[simp] theorem fnOf_complete_headLatch (k : Src) (st : Nat) (ws : List Nat) (s : State) (j : Nat) :
    (fnOf (complete k st ws s) j).headLatch = (fnOf s j).headLatch := fnOf_complete FnSt.headLatch (fun _ _ => rfl) k st ws s j
@[simp] theorem fnOf_settle_vnrSel (s t : State) (j : Nat) : (fnOf (settle s t) j).vnrSel = (fnOf t j).vnrSel :=
  fnOf_settle FnSt.vnrSel (fun _ _ => rfl) (fun _ _ _ _ _ => rfl) s t j
@[simp] theorem fnOf_complete_vnrSel (k : Src) (st : Nat) (ws : List Nat) (s : State) (j : Nat) :
    (fnOf (complete k st ws s) j).vnrSel = (fnOf s j).vnrSel := fnOf_complete FnSt.vnrSel (fun _ _ => rfl) k st ws s j
@[simp] theorem fnOf_settle_krfSel (s t : State) (j : Nat) : (fnOf (settle s t) j).krfSel = (fnOf t j).krfSel :=
  fnOf_settle FnSt.krfSel (fun _ _ => rfl) (fun _ _ _ _ _ => rfl) s t j
@[simp] theorem fnOf_complete_krfSel (k : Src) (st : Nat) (ws : List Nat) (s : State) (j : Nat) :
    (fnOf (complete k st ws s) j).krfSel = (fnOf s j).krfSel := fnOf_complete FnSt.krfSel (fun _ _ => rfl) k st ws s j
@[simp] theorem fnOf_settle_memSel (s t : State) (j : Nat) : (fnOf (settle s t) j).memSel = (fnOf t j).memSel :=
  fnOf_settle FnSt.memSel (fun _ _ => rfl) (fun _ _ _ _ _ => rfl) s t j
@[simp] theorem fnOf_complete_memSel (k : Src) (st : Nat) (ws : List Nat) (s : State) (j : Nat) :
    (fnOf (complete k st ws s) j).memSel = (fnOf s j).memSel := fnOf_complete FnSt.memSel (fun _ _ => rfl) k st ws s j
@[simp] theorem fnOf_settle_ckpSel (s t : State) (j : Nat) : (fnOf (settle s t) j).ckpSel = (fnOf t j).ckpSel :=
  fnOf_settle FnSt.ckpSel (fun _ _ => rfl) (fun _ _ _ _ _ => rfl) s t j
@[simp] theorem fnOf_complete_ckpSel (k : Src) (st : Nat) (ws : List Nat) (s : State) (j : Nat) :
    (fnOf (complete k st ws s) j).ckpSel = (fnOf s j).ckpSel := fnOf_complete FnSt.ckpSel (fun _ _ => rfl) k st ws s j
@[simp] theorem fnOf_settle_dstate (s t : State) (j : Nat) : (fnOf (settle s t) j).dstate = (fnOf t j).dstate :=
  fnOf_settle FnSt.dstate (fun _ _ => rfl) (fun _ _ _ _ _ => rfl) s t j
@[simp] theorem fnOf_complete_dstate (k : Src) (st : Nat) (ws : List Nat) (s : State) (j : Nat) :
    (fnOf (complete k st ws s) j).dstate = (fnOf s j).dstate := fnOf_complete FnSt.dstate (fun _ _ => rfl) k st ws s j
@[simp] theorem fnOf_settle_pmeOn (s t : State) (j : Nat) : (fnOf (settle s t) j).pmeOn = (fnOf t j).pmeOn :=
  fnOf_settle FnSt.pmeOn (fun _ _ => rfl) (fun _ _ _ _ _ => rfl) s t j
@[simp] theorem fnOf_complete_pmeOn (k : Src) (st : Nat) (ws : List Nat) (s : State) (j : Nat) :
    (fnOf (complete k st ws s) j).pmeOn = (fnOf s j).pmeOn := fnOf_complete FnSt.pmeOn (fun _ _ => rfl) k st ws s j
@[simp] theorem fnOf_settle_maxCtx (s t : State) (j : Nat) : (fnOf (settle s t) j).maxCtx = (fnOf t j).maxCtx :=
  fnOf_settle FnSt.maxCtx (fun _ _ => rfl) (fun _ _ _ _ _ => rfl) s t j
@[simp] theorem fnOf_complete_maxCtx (k : Src) (st : Nat) (ws : List Nat) (s : State) (j : Nat) :
    (fnOf (complete k st ws s) j).maxCtx = (fnOf s j).maxCtx := fnOf_complete FnSt.maxCtx (fun _ _ => rfl) k st ws s j
@[simp] theorem fnOf_settle_permille (s t : State) (j : Nat) : (fnOf (settle s t) j).permille = (fnOf t j).permille :=
  fnOf_settle FnSt.permille (fun _ _ => rfl) (fun _ _ _ _ _ => rfl) s t j
@[simp] theorem fnOf_complete_permille (k : Src) (st : Nat) (ws : List Nat) (s : State) (j : Nat) :
    (fnOf (complete k st ws s) j).permille = (fnOf s j).permille := fnOf_complete FnSt.permille (fun _ _ => rfl) k st ws s j

theorem grows_enlist (i : CmdInfo) (s : State) : Grows s (enlist i s) := grows_of (by simp) ⟨[], by simp⟩

/-- A command that answers at its start is answered at its end. -/
theorem answered_start {i : CmdInfo} {s : State} (src : Src) (st : Nat) (ws : List Nat) {u : State} (v : State)
    (h : Grows (enlist i s) u) : Answered src st ws s (settle v (complete src st ws u)) :=
  answered_settle v (answered_complete src st ws (grows_trans (grows_enlist i s) h))

/-! ### Records across completing and settling -/

@[simp] theorem ctxOf_settle (s t : State) (i : Nat) : ctxOf (settle s t) i = ctxOf t i := by simp [ctxOf]
@[simp] theorem ctxOf_complete (k : Src) (st : Nat) (ws : List Nat) (s : State) (i : Nat) :
    ctxOf (complete k st ws s) i = ctxOf s i := by simp [ctxOf]
@[simp] theorem ctxOf_enlist (c : CmdInfo) (s : State) (i : Nat) : ctxOf (enlist c s) i = ctxOf s i := by simp [ctxOf]
@[simp] theorem tileOf_settle (s t : State) (i : Nat) : tileOf (settle s t) i = tileOf t i := by simp [tileOf]
@[simp] theorem tileOf_complete (k : Src) (st : Nat) (ws : List Nat) (s : State) (i : Nat) :
    tileOf (complete k st ws s) i = tileOf s i := by simp [tileOf]
@[simp] theorem tileOf_enlist (c : CmdInfo) (s : State) (i : Nat) : tileOf (enlist c s) i = tileOf s i := by simp [tileOf]
@[simp] theorem portOf_settle (s t : State) (i : Nat) : portOf (settle s t) i = portOf t i := by simp [portOf]
@[simp] theorem portOf_complete (k : Src) (st : Nat) (ws : List Nat) (s : State) (i : Nat) :
    portOf (complete k st ws s) i = portOf s i := by simp [portOf]
@[simp] theorem portOf_enlist (c : CmdInfo) (s : State) (i : Nat) : portOf (enlist c s) i = portOf s i := by simp [portOf]
@[simp] theorem queueOf_settle (s t : State) (i : Nat) : queueOf (settle s t) i = queueOf t i := by simp [queueOf]
@[simp] theorem queueOf_complete (k : Src) (st : Nat) (ws : List Nat) (s : State) (i : Nat) :
    queueOf (complete k st ws s) i = queueOf s i := by simp [queueOf]
@[simp] theorem queueOf_enlist (c : CmdInfo) (s : State) (i : Nat) : queueOf (enlist c s) i = queueOf s i := by simp [queueOf]
@[simp] theorem bindOf_settle (s t : State) (i : Nat) : bindOf (settle s t) i = bindOf t i := by simp [bindOf]
@[simp] theorem bindOf_complete (k : Src) (st : Nat) (ws : List Nat) (s : State) (i : Nat) :
    bindOf (complete k st ws s) i = bindOf s i := by simp [bindOf]
@[simp] theorem bindOf_enlist (c : CmdInfo) (s : State) (i : Nat) : bindOf (enlist c s) i = bindOf s i := by simp [bindOf]
@[simp] theorem jobOf_settle (s t : State) (i : Nat) : jobOf (settle s t) i = jobOf t i := by simp [jobOf]
@[simp] theorem jobOf_complete (k : Src) (st : Nat) (ws : List Nat) (s : State) (i : Nat) :
    jobOf (complete k st ws s) i = jobOf s i := by simp [jobOf]
@[simp] theorem jobOf_enlist (c : CmdInfo) (s : State) (i : Nat) : jobOf (enlist c s) i = jobOf s i := by simp [jobOf]
@[simp] theorem fnOf_enlist (c : CmdInfo) (s : State) (i : Nat) : fnOf (enlist c s) i = fnOf s i := by simp [fnOf]
@[simp] theorem pairOf_enlist (c : CmdInfo) (s : State) (i j : Nat) : pairOf (enlist c s) i j = pairOf s i j := by simp [pairOf]

/-! ### Violations -/

theorem ite_cases {α : Sort _} {P : α → Prop} {c : Prop} [Decidable c] {a b : α} (ha : P a) (hb : P b) :
    P (if c then a else b) := by split <;> assumption

theorem unitsKept_refl (s : State) : UnitsKept s s := by simp [UnitsKept]

theorem unitsKept_trans {s t u : State} (h1 : UnitsKept s t) (h2 : UnitsKept t u) : UnitsKept s u := by
  unfold UnitsKept at *; simp [*]

theorem unitsKept_settle {s t : State} (v : State) (h : UnitsKept s t) : UnitsKept s (settle v t) := by
  simpa [UnitsKept] using h

/-- Code 0x01xx names no EVENTS register: such an event is logged and delivered only. -/
theorem raise_class01 {e : Ev} (h : e.code / 256 = 1) (s : State) : raise e s = logEntry e s := by
  unfold raise setEvent; simp [h]

/-- What counting a violation changes in a function: the count, its window, and QUARANTINE (R403, R404). -/
def Counted (x y : FnSt) : Prop :=
  { y with violCnt := x.violCnt, violTimes := x.violTimes, quarantine := x.quarantine } = x ∧
    y.violCnt = satInc x.violCnt

theorem counted_pairs {x y : FnSt} (h : Counted x y) : y.pairs = x.pairs := by
  have := congrArg FnSt.pairs h.1
  exact this

theorem countViolation_cases (P : State → Prop) (f kind : Nat) (s : State)
    (h1 : ∀ g, (∀ x, Counted x (g x)) → P (setFn f g s) ∧ ∀ e, e.code / 256 = 1 → P (logEntry e (setFn f g s))) :
    P (countViolation f kind s) := by
  unfold countViolation
  refine ite_cases ?_ ?_
  · rw [raise_class01 (by simp)]
    exact (h1 _ fun x => ⟨by rfl, by rfl⟩).2 _ (by simp)
  · exact (h1 _ fun x => ⟨by rfl, by rfl⟩).1

@[simp] theorem logLimited_host (k : Nat) (e : Ev) (s : State) : (logLimited k e s).host = s.host := by
  unfold logLimited
  split
  · exact ite_cases (P := fun u : State => u.host = s.host) rfl rfl
  · rfl

@[simp] theorem logLimited_out (k : Nat) (e : Ev) (s : State) : (logLimited k e s).out = s.out := by
  unfold logLimited
  split
  · exact ite_cases (P := fun u : State => u.out = s.out) rfl rfl
  · rfl

theorem logLimited_units (k : Nat) (e : Ev) (s : State) : UnitsKept s (logLimited k e s) := by
  unfold logLimited
  split
  · exact ite_cases (P := UnitsKept s) (unitsKept_refl s) (unitsKept_refl s)
  · exact unitsKept_refl s

/-- A counted violation touches the function and the log alone. -/
theorem countViolation_units (f kind : Nat) (s : State) : UnitsKept s (countViolation f kind s) :=
  countViolation_cases (UnitsKept s) f kind s fun _ _ => ⟨unitsKept_refl s, fun _ _ => unitsKept_refl s⟩

theorem countViolation_cnt (f kind : Nat) (s : State) :
    (fnOf (countViolation f kind s) f).violCnt = satInc (fnOf s f).violCnt :=
  countViolation_cases (fun u => (fnOf u f).violCnt = satInc (fnOf s f).violCnt) f kind s fun g hg =>
    ⟨by rw [fnOf_setFn_same]; exact (hg _).2,
      fun e _ => by show (fnOf (setFn f g s) f).violCnt = _; rw [fnOf_setFn_same]; exact (hg _).2⟩

theorem countViolation_pair (f kind : Nat) (s : State) (j q : Nat) :
    pairOf (countViolation f kind s) j q = pairOf s j q :=
  countViolation_cases (fun u => pairOf u j q = pairOf s j q) f kind s fun g hg => by
    have h : pairOf (setFn f g s) j q = pairOf s j q := pairOf_setFn_pairs f q g s (counted_pairs (hg _)) j
    exact ⟨h, fun _ _ => h⟩

theorem pairOf_logLimited (k : Nat) (e : Ev) (s : State) (j q : Nat) : pairOf (logLimited k e s) j q = pairOf s j q := by
  simp [pairOf, fnOf]

theorem violation_units (f k p v : Nat) (s : State) : UnitsKept s (violation f k p v s) :=
  unitsKept_trans (logLimited_units _ _ _) (countViolation_units _ _ _)

/-- A violation is counted in FN_VIOL_CNT, saturating (R403). -/
theorem violation_cnt (f k p v : Nat) (s : State) : (fnOf (violation f k p v s) f).violCnt = satInc (fnOf s f).violCnt := by
  rw [violation, countViolation_cnt]; simp [fnOf]

theorem violation_pair (f k p v : Nat) (s : State) (j q : Nat) : pairOf (violation f k p v s) j q = pairOf s j q := by
  rw [violation, countViolation_pair, pairOf_logLimited]

theorem badAccess_units (f off w v : Nat) (s : State) : UnitsKept s (badAccess f off w v s) :=
  unitsKept_trans (logLimited_units _ _ _) (countViolation_units _ _ _)

theorem badAccess_cnt (f off w v : Nat) (s : State) : (fnOf (badAccess f off w v s) f).violCnt = satInc (fnOf s f).violCnt := by
  rw [badAccess, countViolation_cnt]; simp [fnOf, logAccess]

theorem badAccess_pair (f off w v : Nat) (s : State) (j q : Nat) : pairOf (badAccess f off w v s) j q = pairOf s j q := by
  rw [badAccess, countViolation_pair]; simp [pairOf, fnOf, logAccess]

end Sys2Proof.Machine
end

