-- ==== Sys2Proof/Laws/Objects.lean ====
section
/-! SUPPORT. Objects: what a change of one object's record does to what handles name, and what a write does to an object's
content. -/

namespace Sys2Proof.Machine

@[simp] theorem findObj_settle (s t : State) (h : Nat) : findObj (settle s t) h = findObj t h := by simp [findObj, objAt]
@[simp] theorem findObj_complete (k : Src) (st : Nat) (ws : List Nat) (s : State) (h : Nat) :
    findObj (complete k st ws s) h = findObj s h := by simp [findObj, objAt]
@[simp] theorem findObj_enlist (i : CmdInfo) (s : State) (h : Nat) : findObj (enlist i s) h = findObj s h := by
  simp [findObj, objAt]
@[simp] theorem findObj_emit (o : Out) (s : State) (h : Nat) : findObj (emit o s) h = findObj s h := rfl
@[simp] theorem findObj_setFn (f : Nat) (g : FnSt → FnSt) (s : State) (h : Nat) : findObj (setFn f g s) h = findObj s h :=
  rfl

@[simp] theorem cmdObj_enlist (i : CmdInfo) (s : State) (src : Src) (h need : Nat) :
    cmdObj (enlist i s) src h need = cmdObj s src h need := by
  simp only [cmdObj, findObj_enlist, srcRights, srcFn, enlist_host_ownerPf]
  rfl

/-- A command may act on an object only if its handle names one. -/
theorem findObj_of_cmdObj {s : State} {src : Src} {h need : Nat} {o : Obj} (hc : cmdObj s src h need = .ok o) :
    findObj s h = some o := by
  unfold cmdObj at hc
  split at hc
  · cases hc
  · rename_i o' ho
    dsimp only at hc
    split at hc
    · cases hc
    · split at hc
      · cases hc
      · cases hc; exact ho

/-- A changed object is found under its handle, changed. -/
theorem findObj_setObj_same {s : State} {h : Nat} {o : Obj} (g : Obj → Obj) (ho : findObj s h = some o)
    (h1 : (g o).live = o.live) (h2 : (g o).gen = o.gen) : findObj (setObj h g s) h = some (g o) := by
  have hs : setObj h g s = { s with mem := { s.mem with objs := tset s.mem.objs (hSlot h) (g o) } } := by
    simp [setObj, ho]
  unfold findObj objAt at ho
  dsimp only at ho
  split at ho
  · rename_i hc
    cases ho
    simp only [Bool.and_eq_true] at hc
    rw [hs]
    simp only [findObj, objAt, tget_tset_same, h1, h2]
    simp [hc.1.1, hc.1.2, hc.2]
  · cases ho

/-- No other object is touched. -/
theorem findObj_setObj_other {s : State} {h k : Nat} (g : Obj → Obj) (hk : hSlot h ≠ hSlot k) :
    findObj (setObj h g s) k = findObj s k := by
  unfold setObj
  split
  · simp only [findObj, objAt, tget_tset_other _ _ _ hk]
    rfl
  · rfl

@[simp] theorem findObj_wcbFlush (h k : Nat) (s : State) : findObj (wcbFlush h s) k = findObj s k := rfl

theorem setObj_host (h : Nat) (g : Obj → Obj) (s : State) : (setObj h g s).host = s.host := by
  unfold setObj; split <;> rfl
theorem setObj_out (h : Nat) (g : Obj → Obj) (s : State) : (setObj h g s).out = s.out := by
  unfold setObj; split <;> rfl

theorem writeObj_host (h off : Nat) (bs : Bytes) (d : Bool) (s : State) : (writeObj h off bs d s).host = s.host := by
  unfold writeObj
  split
  · rfl
  · exact ite_cases (P := fun u : State => u.host = s.host) (setObj_host _ _ _) (setObj_host _ _ _)

theorem writeObj_out (h off : Nat) (bs : Bytes) (d : Bool) (s : State) : (writeObj h off bs d s).out = s.out := by
  unfold writeObj
  split
  · rfl
  · exact ite_cases (P := fun u : State => u.out = s.out) (setObj_out _ _ _) (setObj_out _ _ _)

/-- A write through a handle writes that object's content. -/
theorem findObj_writeObj_same {s : State} {h : Nat} {o : Obj} (off : Nat) (bs : Bytes) (d : Bool)
    (ho : findObj s h = some o) : findObj (writeObj h off bs d s) h = some (objWrite o off bs d (slcRoom s) s.now) := by
  have h1 := findObj_setObj_same (fun o => objWrite o off bs d (slcRoom s) s.now) ho rfl rfl
  unfold writeObj
  simp only [ho]
  split
  · exact h1
  · exact h1

theorem findObj_writeObj_other {s : State} {h k : Nat} (off : Nat) (bs : Bytes) (d : Bool) (hk : hSlot h ≠ hSlot k) :
    findObj (writeObj h off bs d s) k = findObj s k := by
  unfold writeObj
  split
  · rfl
  · have h1 := findObj_setObj_other (s := s) (fun o => objWrite o off bs d (slcRoom s) s.now) hk
    exact ite_cases (P := fun u => findObj u k = findObj s k) h1 h1

/-- What reads return after a write: the bytes written, and every other byte as before. -/
theorem memGet_objWrite (o : Obj) (off : Nat) (bs : Bytes) (d room : Bool) (now a : Nat) (h : Memory.wf o.mem = true) :
    memGet (objWrite o off bs d room now).mem a =
      if off ≤ a ∧ a < off + bs.length then bs.getD (a - off) 0 else memGet o.mem a := memGet_memWrite bs o.mem off a h

theorem objWrite_wf (o : Obj) (off : Nat) (bs : Bytes) (d room : Bool) (now : Nat) (h : Memory.wf o.mem = true) :
    Memory.wf (objWrite o off bs d room now).mem = true := memWrite_wf bs o.mem off h

end Sys2Proof.Machine
end

