-- ==== Sys2Proof/Laws/Tiles.lean ====
section
/-! SUPPORT. What the tile-side operations can do: those that read, write and touch operands change tile records, tile
stores and windows only, each said once as `OnlyTile`; later proofs cite these in place of unfolding them. -/

namespace Sys2Proof.Machine

/-- `t` differs from `s` in the tiles, their stores and the windows at most. -/
def OnlyTile (s t : State) : Prop := t = { s with tile := t.tile }

theorem onlyTile_refl (s : State) : OnlyTile s s := rfl

theorem onlyTile_trans {s t u : State} (h1 : OnlyTile s t) (h2 : OnlyTile t u) : OnlyTile s u := by
  unfold OnlyTile at *
  rw [h2, h1]

theorem onlyTile_foldl {α : Type} (g : State → α → State) (h : ∀ s x, OnlyTile s (g s x)) :
    ∀ (l : List α) (s : State), OnlyTile s (l.foldl g s)
  | [], s => onlyTile_refl s
  | x :: r, s => onlyTile_trans (h s x) (onlyTile_foldl g h r (g s x))

/-- Every unit but the tiles is as it was. -/
theorem OnlyTile.units {s t : State} (h : OnlyTile s t) :
    t.mem = s.mem ∧ t.vnr = s.vnr ∧ t.mq = s.mq ∧ t.jig = s.jig ∧ t.glu = s.glu ∧ t.dvl = s.dvl ∧ t.pwr = s.pwr ∧
      t.ckp = s.ckp ∧ t.dbg = s.dbg ∧ t.host = s.host ∧ t.out = s.out ∧ t.now = s.now := by
  unfold OnlyTile at h
  rw [h]
  exact ⟨rfl, rfl, rfl, rfl, rfl, rfl, rfl, rfl, rfl, rfl, rfl, rfl⟩

theorem onlyTile_setTile (t : Nat) (g : TileSt → TileSt) (s : State) : OnlyTile s (setTile t g s) := rfl

theorem onlyTile_store (m : Mem) (s : State) : OnlyTile s { s with tile := { s.tile with store := m } } := rfl

theorem onlyTile_touchStore (c g : Nat) (s : State) : OnlyTile s (touchStore c g s) := by
  unfold touchStore
  exact onlyTile_trans (ite_cases (P := OnlyTile s) (onlyTile_refl s) (onlyTile_store _ s)) (onlyTile_setTile _ _ _)

theorem onlyTile_touchWindow (t c g : Nat) (s : State) : OnlyTile s (touchWindow t c g s) := by
  unfold touchWindow
  split
  · rfl
  · rfl

theorem onlyTile_touchLoc (t c : Nat) (l : Loc) (n : Nat) (s : State) : OnlyTile s (touchLoc t c l n s) := by
  cases l with
  | store a => exact onlyTile_foldl _ (fun s g => onlyTile_touchStore c g s) _ s
  | window a => exact onlyTile_foldl _ (fun s g => onlyTile_touchWindow t c g s) _ s
  | object h o => rfl

theorem onlyTile_hideWrite (t h off n : Nat) (old : Bytes) (s : State) : OnlyTile s (hideWrite t h off n old s) := by
  unfold hideWrite
  refine onlyTile_trans ?_ (onlyTile_foldl _ (fun s u => onlyTile_setTile u _ s) _ _)
  split
  · rfl
  · rfl

theorem onlyTile_showWrites (t : Nat) (s : State) : OnlyTile s (showWrites t s) := by
  unfold showWrites
  split
  · rfl
  · rfl

theorem onlyTile_l1Update (t h off : Nat) (bs : Bytes) (s : State) : OnlyTile s (l1Update t h off bs s) := rfl

theorem onlyTile_takeTurn (t mb : Nat) (d : Bytes) (s : State) : OnlyTile s (takeTurn t mb d s) := by
  unfold takeTurn
  split
  · rfl
  · rfl

theorem onlyTile_fillGap (t : Nat) (s : State) : OnlyTile s (fillGap t s) := by
  unfold fillGap
  split
  · rfl
  · rfl

/-- An operand field names a place in the tile store or the window, never an object. -/
theorem resolve_not_object {s : State} {e : OpEnv} {field len h o : Nat} : resolve s e field len ≠ .ok (.object h o) := by
  intro hr
  simp only [resolve] at hr
  repeat' split at hr
  all_goals cases hr

theorem onlyTile_writeLoc_store (t a : Nat) (bs : Bytes) (s : State) : OnlyTile s (writeLoc t (.store a) bs s) := rfl

theorem onlyTile_writeLoc_window (t a : Nat) (bs : Bytes) (s : State) : OnlyTile s (writeLoc t (.window a) bs s) := by
  refine onlyTile_trans (onlyTile_hideWrite t 0 (a % 2 ^ 26) bs.length (memRead s.tile.window a bs.length) s) ?_
  exact rfl

/-- Writing an operand changes tiles, stores and windows only. -/
theorem onlyTile_wrField (e : OpEnv) (field : Nat) (bs : Bytes) (s : State) : OnlyTile s (wrField e field bs s) := by
  unfold wrField
  split
  · rename_i l hl
    cases l with
    | store a => exact onlyTile_writeLoc_store _ a bs s
    | window a => exact onlyTile_writeLoc_window _ a bs s
    | object h o => exact absurd hl resolve_not_object
  · rfl

theorem onlyTile_wrTrailing (e : OpEnv) (field fmt : Nat) (o : OutT) (s : State) : OnlyTile s (wrTrailing e field fmt o s) := by
  unfold wrTrailing
  exact ite_cases (onlyTile_trans (onlyTile_wrField _ _ _ _) (onlyTile_wrField _ _ _ _)) (onlyTile_wrField _ _ _ _)

/-- What a step of a program brings to captures changes captures only (R365). -/
theorem keepLate_captures (t : Nat) (a b : State) : ∃ l, keepLate t a b = { b with ckp := { b.ckp with captures := l } } := by
  unfold keepLate
  split
  · exact ⟨_, rfl⟩
  · exact ⟨b.ckp.captures, rfl⟩

/-- ... and none when no capture waits for the tile's program. -/
theorem keepLate_none {t : Nat} {a b : State} (h : b.ckp.captures.any (waitsFor a t) = false) : keepLate t a b = b := by
  simp [keepLate, h]

end Sys2Proof.Machine
end

