-- ==== Sys2Proof/WellFormed.lean ====
section
/-! DEFINITION. What the spec's field widths require of a command's operands. The meanings do not rely on it: bytes that
are missing read as 0 (R396), and operands out of range are turned away by the command's own checks. -/

namespace Sys2Proof

/-- A tag is 16 bits and a context ID 12 bits (R396). -/
def Src.wf (c : Src) : Bool :=
  decide (c.tag < 2 ^ 16) && (match c.ctx with
    | some x => decide (x < 4096)
    | none => true)

/-- At most 48 parameter bytes (R396). -/
def paramsWf (p : Bytes) : Bool := decide (p.length ≤ 48)

/-- A descriptor is 64 B, with at most two extension records (R103, R104). -/
def descWf (d : Bytes) : Bool := d.length == 64 || d.length == 128 || d.length == 192

/-- The source address of a message is 17 bits, and its msg_id 32 (R337). -/
def MsgHdr.wf (h : MsgHdr) : Bool := decide (h.src < 2 ^ 17) && decide (h.msgId < 2 ^ 32)

/-- Sequence numbers are 12 bits and credit returns 8 (R327). -/
def LinkHdr.wf (l : LinkHdr) : Bool :=
  decide (l.seq < 4096) && decide (l.crReq < 256) && decide (l.crRsp < 256) && (match l.ack with
    | some a => decide (a < 4096)
    | none => true)

/-- A register offset lies in BAR0, 16 MiB, and is naturally aligned (R9, R383). -/
def offWf (off : Nat) : Bool := decide (off < 2 ^ 24) && off % 4 == 0

/-- A flit is 256 B (R327). -/
def flitWf (b : Bytes) : Bool := b.length == 256

/-- A command packet is 64 B (R396, R425). -/
def packetWf (b : Bytes) : Bool := b.length == 64

/-- The operands of a command fit the fields that carry them. Commands whose operands are numbers of the outside world
(measurements, timers) are well formed at any value. -/
def Instr.wf (i : Instr) : Bool :=
  match i with
  | .identify src p => src.wf && paramsWf p
  | .flush src p => src.wf && paramsWf p
  | .fnReset src p => src.wf && paramsWf p
  | .moduleReset src p => src.wf && paramsWf p
  | .ringCreate src p => src.wf && paramsWf p
  | .ringDelete src p => src.wf && paramsWf p
  | .fwCommit src p => src.wf && paramsWf p
  | .fwActivate src p => src.wf && paramsWf p
  | .ownerSet src p => src.wf && paramsWf p
  | .evtWait src p => src.wf && paramsWf p
  | .jigLoad src p => src.wf && paramsWf p
  | .jigSwitch src p => src.wf && paramsWf p
  | .jigDiscard src p => src.wf && paramsWf p
  | .jigQuery src p => src.wf && paramsWf p
  | .mqCreate src p => src.wf && paramsWf p
  | .mqDestroy src p => src.wf && paramsWf p
  | .mqBind src p => src.wf && paramsWf p
  | .mqUnbind src p => src.wf && paramsWf p
  | .mqQuery src p => src.wf && paramsWf p
  | .mqPurge src p => src.wf && paramsWf p
  | .mqPost src p => src.wf && paramsWf p
  | .jobSubmit src p => src.wf && paramsWf p
  | .jobWait src p => src.wf && paramsWf p
  | .jobStatus src p => src.wf && paramsWf p
  | .jobCancel src p => src.wf && paramsWf p
  | .jobRelease src p => src.wf && paramsWf p
  | .ctxQuery src p => src.wf && paramsWf p
  | .ctxHold src p => src.wf && paramsWf p
  | .ctxResume src p => src.wf && paramsWf p
  | .ctxShare src p => src.wf && paramsWf p
  | .vnrQuery src p => src.wf && paramsWf p
  | .vnrPin src p => src.wf && paramsWf p
  | .vnrUnpin src p => src.wf && paramsWf p
  | .gluQuery src p => src.wf && paramsWf p
  | .gluLedgerRead src p => src.wf && paramsWf p
  | .gluLedgerLoad src p => src.wf && paramsWf p
  | .krfRead src p => src.wf && paramsWf p
  | .krfClear src p => src.wf && paramsWf p
  | .krfHistSet src p => src.wf && paramsWf p
  | .krfLossSet src p => src.wf && paramsWf p
  | .krfFpRead src p => src.wf && paramsWf p
  | .objCreate src p => src.wf && paramsWf p
  | .objDestroy src p => src.wf && paramsWf p
  | .objWrite src p _ => src.wf && paramsWf p
  | .objRead src p => src.wf && paramsWf p
  | .objQuery src p => src.wf && paramsWf p
  | .objPin src p => src.wf && paramsWf p
  | .objUnpin src p => src.wf && paramsWf p
  | .objPromote src p => src.wf && paramsWf p
  | .objDemote src p => src.wf && paramsWf p
  | .objGrant src p => src.wf && paramsWf p
  | .objRevoke src p => src.wf && paramsWf p
  | .objAtomic src p => src.wf && paramsWf p
  | .dvlQuery src p => src.wf && paramsWf p
  | .dvlConfig src p => src.wf && paramsWf p
  | .dvlPort src p => src.wf && paramsWf p
  | .dvlExtRead src p => src.wf && paramsWf p
  | .dvlExtWrite src p => src.wf && paramsWf p
  | .cfgStage src p => src.wf && paramsWf p
  | .cfgCancel src p => src.wf && paramsWf p
  | .cfgQuery src p => src.wf && paramsWf p
  | .ckpPolicy src p => src.wf && paramsWf p
  | .ckpTake src p => src.wf && paramsWf p
  | .ckpRestore src p => src.wf && paramsWf p
  | .ckpRelease src p => src.wf && paramsWf p
  | .ckpQuery src p => src.wf && paramsWf p
  | .ckpReserve src p => src.wf && paramsWf p
  | .pwrState src p => src.wf && paramsWf p
  | .pwrAlarm src p => src.wf && paramsWf p
  | .pwrQuery src p => src.wf && paramsWf p
  | .pwrReplan src p _ => src.wf && paramsWf p
  | .dbgLogRead src p => src.wf && paramsWf p
  | .dbgSummaryRead src p => src.wf && paramsWf p
  | .dbgView src p => src.wf && paramsWf p
  | .dbgTest src p _ => src.wf && paramsWf p
  | .sqTailDoorbell _ _ _ => true
  | .cqHeadDoorbell _ _ _ => true
  | .fnCtrlEnableWrite _ _ => true
  | .reg64LowRead _ off => offWf off
  | .reg64LowWrite _ off _ => offWf off
  | .reg64HighWrite _ off _ => offWf off
  | .mqHeadWord0Read _ _ => true
  | .w1cWrite _ off _ _ => offWf off
  | .rcRead _ off _ => offWf off
  | .registerWrite _ off _ => offWf off
  | .badWidthAccess _ _ _ _ => true
  | .commandFetch _ _ entry => packetWf entry
  | .fetchError _ _ => true
  | .completionWrite _ _ => true
  | .irqCoalTimer _ => true
  | .flr _ => true
  | .perstAssert _ _ => true
  | .perstDeassert _ _ => true
  | .pcieLinkUp _ _ => true
  | .dStateChange _ _ _ => true
  | .l1Exit _ => true
  | .pmeRewakeTimer _ => true
  | .powerGood => true
  | .undervoltageTrip => true
  | .inputBelow41v _ => true
  | .emergOff => true
  | .inletTempHigh _ => true
  | .inletTempTooHigh _ => true
  | .flowLow _ => true
  | .flowTooLow _ => true
  | .flowLost _ => true
  | .leak => true
  | .junctionTrip _ _ => true
  | .comparatorClear _ _ => true
  | .leaveFleet => true
  | .wavelengthFail _ _ => true
  | .firmwareBootDone _ => true
  | .packageSelfTestDone _ => true
  | .gddr7TrainingDone _ => true
  | .portBringupDone => true
  | .lightDetect _ _ _ => true
  | .lightLoss _ => true
  | .laneLoss _ _ => true
  | .portTrainingTimeout _ => true
  | .portRetryTimer _ => true
  | .retrainTimeout _ => true
  | .replayWindowTimer _ => true
  | .fecAlignLoss _ => true
  | .noFlitTimeout _ => true
  | .init _ l _ => l.wf
  | .data _ flit => flitWf flit
  | .idle _ l => l.wf
  | .nak _ l _ => l.wf
  | .keepalive _ l _ => l.wf
  | .elect _ l _ => l.wf
  | .tsync _ l _ => l.wf
  | .tree _ l _ => l.wf
  | .retrain _ l => l.wf
  | .ackTimer _ => true
  | .keepaliveTimer _ => true
  | .electTimer => true
  | .electSettleTimer => true
  | .tsyncTimer => true
  | .treeTimer => true
  | .digestCheckTimeout => true
  | .rootLostTimer => true
  | .timeUnlockTimer => true
  | .rtcWriteTimer => true
  | .liveCalTimer _ _ _ => true
  | .laserBiasTimer _ _ _ => true
  | .cfgActivation => true
  | .mqBindMsg h _ _ _ _ => h.wf
  | .mqGrant h _ _ => h.wf
  | .mqBlock h _ _ _ => h.wf
  | .mqHeader h _ _ _ => h.wf
  | .mqCredit h _ _ _ => h.wf
  | .mqReject h _ _ _ => h.wf
  | .mqSync h _ _ _ _ => h.wf
  | .creditFlushTimer _ => true
  | .mqBindTimeout _ => true
  | .collData h _ _ => h.wf
  | .anchorPropose h _ _ => h.wf
  | .anchorAgree h _ _ => h.wf
  | .collResult h _ _ => h.wf
  | .collAbort h _ => h.wf
  | .collCredit h _ => h.wf
  | .anchorDeadline _ => true
  | .closeT _ => true
  | .collCommit _ => true
  | .collTimeout _ => true
  | .rowPlan h _ => h.wf
  | .rowReady h _ => h.wf
  | .rowCommit h _ => h.wf
  | .jobCtl h _ => h.wf
  | .jobRsp h _ => h.wf
  | .fpListReq h _ _ _ => h.wf
  | .fpList h _ _ _ _ _ => h.wf
  | .ckpCopy h _ => h.wf
  | .ckpAck h _ _ _ _ => h.wf
  | .ckpAckTimeout _ => true
  | .linkState _ h _ => h.wf
  | .routeRecomputeDone => true
  | .msgLost h _ _ _ => h.wf
  | .msgResendTimer _ => true
  | .msgLostHoldExpiry _ _ => true
  | .extData _ _ _ _ => true
  | .extAck _ _ => true
  | .extErr _ _ _ => true
  | .extTagTimeout _ _ => true
  | .frameBoundary => true
  | .deadlineRiskTest => true
  | .bankSwitch => true
  | .slotStart _ _ => true
  | .deferredSlotStart _ => true
  | .programLate _ _ _ => true
  | .calWindow => true
  | .gemm _ d parts => descWf d && (parts.all fun x => descWf x.2)
  | .gemmSend _ d => descWf d
  | .gemmRs _ d => descWf d
  | .agGemm _ d => descWf d
  | .gemmAr _ d => descWf d
  | .attnFwd _ d => descWf d
  | .attnBwd _ d => descWf d
  | .elemwise _ d => descWf d
  | .norm _ d => descWf d
  | .softmaxXent _ d => descWf d
  | .distillKl _ d => descWf d
  | .optAdamw _ d => descWf d
  | .gradQ8 _ d => descWf d
  | .cast _ d => descWf d
  | .copy _ d => descWf d
  | .gather _ d => descWf d
  | .send _ d => descWf d
  | .sendGroupHeader _ d => descWf d
  | .recv members => members.all fun x => descWf x.2
  | .recvTakeTail members => members.all fun x => descWf x.2
  | .fingerprint _ d => descWf d
  | .kerfSnapshot _ d => descWf d
  | .dummy _ d => descWf d
  | .barrier _ d => descWf d
  | .embed _ d => descWf d
  | .topkLogits _ d => descWf d
  | .ctxTeardownDone _ => true
  | .versionRetire _ _ _ => true
  | .jobInputPost _ => true
  | .jobComplete _ => true
  | .replicaRepair _ _ _ => true
  | .fillGroupTimeout _ _ _ => true
  | .fillTailPoint _ => true
  | .keepCurrentThreshold _ => true
  | .tileRampUp _ => true
  | .slewGovernorWindow _ _ => true
  | .promotionCommit _ _ => true
  | .demotionCommit _ => true
  | .poisonRewrite _ _ => true
  | .wcbIdleTimer _ _ _ => true
  | .accessCountHalving => true
  | .flashDieFailed _ _ => true
  | .rebuildDone _ _ _ => true
  | .blockRefresh _ _ _ => true
  | .wearLevelMove _ _ _ _ => true
  | .slcFold _ => true
  | .blockMapWrite => true
  | .captureWindowExpiry _ => true
  | .captureRetain _ => true
  | .localCheckpointWrite _ => true
  | .memberLoss _ _ => true
  | .shrinkResume _ => true
  | .fwSwitch => true
  | .fwActivateTimeout => true
  | .powerStateReached => true
  | .rtcAlarm => true
  | .wakeComplete => true
  | .budgetCycle _ => true
  | .budgetTimeout _ => true
  | .thermalThrottleStep _ _ => true
  | .dieNapEntry _ => true
  | .dieWake _ => true
  | .shimPlannerRun _ => true
  | .summaryWrite _ => true
  | .buros cmd _ => packetWf cmd
  | .alertRead => true
  | .wake => true
  | .unknownVendorMessage _ => true
  | .setdasa a => decide (a.static < 128) && decide (a.addr < 128)
  | .entdaa _ => true
  | .hdrEntry => true
  | .setEndpointId _ => true
  | .getEndpointId => true
  | .getMctpVersionSupport _ => true
  | .getMessageTypeSupport => true
  | .getVendorDefinedMsgSupport _ => true
  | .gettid => true
  | .getpldmversion _ => true
  | .getpldmtypes => true
  | .getpldmcommands _ => true
  | .getpdrrepositoryinfo => true
  | .getpdr _ => true
  | .getsensorreading _ _ => true
  | .getstatesensorreadings _ => true
  | .getnumericeffectervalue _ => true
  | .setnumericeffectervalue _ _ => true
  | .seteventreceiver _ => true
  | .platformeventmessage => true
  | .unsupportedPldmCmd _ _ => true
  | .undervoltageRearm => true
  | .fwHoldAtT => true
  | .alertConditionClear _ => true
end Sys2Proof
end

