-- ==== Sys2Proof/Tests/Slice0.lean ====
section
/-! SUPPORT. The author's own tests: ill-formed commands are refused by `Instr.wf`, what single steps do on small states
against numbers worked out from the spec, and for every statement of Certificates/Slice0/Obligations.lean that has
hypotheses, states and operands that meet all of them together, clause by clause (theorems test_hyps_…). -/

namespace Sys2Proof.Tests

set_option Elab.async false

open Sys2Proof Sys2Proof.Machine

/-! ### Small states -/

/-- A command of function 0's pair 0, and one of the sideband. -/
def host : Src := ⟨.fn 0 0, 7, false, none⟩

def bmc : Src := ⟨.sideband, 7, false, none⟩

/-- 48 parameter bytes with the fields (offset, width, value) set. -/
def par (l : List (Nat × Nat × Nat)) : Bytes := l.foldl (fun b f => setLE b f.1 f.2.1 f.2.2) (List.replicate 48 0)

/-- 64 bytes with the fields (offset, width, value) set. -/
def rec64 (l : List (Nat × Nat × Nat)) : Bytes := l.foldl (fun b f => setLE b f.1 f.2.1 f.2.2) (List.replicate 64 0)

def pair16 : Pair := ⟨0x10000, 16, 3, 4, 0x20000, 16, 2, 5, true, 0, true, false, []⟩

/-- An awake module in the fleet: host link 0 up, function 0 enabled with one ring pair of 16 entries. -/
def up : State := { State.reset with
  host := { State.reset.host with
    ready := true, links := [(0, ⟨false, true, 8, 6, true, 0⟩)]
    fns := [(0, { FnSt.reset with enable := true, msixOn := true, pairs := [(0, pair16)] })] }
  pkg := { State.reset.pkg with pwrGood := true, rails := true }
  dvl := { State.reset.dvl with step := 10, locked := true, fleetReady := true, agreed := true, addr := 5, serial := 9 } }

/-- A plain resident object of 1 MiB, owned by function 0, with one byte written. -/
def thing : Obj := { Obj.free with
  gen := 1, live := true, size := 2 ^ 20, state := .resident, mem := [(4, 9)], durable := [(4, 9)] }

/-- `up` with the object `o` in slot 1; its handle is `h1`. -/
def withObj (o : Obj) (s : State) : State := { s with mem := { s.mem with gddrReady := true, objs := [(1, o)] } }

def h1 : Nat := mkHandle 1 1

/-- `up` with function 0's registers changed. -/
def upFn (g : FnSt → FnSt) : State := { up with host := { up.host with fns := up.host.fns.map fun e => (e.1, g e.2) } }

/-- An IDENTIFY packet with 8 parameter bytes, tag 9, and the same with a set rsvd byte. -/
def packet : Bytes := rec64 [(0, 2, 0x0101), (4, 2, 9), (8, 1, 8)]

/-- `thing` on `up`. -/
def held1 : State := withObj thing up

/-- A bank runs and nothing enters SLEEP. -/
def running : State := { up with jig := { up.jig with running := true } }

/-- A module asleep. -/
def asleep : State := { up with pwr := { up.pwr with state := .sleep } }

/-- A descriptor of one record: kind, flags, budget 1 ns, the fields given, and its check field. -/
def desc (kind flags : Nat) (l : List (Nat × Nat × Nat)) : Bytes :=
  let d := rec64 ([(0, 1, kind), (1, 1, flags), (8, 4, 1)] ++ l)
  setLE d 0x0E 2 (crc32c d % 65536)

/-- The bytes of an image (R197-R201): magic and version 3; 1 entry, position 0, phases 0xF, 1 frame of 1,000,000
ns; floor 16, guard 20, grace 1, current floor 25, keep threshold 5, 1 partition, look-ahead 4, 1 tile set; programs at
0x200, 128 bytes of 0x280, CRC-32C; tile set 0 is tile 0; the entry (0x1E0) starts at 0 for 10,000 ns with 1 micro-batch
and its check field; its program (0x240) is one DUMMY, the last op, of budget 1, with its check field. -/
@[irreducible] def image : Bytes :=
  let zeros (n : Nat) : Bytes := List.replicate n 0
  [85, 88, 74, 71, 3, 0, 1, 0, 0, 15, 1, 0, 64, 66, 15, 0, 16, 20, 1, 25, 5, 0, 0, 1, 4, 0, 0, 0, 1, 0, 0, 0, 0, 2, 0, 0,
    128] ++ zeros 19 ++ [128, 2, 0, 0, 121, 214, 246, 68] ++ zeros 384 ++ [1] ++ zeros 35 ++ [16, 39] ++ zeros 9 ++ [1] ++
    zeros 14 ++ [213, 240, 64] ++ zeros 63 ++ [21, 2, 0, 0, 0, 0, 0, 0, 1, 0, 0, 0, 0, 0, 232, 145] ++ zeros 48

/-- An object that holds the image. -/
def imageObj : Obj := { thing with size := image.length, mem := memWrite [] 0 image }

/-- `n` zero bytes with the fields (offset, width, value) set. -/
def fields (n : Nat) (l : List (Nat × Nat × Nat)) : Bytes := l.foldl (fun b f => setLE b f.1 f.2.1 f.2.2) (List.replicate n 0)

/-- An installation map (R344) of this module, 5, and module 6, with one link between their
ports 0 and gateway 7 on S0. -/
def map2 : Bytes := fields 136 [(0, 4, 0x504D_5855), (0x0C, 4, 2), (0x10, 4, 1), (0x14, 4, 1), (64, 4, 5), (72, 8, 9),
  (80, 4, 6), (88, 2, 7), (96, 4, 6), (104, 8, 10), (112, 4, 5), (128, 8, 5 + 6 * 2 ^ 22 + 2 ^ 44)]

/-- `up` beside module 6, port 0 being UP. -/
def pairUp : State := { up with dvl := { up.dvl with map := some map2, ports := [(0, { PortSt.reset with state := 4, width := 3 })] } }

def withQ (q : Nat) (k : Queue) (s : State) : State := { s with mq := { s.mq with queues := [(q, k)] } }

def withB (b : Nat) (x : Binding) (s : State) : State := { s with mq := { s.mq with bindings := [(b, x)] } }

def withCtx (c : Nat) (x : Ctx) (s : State) : State := { s with vnr := { s.vnr with ctxs := [(c, x)] } }

/-- A created queue of two slots of 64 KiB, fed by module 6; its buffer is the object `h1`. -/
def queue2 : Queue := { Queue.reset with
  state := 1, depth := 2, slotUnits := 1, producer := 6, handle := h1, slots := [.free, .free] }

def buffer : Obj := { thing with size := 131072, scratch := true, mem := [], durable := [], role := .queueBuf 255 }

/-- The buffer in slot 1 and `thing` in slot 2. -/
def withBuf (s : State) : State := { s with mem := { s.mem with gddrReady := true, objs := [(1, buffer), (2, thing)] } }

def h2 : Nat := mkHandle 2 1

/-- Jobs led here and by module 6. -/
def jobHere : Nat := 5 * 2 ^ 15 + 1

def jobThere : Nat := 6 * 2 ^ 15 + 1

/-- A running context of function 0, of a job led here. -/
def ctx1 : Ctx := { Ctx.free with state := .running, job := jobHere, tenant := 3, steps := 2, mbPerStep := 1 }

/-- A mailed header for context 1 into slot 0 of `queue2`, of length 0. -/
def header (seq off : Nat) : Bytes := sealHdr (rec64 [(0, 4, 3), (4, 2, 1), (0x0E, 2, 2), (0x10, 8, h1), (0x18, 4, off), (0x28, 4, seq)])

/-- The tables of a bank that hosts stage 0 of pipeline 0 (m = 1, 1 row-frame, row 1), fed by queue 255; no slots. -/
def tables : Bytes := fields 0x1C0 [(8, 1, 0), (9, 1, 15), (0x0A, 2, 1), (0x0C, 4, 1000000), (0x17, 1, 1), (0x1A, 1, 1),
  (0x1B, 1, 1), (0x42, 2, 1), (0x44, 4, 1), (0x48, 8, 1), (0xC8, 4, 64), (0xCC, 1, 4), (0xCD, 1, 255), (0xCF, 1, 1)]

/-- `tables` with one entry, in row 1. -/
def rowTables : Bytes := setLE (setLE (tables ++ List.replicate 32 0) 6 2 1) 0x1CD 1 1

def cells (l : List (Nat × Nat)) : Mem := l.map fun c => (c.1, BitVec.ofNat 8 c.2)

/-- A manifest (R182): hyperparameters `h4`; object 0 of stage 0 is `h2`; one extent, the first 8 B of `h2`, 1 row. -/
def manifest : Obj := { thing with size := 112, durable := [], mem := cells [(0, 0x55), (1, 0x58), (2, 0x4D), (3, 0x4E),
  (4, 1), (8, 1), (0x10, 4), (0x14, 1), (72, 2), (76, 1), (80, 2), (84, 1), (96, 8), (108, 1)] }

/-- A hyperparameter object of one record, all zero. -/
def hyper : Obj := { thing with size := 96, durable := [], mem := cells [(0, 0x55), (1, 0x58), (2, 0x48), (3, 0x50), (4, 1)] }

def h3 : Nat := mkHandle 3 1

/-- `up` with these objects and with the tables in its shadow bank. -/
def plant : State := { up with
  mem := { up.mem with gddrReady := true, objs := [(1, buffer), (2, thing), (3, manifest), (4, hyper)] }
  jig := { up.jig with bank1 := [(0, tables)] } }

/-- The job of `ctx1`, admitted, of modules 5 and 6. -/
def job1 : Job := { blankJob jobHere 0 with
  tenant := 3, steps := 2, mbPerStep := 1, members := [5, 6], memberCtx := [(5, 1, [0]), (6, 1, [])], admission := .admitted }

def withJob (j : Job) (s : State) : State := { s with vnr := { s.vnr with jobs := [(j.id, j)] } }

/-- `plant` with `ctx1` and `job1`. -/
def busy : State := withJob job1 (withCtx 1 ctx1 plant)

/-- An answer with a value, and one with a status. -/
def isOk {α : Type} [DecidableEq α] (v : α) : Except Nat α → Bool
  | .ok w => decide (w = v)
  | .error _ => false

def isErr {α : Type} (n : Nat) : Except Nat α → Bool
  | .ok _ => false
  | .error m => m == n

theorem ok_of {α : Type} [DecidableEq α] (e : Except Nat α) (v : α)
    (h : (match e with | .ok w => decide (w = v) | .error _ => false) = true) : e = .ok v := by
  cases e <;> simp_all

/-- A descriptor with extension records. -/
def descX (kind flags : Nat) (l : List (Nat × Nat × Nat)) (xs : List (List (Nat × Nat × Nat))) : Bytes :=
  desc kind flags l ++ (xs.mapIdx fun i x =>
    let e := rec64 ([(0, 1, kind + 128), (1, 1, b2n (i + 1 != xs.length)), (0x0C, 2, i + 1)] ++ x)
    setLE e 0x0E 2 (crc32c e % 65536)).flatten

/-- The places of an op's operands. -/
def place (r : OpRun) (d : Bytes) (c : Nat) (s : State) : List (Opnd × Loc) :=
  match resolveAll (opTurn r d s) (opEnv (opTurn r d s) r d c) (opnds d) with
  | .ok l => l
  | .error _ => []

/-- `OpRuns`, as a test. -/
def runsOp (r : OpRun) (d : Bytes) (c : Nat) (s : State) : Bool :=
  let u := opTurn r d s
  (hasTurn (tileOf s r.tile.val) r.tile.val r.mb d && !heldBack s r.tile.val d) && opCtx u r.tile.val d == some c &&
    !skips u r.tile.val d && activeCtx (ctxOf s c) && checksOk d && descOk d (windowBytes s) && gateFits u r.tile.val d &&
    !opEmpty d && !noVersion u (opEnv u r d c) && (resolveAll u (opEnv u r d c) (opnds d)).toBool

theorem runs_of (r : OpRun) (d : Bytes) (c : Nat) (s : State) (h : runsOp r d c s = true) :
    OpRuns r d c (place r d c s) s := by
  simp only [runsOp, Bool.and_eq_true, beq_iff_eq, Bool.not_eq_true'] at h
  obtain ⟨⟨⟨⟨⟨⟨⟨⟨⟨h1, h2⟩, h3⟩, h4⟩, h5⟩, h6⟩, h7⟩, h8⟩, h9⟩, h10⟩ := h
  refine ⟨h1, h2, h3, h4, h5, h6, h7, h8, h9, ?_⟩
  unfold place
  cases he : resolveAll (opTurn r d s) (opEnv (opTurn r d s) r d c) (opnds d) with
  | error e => rw [he] at h10; exact absurd h10 (by simp [Except.toBool])
  | ok l => rfl

/-- `ctx1` runs on a module with `thing`. -/
def crew : State := withCtx 1 ctx1 plant

/-- One row by one column, K = 1, BF16 operands at 0x40 and 0x80 of the tile store, FP32 result at 0x1000. -/
def mm : List (Nat × Nat × Nat) := [(2, 2, 1), (0x10, 4, 0x40), (0x18, 4, 0x80), (0x20, 4, 0x1000), (0x28, 2, 1), (0x2A, 2, 1),
  (0x2C, 4, 1), (0x30, 1, 2), (0x31, 1, 2), (0x32, 1, 1)]

/-- A collective of one member, whole, summed in WIDE, and gathered as BF16. -/
def sums (count : Nat) : List (Nat × Nat × Nat) := [(0x10, 4, 9), (0x14, 4, 1), (0x1C, 4, count), (0x24, 4, 1), (0x28, 1, 0x0D), (0x34, 2, 1)]

def gathers (count : Nat) : List (Nat × Nat × Nat) := [(0x10, 4, 9), (0x14, 4, 1), (0x1C, 4, count), (0x24, 4, 1), (0x28, 1, 2),
  (0x29, 1, 3), (0x2A, 1, 2)]

/-- One query and one key of 64 BF16, one head; a ring if bit 6 is set. -/
def attn (g : Nat) : List (Nat × Nat × Nat) := [(2, 2, 1), (0x10, 4, 0x40), (0x14, 4, 0x1000), (0x20, 4, 0x400), (0x24, 4, 0x800),
  (0x2C, 4, 1), (0x30, 2, 1), (0x32, 1, 1), (0x33, 1, 1), (0x34, 1, g), (0x35, 1, 2), (0x36, 1, 2), (0x37, 1, 2), (0x38, 4, 0xC00)]

def grads : List (Nat × Nat × Nat) := [(0x10, 4, 0x1400), (0x14, 4, 0x1800), (0x18, 4, 0x1C00), (0x1C, 4, 0x2000), (0x20, 1, 2), (0x21, 1, 2)]

/-- The ops that carry a collective, in the order of CollectivesGatherAndCommit. -/
def collOps : List Bytes := [descX 3 1 mm [sums 1], descX 4 1 mm [gathers 1], descX 5 1 mm [sums 1],
  descX 0x16 1 [(2, 2, 1), (0x10, 4, 0x40), (0x14, 4, 0x1000), (0x18, 1, 1)] [sums 1 ++ [(0x28, 1, 1)]],
  descX 6 1 (attn 0x40) [gathers 64], descX 7 1 (attn 0x40) [grads, sums 64]]

/-- A fold that evaluates its accumulator at each element, for the kernel's sake. -/
def foldNow (f : Nat → Byte → Nat) : Nat → Bytes → Nat
  | c, [] => c
  | c, x :: xs => match f c x with
    | 0 => foldNow f 0 xs
    | n + 1 => foldNow f (n + 1) xs

theorem foldl_foldNow (f : Nat → Byte → Nat) (l : Bytes) : ∀ c, l.foldl f c = foldNow f c l := by
  induction l with
  | nil => intro c; rfl
  | cons x xs ih =>
    intro c
    rw [List.foldl_cons, ih, foldNow]
    split <;> rename_i h <;> rw [h]

/-- A list as runs of 32 bytes. -/
def runs : Nat → Bytes → List Bytes
  | 0, l => [l]
  | n + 1, l => l.take 32 :: runs n (l.drop 32)

theorem runs_flatten (n : Nat) : ∀ l : Bytes, (runs n l).flatten = l := by
  induction n with
  | zero => intro l; simp [runs]
  | succ n ih => intro l; simp [runs, ih]

/-- A fold over runs that evaluates its accumulator after each of them. -/
def foldRuns (f : Nat → Byte → Nat) : Nat → List Bytes → Nat
  | c, [] => c
  | c, l :: ls => match foldNow f c l with
    | 0 => foldRuns f 0 ls
    | n + 1 => foldRuns f (n + 1) ls

theorem foldl_foldRuns (f : Nat → Byte → Nat) (ls : List Bytes) : ∀ c, ls.flatten.foldl f c = foldRuns f c ls := by
  induction ls with
  | nil => intro c; rfl
  | cons x xs ih =>
    intro c
    rw [List.flatten_cons, List.foldl_append, ih, foldRuns, foldl_foldNow]
    split <;> rename_i h <;> rw [h]

theorem crc32c_runs (n : Nat) (b : Bytes) : crc32c b = foldRuns crc32cByte 0xFFFF_FFFF (runs n b) ^^^ 0xFFFF_FFFF := by
  unfold crc32c
  rw [← foldl_foldRuns, runs_flatten]

/-- The first DATA flit of an MQ_BIND from module 6 to this module, sequence number 0, msg_id 3, with a CRC field. -/
def flit (crc : Nat) : Bytes :=
  [1, 2, 0, 0, 0, 0, 0, 0, 5, 0, 0, 0, 6, 0, 0, 0, 1, 1, 0, 0, 0, 0, 0, 0, 3] ++ List.replicate 227 0 ++ toLE 4 crc

/-- A command outstanding before another of pair 0. -/
def first : Outst := ⟨⟨.fn 0 0, 6, false, none⟩, .identify ⟨.fn 0 0, 6, false, none⟩ [], 0x0101, false, false, .started⟩

def fenced : Outst := ⟨host, .identify host [], 0x0101, true, false, .started⟩

/-- An object command of context 4,095, as `src` gives it with these parameters. -/
def queryBy (src : Src) (p : Bytes) : CmdInfo := ⟨src, 0x0705, .objQuery src p, false, [(8, 40)], p⟩

/-- `Starts`, for a command with these parameters. -/
def starts (op : Nat) (c : Instr) (priv : Bool) (z : List (Nat × Nat)) (p : Bytes) (s : State) : Bool :=
  let i : CmdInfo := ⟨host, op, c, priv, z, p⟩
  !mustHold i (enlist i s) && turnedAway i (enlist i s) == none

/-! ### Ill-formed commands -/

theorem test_wf_refuses : ([
    .identify ⟨.sideband, 2 ^ 16, false, none⟩ [], .identify ⟨.sideband, 0, false, some 4096⟩ [],
    .identify bmc (List.replicate 49 0), .dummy ⟨0, 0⟩ [], .gemm ⟨0, 0⟩ (rec64 []) [(⟨0, 0⟩, [])], .recv [(0, [])],
    .recvTakeTail [(0, [])], .collCredit ⟨2 ^ 17, 0⟩ [], .collCredit ⟨0, 2 ^ 32⟩ [], .idle 0 ⟨4096, none, 0, 0⟩,
    .idle 0 ⟨0, none, 256, 0⟩, .idle 0 ⟨0, none, 0, 256⟩, .idle 0 ⟨0, some 4096, 0, 0⟩, .rcRead 0 (2 ^ 24) 0,
    .rcRead 0 2 0, .data 0 [], .commandFetch 0 0 [], .buros [] none] : List Instr).all (fun i => !i.wf) = true := by
  decide +kernel

theorem test_wf_accepts : ([
    .identify ⟨.sideband, 2 ^ 16 - 1, false, some 4095⟩ (List.replicate 48 0), .dummy ⟨0, 0⟩ (rec64 []),
    .gemm ⟨255, 0⟩ (rec64 []) [(⟨0, 0⟩, rec64 [])], .collCredit ⟨2 ^ 17 - 1, 2 ^ 32 - 1⟩ [],
    .idle 31 ⟨4095, some 4095, 255, 255⟩, .rcRead 63 (2 ^ 24 - 4) 0, .data 0 (List.replicate 256 0),
    .buros (List.replicate 64 0) none] : List Instr).all Instr.wf = true := by
  decide +kernel

/-! ### Hypotheses: the block, host ports, commands (O1 to O15) -/

theorem test_hyps_pending : ({ up with pending := [.leak] } : State).pending = [.leak] ∧ up.pending = [] := by decide +kernel

theorem test_hyps_inv : Inv up ∧ ∃ t, step up = .next t := by
  refine ⟨?_, _, rfl⟩
  unfold Inv
  decide +kernel

theorem test_hyps_doorbell : pairOf up 0 0 = some pair16 ∧ (15#32).toNat % 4096 < pair16.sqSize ∧
    (5#32).toNat % 4096 < pair16.cqSize ∧
    ((5#32).toNat % 4096 + pair16.cqSize - pair16.cqHead) % pair16.cqSize ≤
      (pair16.cqTail + pair16.cqSize - pair16.cqHead) % pair16.cqSize ∧
    (pair16.cqTail + pair16.cqSize - pair16.cqHead) % pair16.cqSize <
      ((6#32).toNat % 4096 + pair16.cqSize - pair16.cqHead) % pair16.cqSize := by decide +kernel

theorem test_hyps_doorbell_refused : pairOf up 0 1 = none ∧ pairOf up 0 0 = some pair16 ∧
    pair16.sqSize ≤ (16#32).toNat % 4096 ∧ pair16.cqSize ≤ (16#32).toNat % 4096 := by decide +kernel

/-- Sizes 16 and 4,096 are good, 15 is not. -/
theorem test_hyps_fn_ctrl :
    let sizes (v : Nat) : Bool := decide (16 ≤ bits v 12 0 ∧ bits v 12 0 ≤ 4096 ∧ 16 ≤ bits v 28 16 ∧ bits v 28 16 ≤ 4096)
    sizes (16 + 4096 * 65536) = true ∧ sizes (15 + 4096 * 65536) = false ∧ bit 1 0 = true ∧ bit 2 0 = false := by
  decide +kernel

theorem test_hyps_latch : is64 0x10 = true ∧ (fnOf up 0).readLatch.find? (fun e => e.1 == 0x10) = none ∧
    (fnOf up 0).enable = true ∧ 0x10 ≠ 0x70028 ∧
    (fnOf (upFn fun x => { x with readLatch := [(0x10, 3)] }) 0).readLatch.find? (fun e => e.1 == 0x10) = some (0x10, 3) ∧
    ∀ off ∈ [0x10, 0x18, 0x70028],
      let x := fnOf (upFn fun x => { x with enable := false, writeLatch := [(off, 7)] }) 0
      x.quarantine = false ∧ x.enable = false ∧ x.writeLatch.find? (fun e => e.1 == off) = some (off, 7) := by
  decide +kernel

theorem test_hyps_owner : isOwner up 0 = true ∧ (fnOf up 0).quarantine = false ∧ isOwner up 63 = false ∧
    0x20000 ≤ 0x20000 ∧ perFn 0x20000 = false ∧ (∀ e ∈ up.dbg.lastLog, e.2.1 + 1000000 ≤ up.now) ∧
    (fnOf (upFn fun x => { x with writeLatch := [(0x70028, 7)] }) 0).writeLatch.find? (fun e => e.1 == 0x70028) =
      some (0x70028, 7) := by decide +kernel

/-- The three holds: a fence with a command before it, a firmware hold, a sleeping module. -/
theorem test_hyps_holds :
    (let i : CmdInfo := queryBy host (par [])
     let s := { up with host := { up.host with outst := [first, fenced] } }
     (∃ o ∈ (enlist i s).host.outst, Outst.is i.src o = true ∧ o.fence = true) ∧ earlier i.src (enlist i s).host.outst = true) ∧
    (let s := { up with host := { up.host with fwAct := some ⟨0, 0, some 0, none⟩ } }
     s.host.fwAct = some ⟨0, 0, some 0, none⟩ ∧ (queryBy host (par [])).opcode ∉ [0x0103, 0x0104]) ∧
    asleep.pwr.state ≠ .active ∧ (queryBy host (par [])).opcode ∉ [0x0101, 0x010A] ∧
    (queryBy host (par [])).opcode / 256 ≠ 0x0A := by decide +kernel

/-- Nothing holds the command and the earlier of its five checks pass, up to the one that fails: quarantine, an owner
command of function 1, a module in step 5 and one that is OUT, a set last rsvd byte, a context of another function; and a
command that passes all. -/
theorem test_hyps_checks :
    let last : Src := ⟨.fn 0 0, 7, false, some 4095⟩
    ∀ x ∈ [(upFn fun x => { x with quarantine := true }, queryBy host (par []), some sQuarantined),
        (up, ⟨⟨.fn 1 0, 7, false, none⟩, 0x0109, .ownerSet ⟨.fn 1 0, 7, false, none⟩ [], true, [(1, 47)], []⟩, some sDenied),
        ({ up with dvl := { up.dvl with step := 5 } }, queryBy host (par []), some sBusy),
        ({ up with dvl := { up.dvl with step := 15 } }, queryBy host (par []), some sBusy),
        (up, queryBy host (par [(47, 1, 1)]), some sBadField), (up, queryBy last (par []), some sJobUnknown),
        (withCtx 4095 { ctx1 with fn := 63 } up, queryBy last (par []), some sJobUnknown),
        (withCtx 4095 ctx1 up, queryBy last (par []), none)],
      mustHold x.2.1 (enlist x.2.1 x.1) = false ∧ turnedAway x.2.1 (enlist x.2.1 x.1) = x.2.2 := by decide +kernel

theorem test_hyps_event_wait : ∀ n ∈ [0, 15, 16],
    let s := { up with host := { up.host with outst := (List.range n).map fun i =>
      (⟨⟨.fn 0 0, 100 + i, false, none⟩, .evtWait host [], 0x010A, false, false, .event⟩ : Outst) } }
    Starts ⟨host, 0x010A, .evtWait host [], false, [(0, 48)], []⟩ s ∧ (fnOf s (srcFn s host)).evtHeld = [] ∧
      (s.host.outst.filter fun o => o.wait == .event && o.src.issuer != .sideband && srcFn s o.src == 0).length = n := by
  unfold Starts
  decide +kernel

theorem test_hyps_identify : (∀ p ∈ [par [(0, 8, 0x4000)], par []], Starts ⟨host, 0x0101, .identify host p, false, [(8, 40)], p⟩ up) ∧
    getLE (par [(0, 8, 0x4000)]) 0 8 ≠ 0 ∧
    (∀ f ∈ [0, 48, 63], Starts ⟨host, 0x0109, .ownerSet host (par [(0, 1, f)]), true, [(1, 47)], par [(0, 1, f)]⟩ up) ∧
    getLE (par [(0, 1, 48)]) 0 1 ∈ [0, 16, 32, 48] ∧ getLE (par [(0, 1, 63)]) 0 1 ∉ [0, 16, 32, 48] ∧
    (
      let s := upFn fun x => { x with evtHeld := [(3, 0x0A02, 100), (4, 0x0A02, 200)] }
      Starts ⟨host, 0x010A, .evtWait host [], false, [(0, 48)], []⟩ s ∧
        (fnOf s (srcFn s host)).evtHeld = (3, 0x0A02, 100) :: [(4, 0x0A02, 200)]) := by
  unfold Starts
  decide +kernel

/-- Pair 63 with a ring of 16 and one of 4,096 entries; pair 63 stands in the second state. -/
def ringPar : Bytes := par [(0, 1, 63), (2, 2, 16), (4, 2, 4096), (8, 8, 0x5000), (0x10, 8, 0x6000), (0x18, 1, 1)]

theorem test_hyps_ring : ∀ s ∈ [up, upFn fun x => { x with pairs := x.pairs ++ [(63, pair16)] }],
    host.issuer = .fn 0 0 ∧ (pairOf s 0 0).isSome = true ∧
    Starts ⟨host, 0x0105, .ringCreate host ringPar, false, [(1, 1), (0x19, 23)], ringPar⟩ s ∧
    (
      let b := ringPar
      let r := getLE b 0 1
     1 ≤ r ∧ r ≤ 63 ∧ 16 ≤ getLE b 2 2 ∧ getLE b 2 2 ≤ 4096 ∧ 16 ≤ getLE b 4 2 ∧ getLE b 4 2 ≤ 4096 ∧
      getLE b 6 2 < vectors (0 : Fin 64) ∧ getLE b 8 8 % 4096 = 0 ∧ getLE b 0x10 8 % 4096 = 0 ∧ getLE b 0x18 1 ≤ 1) := by
  unfold Starts
  decide +kernel

theorem test_hyps_ring_stands : pairOf up 0 63 = none ∧
    (
      let s := upFn fun x => { x with pairs := x.pairs ++ [(63, pair16)] }
      let b := par [(0, 1, 63)]
      (pairOf s 0 63).isSome = true ∧ Starts ⟨host, 0x0106, .ringDelete host b, false, [(1, 47)], b⟩ s ∧
      (∀ o ∈ s.host.outst, Outst.is host o = false) ∧ 1 ≤ getLE b 0 1 ∧ getLE b 0 1 ≤ 63 ∧ getLE b 0 1 ≠ (0 : Fin 64).val ∧
      (pairOf s 0 (getLE b 0 1)).isSome = true ∧ (∀ o ∈ s.host.outst, o.wait ≠ .ringDelete (getLE b 0 1)) ∧
      pairBusy s 0 (getLE b 0 1) host = false) := by
  unfold Starts
  decide +kernel

/-- Values out of range, and deletions of pair 0, of no pair, of the pair itself and of one with a command outstanding. -/
theorem test_hyps_ring_refused :
    (∀ b ∈ [par [(0, 1, 64)], setLE ringPar 2 2 15, setLE ringPar 8 8 0x5001],
      Starts ⟨host, 0x0105, .ringCreate host b, false, [(1, 1), (0x19, 23)], b⟩ up ∧
        ¬ (1 ≤ getLE b 0 1 ∧ getLE b 0 1 ≤ 63 ∧ 16 ≤ getLE b 2 2 ∧ getLE b 8 8 % 4096 = 0)) ∧
    (∀ r ∈ [0, 64, 1],
      let b := par [(0, 1, r)]
      Starts ⟨host, 0x0106, .ringDelete host b, false, [(1, 47)], b⟩ up ∧ getLE b 0 1 = r ∧ pairOf up 0 1 = none) ∧
    (let k : Src := ⟨.fn 0 63, 7, false, none⟩
     let s := upFn fun x => { x with pairs := x.pairs ++ [(63, pair16)] }
     let b := par [(0, 1, 63)]
     k.issuer = .fn 0 63 ∧ Starts ⟨k, 0x0106, .ringDelete k b, false, [(1, 47)], b⟩ s ∧ pairOf s 0 63 = some pair16 ∧
       pairBusy s 0 63 k = false ∧
       (let t := { s with host := { s.host with outst := [{ first with src := ⟨.fn 0 63, 6, false, none⟩ }] } }
        Starts ⟨host, 0x0106, .ringDelete host b, false, [(1, 47)], b⟩ t ∧ pairOf t 0 63 = some pair16 ∧
          pairBusy t 0 63 host = true ∧ ∀ o ∈ t.host.outst, o.wait ≠ .ringDelete 63)) := by
  unfold Starts
  decide +kernel

/-- Function 64; function 17 reset by itself and by its PF, and function 16 by a VF of another port. -/
theorem test_hyps_fn_reset : ∀ x ∈ [(⟨.fn 0 0, 7, false, none⟩, 64), (⟨.fn 17 0, 7, false, none⟩, 17),
      (⟨.fn 16 0, 7, false, none⟩, 17), ((⟨.fn 33 0, 7, false, none⟩ : Src), 16)],
    let p := par [(0, 1, x.2)]
    Starts ⟨x.1, 0x0103, .fnReset x.1 p, false, [(1, 47)], p⟩ up ∧ getLE p 0 1 = x.2 ∧
      (x.2 = 16 → srcOwner up x.1 = false ∧ x.1.issuer = .fn 33 0 ∧ ¬ ((33 : Fin 64).val % 16 = 0 ∧ 16 / 16 = (33 : Fin 64).val / 16)) ∧
      (x.2 = 17 → x.1.issuer = .fn 17 0 ∨ x.1.issuer = .fn 16 0 ∧ (16 : Fin 64).val % 16 = 0 ∧ 17 / 16 = (16 : Fin 64).val / 16) := by
  unfold Starts
  decide +kernel

theorem test_hyps_reset : bmc.issuer = .sideband ∧ (48 : Fin 64).val % 16 = 0 ∧ up.pkg.pwrGood = true ∧
    State.reset.pkg.pwrGood = false ∧
    Starts ⟨bmc, 0x0103, .fnReset bmc (par [(0, 1, 63)]), false, [(1, 47)], par [(0, 1, 63)]⟩ up ∧
    getLE (par [(0, 1, 63)]) 0 1 ≤ 63 ∧ Starts ⟨bmc, 0x0104, .moduleReset bmc [], true, [(0, 48)], []⟩ up ∧
    (63 : Fin 64).val % 16 ≠ 0 := by
  unfold Starts
  decide +kernel

/-- Function 0 and the sideband have every right to `thing` on `up`. -/
theorem test_hyps_thing : ∀ n ∈ [1, 2, 3], ∀ k ∈ [host, bmc], cmdObj (withObj thing up) k h1 n = .ok thing := by
  simp only [List.forall_mem_cons, List.not_mem_nil, false_imp_iff, implies_true, and_true]
  exact ⟨⟨rfl, rfl⟩, ⟨rfl, rfl⟩, rfl, rfl⟩

theorem test_hyps_firmware :
    (
      let p := par [(0, 8, h1)]
      Starts ⟨host, 0x0107, .fwCommit host p, true, [(8, 40)], p⟩ (withObj thing up) ∧
        (withObj thing up).host.fwAct = none ∧ getLE p 0 8 = h1) ∧
    (∀ run ∈ [false, true],
      let s := { up with jig := { up.jig with running := run } }
      Starts ⟨host, 0x0108, .fwActivate host (par []), true, [(1, 7), (0x10, 32)], par []⟩ s ∧ s.host.fwAct = none ∧
        getLE (par []) 0 1 = 0 ∧ s.jig.running = run) ∧
    (∀ a ∈ [(⟨2, 100, none, none⟩ : FwAct), ⟨0, 0, some 50, some host⟩],
      let s := { up with host := { up.host with fwAct := some a } }
      s.host.fwAct = some a ∧ (a.mode = 2 ∧ a.holdFrom = none ∨ a.mode = 0 ∧ a.holdFrom = some 50 ∧ a.src = some host) ∧
        ∀ o ∈ s.host.outst, o.wait ≠ .held) := by
  unfold Starts
  decide +kernel

/-- A second activation, modes 1, 2 and 3, and a switch that comes in the middle of the cycle, or at once in mode
IMMEDIATE; an image of the right magic. -/
theorem test_hyps_firmware_cases :
    (let s := { (withObj thing up) with host := { up.host with fwAct := some ⟨2, 100, none, none⟩ } }
     let p := par [(0, 8, h1)]
     s.host.fwAct ≠ none ∧ Starts ⟨host, 0x0107, .fwCommit host p, true, [(8, 40)], p⟩ s ∧
       Starts ⟨host, 0x0108, .fwActivate host (par []), true, [(1, 7), (0x10, 32)], par []⟩ s) ∧
    (∀ m ∈ [1, 2, 3], ∀ s ∈ [up, running],
      let p := par [(0, 1, m), (8, 8, 100)]
      Starts ⟨host, 0x0108, .fwActivate host p, true, [(1, 7), (0x10, 32)], p⟩ s ∧ getLE p 0 1 = m ∧ s.host.fwAct = none) ∧
    (∀ m ∈ [0, 1, 2],
      let s := { running with
        host := { running.host with fwAct := some ⟨m, 0, some 50, none⟩ }
        jig := { running.jig with visit := 1 } }
      s.host.fwAct = some ⟨m, 0, some 50, none⟩ ∧ s.jig.running = true ∧ ¬ (s.jig.pos = 0 ∧ s.jig.visit = 0) ∧
        ∀ o ∈ s.host.outst, o.wait ≠ .held) ∧
    getLE (objRead { thing with mem := cells [(0, 0x55), (1, 0x58), (2, 0x46), (3, 0x57)] } 0 8) 0 4 = 0x5746_5855 := by
  unfold Starts
  decide +kernel

/-- What the check of an image's bytes finds is free: either case may hold. -/
theorem test_hyps_fw_image (b : Bytes) : Config.fwImage b = none ∨ ∃ v, Config.fwImage b = some v := by
  cases Config.fwImage b
  · exact .inl rfl
  · exact .inr ⟨_, rfl⟩

/-! ### Hypotheses: fetching, links (O16, O17) -/

theorem test_hyps_fetch : fetches up 0 0 = true ∧ pairOf up 0 0 = some pair16 ∧ packetPasses up (.fn 0 0) packet = true ∧
    getLE packet 0 2 = 0x0101 ∧ (fnOf up 0).quarantine = false ∧ zeroAt (packetParams packet) [(8, 40)] = true ∧
    (packetSrc (.fn 0 0) packet).ctx = none ∧ bit (getLE packet 2 1) 0 = false ∧ up.host.fwAct = none ∧
    (∀ o ∈ up.host.outst, o.fence = false) ∧ up.pwr.state = .active ∧
    packetPasses up (.fn 0 0) (setLE packet 9 1 1) = false := by decide +kernel

theorem test_hyps_fetch_none : fetches up 0 1 = false ∧ (∀ o ∈ up.host.outst, o.src.issuer ≠ .fn 0 0) := by decide +kernel

/-- A completion of one entry and one of two: with the last room for them, and with none left (the ring has 16 entries). -/
theorem test_hyps_completion : ∀ x ∈ [(6, 1), (7, 2)], ∀ full ∈ [0, 1],
    let c : Completion := ⟨9, 1, (List.range x.1), false⟩
    let q := { pair16 with held := [c], cqTail := 16 - x.2 + full - 1, cqHead := 0 }
    let s := upFn fun f => { f with pairs := [(0, q)], msixTable := [(16 * q.vector + 12, 0)] }
    let used := (q.cqTail + q.cqSize - q.cqHead) % max q.cqSize 1
    pairOf s 0 0 = some q ∧ q.held = c :: [] ∧ (fnOf s 0).fatal = false ∧ (linkOf s ((0 : Fin 64) / 16)).up = true ∧
      q.closing = false ∧ (6 < c.words.length ↔ x.2 = 2) ∧ (if full = 1 then q.cqSize ≤ used + x.2 else used + x.2 < q.cqSize) ∧
      (∀ o ∈ s.host.outst, o.wait ≠ .held ∧ o.wait ≠ .ringDelete 0) ∧ c.noIrq = false ∧ c.status ≠ 0 ∧
      (fnOf s 0).msixOn = true ∧ bit (tget 1 (fnOf s 0).msixTable (16 * q.vector + 12)) 0 = false := by decide +kernel

theorem test_hyps_coalescing : ∀ ctl ∈ [0, 1],
    let x := fnOf (upFn fun x => { x with coalPend := 1, coalVectors := [31], msixTable := [(16 * 31 + 12, ctl)] }) 0
    0 < x.coalPend ∧ x.msixOn = true ∧ 31 ∈ x.coalVectors ∧ bit (tget 1 x.msixTable (16 * 31 + 12)) 0 = (ctl == 1) := by
  decide +kernel

theorem test_hyps_links : (linkOf up 0).perst = false ∧ (linkOf up 3).perst = true ∧ (1 : Nat) ≤ 6 ∧
    up.pkg.pwrGood = true ∧ State.reset.pkg.pwrGood = false ∧
    (fnOf (upFn fun x => { x with dstate := .d3cold }) (16 * (0 : Fin 4) + (0 : Fin 16))).dstate = .d3cold ∧
    (let x := fnOf (upFn fun x => { x with dstate := .d3hot, pmeOn := true, wakeCause := 1 }) 0
     x.dstate = .d3hot ∧ x.pmeOn = true ∧ x.wakePending = false ∧ x.wakeCause ≠ 0) := by decide +kernel

/-! ### Hypotheses: objects and memory tiers (O18 to O22) -/

theorem test_hyps_create : ∀ n ∈ [1, 64 * gib],
    let p := par [(0, 8, n), (8, 1, 1), (9, 1, 3), (0x0A, 2, 0xFFFF)]
    Starts ⟨host, 0x0701, .objCreate host p, false, [(0x0C, 36)], p⟩ up ∧ 1 ≤ getLE p 0 8 ∧ getLE p 0 8 ≤ 64 * gib ∧
      getLE p 8 1 ≤ 1 ∧ getLE p 9 1 ≤ 3 ∧ getLE p 0x0A 2 = 0xFFFF ∧
      (n = 1 → (getLE p 0 8 + 65535) / 65536 * 65536 ≤ slackFree up) ∧
      (getLE p 0 8 + 16383) / 16384 * 16384 ≤ flashFree up ∧ (liveObjs up).length < 4194303 := by
  unfold Starts
  decide +kernel

/-- Sizes 0 and 64 GiB + 1, kind 2 and home 4; a context of nobody; objects of 64 GiB of both kinds with the GDDR7 full, and
a PERSISTENT one with the flash full. -/
theorem test_hyps_create_refused :
    (∀ x ∈ [(0, 0, 0), (64 * gib + 1, 0, 0), (1, 2, 0), (1, 0, 4)],
      let p := par [(0, 8, x.1), (8, 1, x.2.1), (9, 1, x.2.2)]
      Starts ⟨host, 0x0701, .objCreate host p, false, [(0x0C, 36)], p⟩ up ∧
        ¬ (1 ≤ getLE p 0 8 ∧ getLE p 0 8 ≤ 64 * gib ∧ getLE p 8 1 ≤ 1 ∧ (getLE p 9 1 ≤ 3 ∨ getLE p 9 1 = 0xFF))) ∧
    (let p := par [(0, 8, 1), (0x0A, 2, 4095)]
     Starts ⟨host, 0x0701, .objCreate host p, false, [(0x0C, 36)], p⟩ up ∧ getLE p 0x0A 2 ≠ 0xFFFF ∧
       (ctxOf up (getLE p 0x0A 2)).state = .free) ∧
    (∀ k ∈ [0, 1],
      let p := par [(0, 8, 64 * gib), (8, 1, k), (0x0A, 2, 0xFFFF)]
      let s := withObj { thing with size := 2 ^ 38 } up
      Starts ⟨host, 0x0701, .objCreate host p, false, [(0x0C, 36)], p⟩ s ∧
        slackFree s < (getLE p 0 8 + 65535) / 65536 * 65536 ∧
        (getLE p 0 8 + 16383) / 16384 * 16384 ≤ flashFree s ∧ (liveObjs s).length < 4194303) ∧
    (let p := par [(0, 8, 1), (0x0A, 2, 0xFFFF)]
     let s := withObj { thing with size := 2 ^ 50 } up
     Starts ⟨host, 0x0701, .objCreate host p, false, [(0x0C, 36)], p⟩ s ∧
       flashFree s < (getLE p 0 8 + 16383) / 16384 * 16384) := by
  unfold Starts
  decide +kernel

/-- A handle of no object, another function's object that this one may read, and one it may not. -/
theorem test_hyps_owner_refused :
    (let p := par [(0, 8, h2)]
     Starts ⟨host, 0x0702, .objDestroy host p, false, [(8, 40)], p⟩ held1 ∧ isErr sObjUnknown (cmdObj held1 host h2 3) = true) ∧
    (∀ g ∈ [[], [(1, true)]],
      let k : Src := ⟨.fn 1 0, 7, false, none⟩
      let s := withObj { thing with grants := g } up
      let p := par [(0, 8, h1)]
      Starts ⟨k, 0x0702, .objDestroy k p, false, [(8, 40)], p⟩ s ∧ Starts ⟨k, 0x070A, .objGrant k p, false, [(0x0A, 38)], p⟩ s ∧
        Starts ⟨k, 0x070B, .objRevoke k p, false, [(9, 39)], p⟩ s ∧
        isErr (if g = [] then sObjUnknown else sDenied) (cmdObj s k h1 3) = true) := by
  unfold Starts
  decide +kernel

/-- A pinned object is not destroyed; a grant to function 64, of right 2, and a ninth one. -/
theorem test_hyps_owner_busy :
    (let o := { thing with pinRefs := 1 }
     let p := par [(0, 8, h1)]
     Starts ⟨host, 0x0702, .objDestroy host p, false, [(8, 40)], p⟩ (withObj o up) ∧ isOk o (cmdObj (withObj o up) host h1 3) = true ∧
       isPinned (withObj o up) h1 o = true) ∧
    (∀ x ∈ [(64, 0), (1, 2), (9, 1)],
      let o := { thing with grants := (List.range 8).map fun i => (i + 1, false) }
      let s := withObj o up
      let p := par [(0, 8, h1), (8, 1, x.1), (9, 1, x.2)]
      let r := par [(0, 8, h1), (8, 1, x.1)]
      Starts ⟨host, 0x070A, .objGrant host p, false, [(0x0A, 38)], p⟩ s ∧ isOk o (cmdObj s host h1 3) = true ∧
        Starts ⟨host, 0x070B, .objRevoke host r, false, [(9, 39)], r⟩ s ∧ (x.1 = 64 → 63 < getLE r 8 1) ∧
        (x.1 = 9 → getLE p 8 1 ≤ 63 ∧ getLE p 9 1 ≤ 1 ∧ 8 ≤ (o.grants.filter fun g => g.1 != getLE p 8 1).length)) := by
  unfold Starts
  decide +kernel

theorem test_hyps_destroy :
    let p := par [(0, 8, h1)]
    Starts ⟨host, 0x0702, .objDestroy host p, false, [(8, 40)], p⟩ held1 ∧ getLE p 0 8 = h1 ∧
      isPinned held1 h1 thing = false ∧ inVersion held1 h1 = false ∧ heldByCapture held1 h1 = false ∧
      inManifest held1 h1 = false := by
  unfold Starts
  decide +kernel

/-- A grant to function 63, the object then holding its eighth grant, and its revocation. -/
theorem test_hyps_grant :
    let p := par [(0, 8, h1), (8, 1, 63), (9, 1, 1)]
    let o := { thing with grants := (List.range 7).map fun i => (i + 1, false) }
    getLE p 0 8 = h1 ∧ getLE p 8 1 ≤ 63 ∧ o.ownerFn ≠ getLE p 8 1 ∧
      Starts ⟨host, 0x070A, .objGrant host p, false, [(0x0A, 38)], p⟩ (withObj o up) ∧ getLE p 9 1 ≤ 1 ∧
      (o.grants.filter fun g => g.1 != getLE p 8 1).length < 8 ∧
      let r := par [(0, 8, h1), (8, 1, 1)]
      Starts ⟨host, 0x070B, .objRevoke host r, false, [(9, 39)], r⟩ (withObj o up) ∧ getLE r 8 1 ≤ 63 ∧
        o.ownerFn ≠ getLE r 8 1 := by
  unfold Starts
  decide +kernel

/-- The last four bytes of the object, with and without the durable flag, and of an object that stands in flash. -/
theorem test_hyps_obj_bytes : ∀ st ∈ [ObjState.resident, .flash], ∀ k ∈ [0, 1],
    let s := withObj { thing with state := st } up
    let p := par [(0, 8, h1), (8, 8, 2 ^ 20 - 4), (0x10, 4, 4), (0x14, 1, k)]
    let r := par [(0, 8, h1), (8, 8, 2 ^ 20 - 4), (0x10, 4, 4), (0x18, 8, 0x8000)]
    let d : Bytes := [1, 2, 3, 4]
    1 ≤ getLE p 0x10 4 ∧ getLE p 0x10 4 ≤ 16 * mib ∧ getLE p 8 8 + getLE p 0x10 4 ≤ thing.size ∧
      Memory.wf thing.mem = true ∧ Memory.wf thing.durable = true ∧ d.length = getLE p 0x10 4 ∧ getLE p 0x14 1 ≤ 1 ∧
      Starts ⟨host, 0x0703, .objWrite host p (some d), false, [(0x15, 3), (0x20, 16)], p⟩ s ∧
      Starts ⟨host, 0x0704, .objRead host r, false, [(0x14, 4), (0x20, 16)], r⟩ s ∧
      poisonedIn { thing with state := st } (getLE r 8 8) (getLE r 0x10 4) = false := by
  unfold Starts
  decide +kernel

/-- Flag 2; 16 MiB + 1, no bytes at the end, one byte past the end, and a poisoned line. -/
theorem test_hyps_obj_bytes_refused : ∀ x ∈ [(2, 0, 1), (0, 0, 16 * mib + 1), (0, 2 ^ 20, 0), (0, 2 ^ 20, 1), (1, 2 ^ 20 - 1, 1)],
    let o := { thing with poisoned := [4095] }
    let s := withObj o up
    let p := par [(0, 8, h1), (8, 8, x.2.1), (0x10, 4, x.2.2), (0x14, 1, x.1)]
    let r := par [(0, 8, h1), (8, 8, x.2.1), (0x10, 4, x.2.2)]
    (∀ d ∈ [none, some [1]], Starts ⟨host, 0x0703, .objWrite host p d, false, [(0x15, 3), (0x20, 16)], p⟩ s) ∧
      Starts ⟨host, 0x0704, .objRead host r, false, [(0x14, 4), (0x20, 16)], r⟩ s ∧
      (x.1 = 2 ↔ 1 < getLE p 0x14 1) ∧
      (x.1 = 0 → 16 * mib < getLE p 0x10 4 ∨ (getLE p 0x10 4 = 0 ∧ getLE p 8 8 ≤ o.size) ∨
        (getLE p 0x10 4 ≤ 16 * mib ∧ o.size < getLE p 8 8 + getLE p 0x10 4)) ∧
      (x.1 = 1 → 1 ≤ getLE p 0x10 4 ∧ getLE p 8 8 + getLE p 0x10 4 ≤ o.size ∧
        poisonedIn o (getLE p 8 8) (getLE p 0x10 4) = true) := by
  unfold Starts
  decide +kernel

/-- An operation of 8 B that exists in 4 B only, an offset that is not aligned and one past the end, a poisoned line, and
objects on their way or in FLASH. -/
theorem test_hyps_atomic_cases :
    (∀ x ∈ [(1, 8, 0), (5, 4, 0), (0, 4, 2), (0, 8, 2 ^ 20), (0, 4, 2 ^ 20 - 4)],
      let o := { thing with poisoned := [4095] }
      let p := par [(0, 8, h1), (8, 8, x.2.2), (0x10, 1, x.1), (0x11, 1, x.2.1)]
      Starts ⟨host, 0x070C, .objAtomic host p, false, [(0x12, 6), (0x28, 8)], p⟩ (withObj o up) ∧
        (¬ (x.1 ≤ 4 ∧ (x.2.1 = 4 ∨ x.2.1 = 8 ∧ x.1 ∉ [1, 2])) ∨ o.size < getLE p 8 8 + x.2.1 ∨ getLE p 8 8 % x.2.1 ≠ 0 ∨
          poisonedIn o (getLE p 8 8) x.2.1 = true)) ∧
    (∀ st ∈ [ObjState.demoting, .flash, .promoting],
      let s := withObj { thing with state := st } up
      let p := par [(0, 8, h1), (8, 8, 2 ^ 20 - 4), (0x11, 1, 4)]
      Starts ⟨host, 0x070C, .objAtomic host p, false, [(0x12, 6), (0x28, 8)], p⟩ s ∧
        poisonedIn { thing with state := st } (getLE p 8 8) 4 = false) := by
  unfold Starts
  decide +kernel

theorem test_hyps_flash_thing : cmdObj (withObj { thing with state := .flash } up) host h1 2 =
    .ok { thing with state := .flash } ∧ cmdObj (withObj { thing with scratch := true } up) host h1 2 =
    .ok { thing with scratch := true } := ⟨rfl, rfl⟩

/-- A 4 B minimum and an 8 B compare-and-swap, each in the object's last aligned place. -/
theorem test_hyps_atomic : ∀ x ∈ [(1, 4), (4, 8)],
    let p := par [(0, 8, h1), (8, 8, 2 ^ 20 - x.2), (0x10, 1, x.1), (0x11, 1, x.2), (0x18, 8, 3)]
    Starts ⟨host, 0x070C, .objAtomic host p, false, [(0x12, 6), (0x28, 8)], p⟩ held1 ∧ getLE p 0x10 1 ≤ 4 ∧
      (getLE p 0x11 1 = 4 ∨ getLE p 0x11 1 = 8 ∧ getLE p 0x10 1 ∉ [1, 2]) ∧ getLE p 8 8 % getLE p 0x11 1 = 0 ∧
      getLE p 8 8 + getLE p 0x11 1 ≤ thing.size ∧ poisonedIn thing (getLE p 8 8) (getLE p 0x11 1) = false ∧
      thing.state = .resident ∧ Memory.wf thing.mem = true := by
  unfold Starts
  decide +kernel

theorem test_hyps_pins :
    let p := par [(0, 8, h1)]
    getLE p 0 8 = h1 ∧ thing.state = .resident ∧
      Starts ⟨host, 0x0705, .objQuery host p, false, [(8, 40)], p⟩ held1 ∧
      Starts ⟨host, 0x0706, .objPin host p, false, [(8, 40)], p⟩ held1 ∧ pinCount thing < 255 ∧
      Starts ⟨host, 0x0708, .objPromote host p, false, [(8, 40)], p⟩ held1 ∧
      Starts ⟨host, 0x0707, .objUnpin host p, false, [(8, 40)], p⟩ held1 ∧ thing.pinRefs = 0 ∧
      0 < ({ thing with pinRefs := 1 } : Obj).pinRefs ∧
      (let o := { thing with pinRefs := 1, role := .version 0 0 }
       o.role = .version 0 0 ∧ o.pinRefs = 1 ∧ inVersion (withObj o up) h1 = false) := by
  unfold Starts
  decide +kernel

/-- 255 references; objects on their way; one in FLASH for which there is no room, and one for which there is; the last
reference to a training object without its context. -/
theorem test_hyps_pin_cases :
    let p := par [(0, 8, h1)]
    (∀ o ∈ [{ thing with pinRefs := 255 }, { thing with state := .demoting }, { thing with state := .promoting },
        { thing with state := .flash }, { thing with state := .flash, size := 2 ^ 50 }, { thing with pinRefs := 2 },
        { thing with pinRefs := 1, role := .training 0 0 }],
      let s := withObj o up
      isOk o (cmdObj s host h1 1) = true ∧ Starts ⟨host, 0x0706, .objPin host p, false, [(8, 40)], p⟩ s ∧
        Starts ⟨host, 0x0708, .objPromote host p, false, [(8, 40)], p⟩ s ∧
        Starts ⟨host, 0x0707, .objUnpin host p, false, [(8, 40)], p⟩ s ∧ (o.pinRefs = 255 → 255 ≤ pinCount o) ∧
        (o.state = .flash → if o.size = 2 ^ 50 then mostRoom s o < gddrBytes o else gddrBytes o ≤ mostRoom s o ∧
          gddrBytes o ≤ roomFor s o) ∧
        (o.role = .training 0 0 → o.pinRefs = 1 ∧ o.sysPins = 0 ∧ heldByCapture s h1 = false ∧ o.ownerCtx = none)) := by
  unfold Starts
  decide +kernel

theorem test_hyps_plain : ∀ c g, thing.role ≠ .version c g := by
  intro c g
  simp [thing, Obj.free]

theorem test_hyps_demote : ∀ d ∈ [false, true],
    let o := { thing with dirty := d }
    let s := withObj o up
    let p := par [(0, 8, h1)]
    Starts ⟨host, 0x0709, .objDemote host p, false, [(8, 40)], p⟩ s ∧ o.scratch = false ∧ isPinned s h1 o = false ∧
      isProtected s o = false ∧ o.planned = false ∧ o.state = .resident ∧ o.dirty = d := by
  unfold Starts
  decide +kernel

theorem test_hyps_demote_cases : ∀ o ∈ [{ thing with scratch := true }, { thing with pinRefs := 1 }, { thing with planned := true },
      { thing with state := .demoting }, { thing with state := .flash }, { thing with state := .promoting }],
    let s := withObj o up
    let p := par [(0, 8, h1)]
    Starts ⟨host, 0x0709, .objDemote host p, false, [(8, 40)], p⟩ s ∧ isOk o (cmdObj s host h1 2) = true ∧
      (o.pinRefs = 1 ↔ isPinned s h1 o = true) ∧ isProtected s o = false := by
  unfold Starts
  decide +kernel

theorem test_hyps_moves : ∀ st ∈ [ObjState.demoting, .promoting],
    let o := { thing with state := st }
    findObj (withObj o up) h1 = some o ∧ o.state = st ∧ o.scratch = false ∧
      ∀ x ∈ (withObj o up).host.outst, x.wait = .started ∨ x.wait = .done := by decide +kernel

theorem test_hyps_flush : ∀ l ∈ [0, 1],
    let p := par [(0, 1, l), (8, 8, h1)]
    let i : CmdInfo := ⟨host, 0x0102, .flush host p, false, [(1, 7), (0x10, 32)], p⟩
    Starts i held1 ∧ getLE p 0 1 ≤ 1 ∧ getLE p 8 8 ≠ 0 ∧ findObj held1 (getLE p 8 8) = some thing ∧
      2 ≤ fnRights (srcFn held1 host) thing ∧ earlier host (enlist i held1).host.outst = false := by
  unfold Starts
  decide +kernel

/-- Level 2; a handle of no object; a command outstanding before it; every object at once. -/
theorem test_hyps_flush_cases : ∀ x ∈ [(2, h1), (1, h2), (1, 0), (1, h1)],
    let p := par [(0, 1, x.1), (8, 8, x.2)]
    let i : CmdInfo := ⟨host, 0x0102, .flush host p, false, [(1, 7), (0x10, 32)], p⟩
    let s := { held1 with host := { held1.host with outst := [first] } }
    mustHold i (enlist i s) = false ∧ turnedAway i (enlist i s) = none ∧ earlier host (enlist i s).host.outst = true ∧
      (x.2 = h2 → findObj s h2 = none) ∧ (x.2 ≠ h2 → findObj s h1 = some thing ∧ 2 ≤ fnRights (srcFn s host) thing) := by
  decide +kernel

/-- The pages of an object in stripes 5 and 6, without and with a die that had failed when they were laid out. -/
theorem test_hyps_stripes : ∀ l ∈ [[], [(17, 1)]],
    let o := { thing with stripe := some 5, stripeSkip := l }
    objPages o = 64 ∧ (pageAddr o 0).isSome = true ∧ (pageStripe o 0).isSome = true ∧ (pageAddr o 63).isSome = true := by
  decide +kernel

/-- A die of channel 0 fails while die 3 of channel 15 is rebuilt: both hold pages of a stripe of the object. -/
theorem test_hyps_second_die :
    let o := { thing with state := .flash, stripe := some 0 }
    let s0 := withObj o up
    let s := { s0 with mem := { s0.mem with flashFailed := [(15, 0)], rebuilding := [(15, 0)] } }
    ((0 : Fin 128).val, (0 : Fin 4).val) ∉ s.mem.flashFailed ∧ (15, 0) ∈ s.mem.rebuilding ∧
      (15 / 16 = (0 : Fin 128).val / 16) ∧ inFlash o = true ∧ lostPages o 15 (0 : Fin 128) (0 : Fin 4) ≠ [] ∧
      findObj s h1 = some o := by decide +kernel

theorem test_hyps_tiers :
    let o := { thing with poisoned := [0] }
    findObj (withObj o up) h1 = some o ∧ 0 ∈ o.poisoned ∧ o.scratch = false ∧ o.dirty = false ∧
      Memory.wf o.mem = true ∧ ((127 : Fin 128).val, (3 : Fin 4).val) ∉ up.mem.flashFailed ∧
      (127, 3) ∈ ({ up.mem with rebuilding := [(127, 3)] } : MemSt).rebuilding ∧ up.pwr.state = .active ∧
      (let blocks : Tab Block := [(blockKey 127 3 65535, { freshBlock with erases := 301 })]
       (tget freshBlock blocks (blockKey 127 3 0)).erases + 300 < (tget freshBlock blocks (blockKey 127 3 65535)).erases) := by
  decide +kernel

/-! ### Hypotheses: package, power, sideband (O23 to O33) -/

theorem test_hyps_power_good : State.reset.pkg.pwrGood = false ∧ State.reset.pkg.uvArmed = true ∧
    findObj (withObj thing up) h1 = some thing ∧ thing.scratch = false := by decide +kernel

/-- The comparator not armed, and a module that a protective condition keeps in DEEP; OFF, where rows hold nothing. -/
theorem test_hyps_power_cases :
    (let s := { State.reset with pkg := { State.reset.pkg with uvArmed := false } }
     s.pkg.uvArmed = false ∧ s.pkg.pwrGood = false) ∧
    (let s := { State.reset with pwr := { State.reset.pwr with state := .deep } }
     s.pkg.pwrGood = false ∧ s.pkg.uvArmed = true ∧ s.pwr.state = .deep) ∧
    ({ up with pwr := { up.pwr with state := .off } } : State).pwr.state = .off ∧
    findObj (withObj { thing with scratch := true } up) h1 = some { thing with scratch := true } := by decide +kernel

/-- Firmware runs; a module put to sleep by a low flow, with both wakes enabled, and what keeps it there. -/
theorem test_hyps_comparators : ∀ q ∈ [ProtectRow.inletHigh, .inletTooHigh, .flowLow, .flowTooLow, .flowLost],
    let s := { asleep with pwr := { asleep.pwr with entryCause := some q } }
    up.host.ready = true ∧ up.pwr.state = .active ∧ s.pwr.state = .sleep ∧ s.pwr.entering = none ∧ s.pwr.waking = false ∧
      s.pkg.latches = [] ∧ bit s.pwr.wakeEn.toNat 3 = true ∧ s.pwr.entryCause = some q ∧ ((39 : Nat) < 40 ∨ 90 < (90 : Nat)) ∧
      ((40 : Nat) < 40 ∨ 90 < (91 : Nat)) := by decide +kernel

/-- An entry under way, one to DEEP that is due, and DEEP with and without a wake under way. -/
theorem test_hyps_severe :
    (let s := { up with pwr := { up.pwr with entering := some (.sleep, true) } }
     s.pwr.state = .active ∧ s.pwr.entering ≠ none) ∧
    (let s := { running with pwr := { running.pwr with entryDue := some (.deep, true) } }
     s.pwr.state = .active ∧ s.pwr.entryDue = some (.deep, true) ∧ (s.pwr.entryDue.map (·.1)) = some .deep) ∧
    (up.jig.running = false ∧ up.pwr.entering = none ∧ (up.pwr.entryDue.map (·.1)) ≠ some .deep) ∧
    (let s := { up with pwr := { up.pwr with state := .deep, waking := true }, pkg := { up.pkg with rails := false } }
     s.pwr.state ≠ .off ∧ s.pwr.waking = true ∧ s.pwr.entering = none ∧ s.pkg.rails = false ∧ s.pwr.state = .deep) := by
  decide +kernel

theorem test_hyps_protect : running.pwr.state = .active ∧ running.jig.running = true ∧ running.pwr.entering = none ∧
    running.pwr.entryDue = none ∧ running.pkg.rails = true ∧ (40 : Nat) ≤ 40 ∧ (90 : Nat) ≤ 90 ∧
    (let s := { up with pwr := { up.pwr with entryDue := some (.sleep, false) } }
     s.pwr.state = .active ∧ s.pwr.entryDue = some (.sleep, false)) := by decide +kernel

/-- A package that finds no image, a pattern test that fails on a wire, and one that finds nothing. -/
theorem test_hyps_start : ∀ n ∈ [1, 2],
    let s := { up with dvl := { up.dvl with step := n } }
    let b : BootRecords := ⟨none, none, 0, none, 0⟩
    s.dvl.step = n ∧ s.pkg.causesDue = [] ∧ b.fw = none ∧ (⟨[], true, false⟩ : TestResult).wireFail = true ∧
      (⟨[], false, false⟩ : TestResult).wireFail = false ∧ (⟨[], false, false⟩ : TestResult).lanes = [] := by decide +kernel

/-- An image found; two failed wavelengths of a bundle, which its spares replace, and three; other steps. -/
theorem test_hyps_start_cases :
    (let b : BootRecords := ⟨some 3, none, 9, none, 0⟩
     b.fw = some 3) ∧ up.dvl.step ≠ 1 ∧ up.dvl.step ≠ 2 ∧
    (∀ l ∈ [[0, 33], [0, 1, 33]],
      let r : TestResult := ⟨[(103, l)], false, false⟩
      r.wireFail = false ∧ ((∃ e ∈ laneTable r, 2 < e.2.length) ↔ l.length = 3)) ∧
    (∀ run ∈ [false, true],
      let s := { up with dbg := { up.dbg with lanes := [(103, [32, 4])] }, jig := { up.jig with running := run } }
      s.pwr.state = .active ∧ (33 : Fin 34).val ∉ tget [] s.dbg.lanes (103 : Fin 104) ∧
        2 ≤ (tget [] s.dbg.lanes (103 : Fin 104)).length ∧ s.jig.running = run) := by decide +kernel

/-- The last wavelength of the last bundle, with one spare taken already. -/
theorem test_hyps_wavelength :
    let s := { up with dbg := { up.dbg with lanes := [(103, [32])] } }
    s.pwr.state = .active ∧ (33 : Fin 34).val ∉ tget [] s.dbg.lanes (103 : Fin 104) ∧
      (tget [] s.dbg.lanes (103 : Fin 104)).length < 2 := by decide +kernel

theorem test_hyps_dies : (1020 : Nat) ≤ 1020 ∧ 16 < (dieOf { up with pwr := { up.pwr with dies := [(3,
      { dieOf up 3 with clock := 17 })] } } (3 : Fin 4)).clock ∧ up.pwr.state = .active ∧
    (∀ e ∈ up.tile.tiles, e.1 / 64 = (3 : Fin 4).val → e.2.prog = none) ∧ (4099 : Nat) < 4100 := by decide +kernel

/-- A die without programs, and one whose tile runs one; 41 V and just below. -/
theorem test_hyps_naps : programSoon 0 up = false ∧ programSoon 3 up = false ∧ ¬ (4100 : Nat) < 4100 ∧
    (let s := { up with tile := { up.tile with tiles := [(255, { TileSt.reset with prog := some (0, 0, []) })] } }
     ¬ ∀ e ∈ s.tile.tiles, e.1 / 64 = (3 : Fin 4).val → e.2.prog = none) := by decide +kernel

/-- A plan within the limits; a bank running; a need beyond a limit; a first run since a wake; a module asleep. -/
theorem test_hyps_replan_cases :
    (let q := up.pwr.plan
     (∀ d ∈ List.range 4, 15 ≤ q.guardBand.getD d 0 ∧ q.guardBand.getD d 0 ≤ 60) ∧ 48 ≤ q.corrBits ∧ q.corrBits ≤ 96 ∧
       2 ≤ q.retryLevel ∧ q.retryLevel ≤ 5 ∧ 30 ≤ q.retentionDays ∧ q.retentionDays ≤ 90 ∧ 1 ≤ q.calPeriodMs ∧
       q.calPeriodMs ≤ 4 ∧ (∀ e ∈ q.laserCeil, 100 ≤ e.2 ∧ e.2 ≤ 130) ∧ 20 ≤ q.eyeMargin ∧ q.eyeMargin ≤ 50) ∧
    running.pwr.state = .active ∧ running.jig.running = true ∧ beyond ⟨[61], [], 47, 0, 0, 0, [], 0, []⟩ ≠ [] ∧
    ({ up with pwr := { up.pwr with planAtWake := true } } : State).pwr.planAtWake = true ∧ asleep.pwr.state ≠ .active ∧
    (let m : ShimMeasure := ⟨[], [], 0, 0, 0, 0, [], 0, []⟩
     mustHold ⟨host, 0x0A04, .pwrReplan host [] m, true, [(0, 48)], []⟩
         (enlist ⟨host, 0x0A04, .pwrReplan host [] m, true, [(0, 48)], []⟩ asleep) = false ∧
       turnedAway ⟨host, 0x0A04, .pwrReplan host [] m, true, [(0, 48)], []⟩
         (enlist ⟨host, 0x0A04, .pwrReplan host [] m, true, [(0, 48)], []⟩ asleep) = none) := by decide +kernel

theorem test_hyps_replan : ∀ bitsNow ∈ [48, 96],
    let s := { up with pwr := { up.pwr with plan := { up.pwr.plan with corrBits := bitsNow } } }
    let m : ShimMeasure := ⟨[], [], 0, 0, 0, 0, [], 0, []⟩
    s.pwr.state = .active ∧ s.jig.running = false ∧ s.pwr.nextPlan = none ∧ 48 ≤ s.pwr.plan.corrBits ∧
      s.pwr.plan.corrBits ≤ 96 ∧ s.pwr.planAtWake = false ∧
      Starts ⟨host, 0x0A04, .pwrReplan host [] m, true, [(0, 48)], []⟩ s := by
  unfold Starts
  decide +kernel

theorem test_hyps_pwr_state : ∀ x ∈ [(0, 0), (0, 1500), (1, 3600)],
    let p := par [(0, 1, x.1), (1, 1, 1), (4, 4, x.2)]
    Starts ⟨host, 0x0A01, .pwrState host p, true, [(2, 2), (8, 40)], p⟩ up ∧ up.pwr.state = .active ∧ getLE p 1 1 ≤ 1 ∧
      (getLE p 4 4 = 0 ∨ 1500 ≤ getLE p 4 4 ∧ getLE p 4 4 ≤ 3600) ∧ getLE p 0 1 = x.1 ∧ up.vnr.ctxs = [] ∧
      up.vnr.jobs = [] ∧ up.jig.running = false := by
  unfold Starts
  decide +kernel

/-- Target 3, flag 2 and the limits next to the allowed ones. -/
theorem test_hyps_pwr_state_bad : ∀ x ∈ [(3, 0, 0), (0, 2, 0), (0, 0, 1499), (0, 0, 3601)],
    let p := par [(0, 1, x.1), (1, 1, x.2.1), (4, 4, x.2.2)]
    Starts ⟨host, 0x0A01, .pwrState host p, true, [(2, 2), (8, 40)], p⟩ up ∧
      ¬ (getLE p 0 1 ≤ 2 ∧ getLE p 1 1 ≤ 1 ∧ (getLE p 4 4 = 0 ∨ 1500 ≤ getLE p 4 4 ∧ getLE p 4 4 ≤ 3600)) := by
  unfold Starts
  decide +kernel

/-- SLEEP and DEEP, with the flow back and without it, behind a latch whose condition has cleared or still holds, for the
host and for the sideband; and an entry with a context that runs. -/
theorem test_hyps_pwr_state_cases :
    (∀ st ∈ [PowerState.sleep, .deep], ∀ fl ∈ [false, true], ∀ l ∈ [[], [ProtectRow.leak]], ∀ hold ∈ [[], [ProtectRow.leak]],
      ∀ t ∈ [0, 1, 2], ∀ k ∈ [host, bmc],
      let s := { up with pwr := { up.pwr with state := st }, pkg := { up.pkg with flowOk := fl, latches := l, holding := hold } }
      let p := par [(0, 1, t)]
      Starts ⟨k, 0x0A01, .pwrState k p, true, [(2, 2), (8, 40)], p⟩ s ∧ s.pwr.entering = none) ∧
    (∀ f ∈ [0, 1], ∀ run ∈ [false, true], ∀ t ∈ [1, 2],
      let s := { busy with jig := { busy.jig with running := run } }
      let p := par [(0, 1, t), (1, 1, f)]
      Starts ⟨host, 0x0A01, .pwrState host p, true, [(2, 2), (8, 40)], p⟩ s ∧ (∃ e ∈ s.vnr.ctxs, activeCtx e.2 = true) ∧
        s.pwr.state = .active ∧ s.jig.running = run) := by
  unfold Starts
  decide +kernel

theorem test_hyps_pwr_alarm :
    let s := { up with now := 50, pwr := { up.pwr with rtc := 50 } }
    ∀ t ∈ [0, 1, 50, 51],
      let p := par [(0, 8, t)]
      Starts ⟨host, 0x0A02, .pwrAlarm host p, true, [(8, 40)], p⟩ s ∧
        (getLE p 0 8 = 0 ∨ (if logTime s < getLE p 0 8 then t = 51 else getLE p 0 8 ≤ logTime s)) ∧
        Starts ⟨host, 0x0A03, .pwrQuery host [], false, [(0, 48)], []⟩ s := by
  unfold Starts
  decide +kernel

theorem test_hyps_sleep :
    ({ up with pwr := { up.pwr with entering := some (.sleep, false) } } : State).pwr.entering = some (.sleep, false) ∧
    asleep.pwr.state = .sleep ∧ asleep.pkg.latches = [] ∧ bit asleep.pwr.wakeEn.toNat (8 + (3 : Fin 4)) = true ∧
    asleep.pwr.waking = false ∧ bit asleep.pwr.wakeEn.toNat 0 = true ∧
    ({ asleep with pwr := { asleep.pwr with alarm := 9 } } : State).pwr.alarm ≠ 0 ∧
    ({ asleep with pkg := { asleep.pkg with latches := [.leak] } } : State).pkg.latches ≠ [] ∧
    ({ asleep with pwr := { asleep.pwr with waking := true } } : State).pwr.waking = true ∧
    ∀ o ∈ asleep.host.outst, o.wait ≠ .held := by decide +kernel

/-- Entries to both states, planned and not, with what they take from objects; a disabled wake; wakes from both states of a
module whose self-test has passed, of one whose has not, and of one that is OUT; a PWR.STATE that waits. -/
theorem test_hyps_sleep_cases : ∀ planned ∈ [false, true],
    (let s := { withObj { thing with scratch := planned } up with pwr := { up.pwr with entering := some (.deep, planned) } }
     s.pwr.entering = some (.deep, planned) ∧ findObj s h1 = some { thing with scratch := planned }) ∧
    (let s := { asleep with
       pwr := { asleep.pwr with wakeEn := 2#32, waking := planned, state := if planned then .deep else .sleep }
       pkg := { asleep.pkg with selfTested := planned, flowOk := true }
       dvl := { asleep.dvl with step := if planned then 15 else 10 }
       host := { asleep.host with outst := [⟨bmc, .pwrState bmc [], 0x0A01, false, true, .pwrState 0⟩] } }
     bit s.pwr.wakeEn.toNat (8 + (3 : Fin 4)) = false ∧ s.pwr.entering = none ∧ s.pwr.waking = planned ∧ s.pwr.alarm = 0 ∧
       (s.pwr.state = .sleep ∨ s.pwr.state = .deep ∧ s.pkg.flowOk = true) ∧ s.pkg.selfTested = planned ∧
       (∃ w ∈ s.host.outst, w.wait = .pwrState 0) ∧ ∀ o ∈ s.host.outst, o.wait ≠ .held) := by decide +kernel

/-- The static address and another one; no address, and one given; DEEP without the flow. -/
theorem test_hyps_bus : (⟨0x2C, 8⟩ : Dasa).static = 0x2C ∧ (⟨0x2D, 8⟩ : Dasa).static ≠ 0x2C ∧
    ({ up with pkg := { up.pkg with i3cAddr := some 8 } } : State).pkg.i3cAddr ≠ none ∧
    (let s := { up with pwr := { up.pwr with state := .deep }, pkg := { up.pkg with flowOk := false } }
     s.pkg.pwrGood = true ∧ s.pwr.state = .deep ∧ ¬ (s.pwr.state = .deep → s.pkg.flowOk = true)) := by decide +kernel

theorem test_hyps_sideband : up.pkg.pwrGood = true ∧ up.pkg.i3cAddr = none ∧ up.pkg.holding = [] ∧
    State.reset.pkg.pwrGood = false ∧ asleep.pkg.pwrGood = true ∧ asleep.pwr.state = .sleep ∧
    (let s := { asleep with pkg := { asleep.pkg with latches := [.leak] } }
     ∀ r ∈ s.pkg.latches, r ∉ s.pkg.holding) ∧
    (let s := { asleep with pkg := { asleep.pkg with latches := [.leak], holding := [.leak] } }
     ∃ r ∈ s.pkg.latches, r ∈ s.pkg.holding) := by decide +kernel

theorem test_hyps_buros : up.pkg.pwrGood = true ∧ (up.host.outst.filter fun o => o.src.issuer == .sideband).length < 16 ∧
    packetPasses up .sideband (setLE packet 9 1 1) = false ∧ packetPasses up .sideband packet = true ∧
    getLE packet 0 2 = 0x0101 ∧ zeroAt (packetParams packet) [(8, 40)] = true ∧ (packetSrc .sideband packet).ctx = none ∧
    bit (getLE packet 2 1) 0 = false ∧ up.host.fwAct = none ∧ up.pwr.state = .active ∧
    (∀ o ∈ up.host.outst, o.wait ≠ .held ∧ o.fence = false) ∧
    (let full := (List.range 16).map fun i => (⟨⟨.sideband, i, false, none⟩, .identify bmc [], 0x0101, false, true, .started⟩ : Outst)
     16 ≤ (full.filter fun o => o.src.issuer == .sideband).length) := by decide +kernel

/-- OWNER.SET of PF 48 from the sideband. -/
theorem test_hyps_buros_owner :
    let e := rec64 [(0, 2, 0x0109), (4, 2, 9), (8, 1, 8), (0x10, 1, 48)]
    packetPasses up .sideband e = true ∧ (packetSrc .sideband e).ctx = none ∧ bit (getLE e 2 1) 0 = false ∧
      zeroAt (packetParams e) [(1, 47)] = true ∧ getLE (packetParams e) 0 1 = 48 := by decide +kernel

theorem test_hyps_pldm_bus : ∀ x ∈ [(none, false), (some 8, true)],
    let s := { up with pkg := { up.pkg with ibiQueue := [1], i3cAddr := x.1, hdrIgnore := x.2 } }
    s.pkg.pwrGood = true ∧ s.pkg.ibiQueue = 1 :: [] ∧ (s.pkg.i3cAddr = none ∨ s.pkg.hdrIgnore = true) := by decide +kernel

theorem test_hyps_pldm : (1 : Nat) ≤ 1 ∧ (5 : Nat) ≤ 5 ∧ (1500 : Nat) ≤ 3600 ∧
    (let s := { up with pkg := { up.pkg with ibiQueue := [1, 2], i3cAddr := some 8 } }
     s.pkg.ibiQueue = 1 :: [2] ∧ s.pkg.i3cAddr.isSome = true ∧ s.pkg.pwrGood = true) := by decide +kernel

/-! ### Hypotheses: the jig (O34 to O38) -/

theorem test_hyps_image_obj : cmdObj (withObj imageObj up) host h1 1 = .ok imageObj := by
  rfl

theorem memRead_memWrite (b : Bytes) : memRead (memWrite [] 0 b) 0 b.length = b := by
  refine List.ext_getElem (by simp [memRead]) fun i h1 h2 => ?_
  simp only [memRead, List.getElem_map, List.getElem_range, memGet_memWrite b [] 0 _ rfl]
  simp [h2, List.getD_eq_getElem?_getD]

theorem test_hyps_image_bytes : objRead imageObj 0 imageObj.size = image := memRead_memWrite image

def loads : State := withObj imageObj up

def loadPar : Bytes := par [(0, 8, h1)]

def loading : CmdInfo := ⟨host, 0x0201, .jigLoad host loadPar, true, [(9, 39)], loadPar⟩

theorem test_hyps_jig_load : Starts loading loads ∧ getLE loadPar 0 8 = h1 ∧ getLE loadPar 8 1 = 0 ∧
    loads.jig.pend = none := by
  unfold Starts
  decide +kernel

theorem test_image_crc : crc32c (setLE (image.take (imgLen image)) 0x3C 4 0) = 0x44F6_D679 :=
  (crc32c_runs 19 _).trans (by decide +kernel)

theorem loadFault_of (s : State) (bank : Tab Bytes) (b : Bytes) (size k : Nat) (h0 : getLE b 0 4 = 0x474A_5855)
    (h1 : getLE b 4 2 = 3) (h2 : within 64 size (imgLen b) = true)
    (h3 : crc32c (setLE (b.take (imgLen b)) 0x3C 4 0) = k) (h4 : getLE b 0x3C 4 = k)
    (h5 : (loadChks s bank b).findSome? firstBad = none) : loadFault s bank b size = none := by
  simp [loadFault, imageChks, firstBad, h0, h1, h2, h3, h4, h5]

/-- The image passes every check of an empty bank. -/
theorem test_hyps_jig_load_passes : loadFault (enlist loading loads) (shadowBank loads) image imageObj.size = none :=
  loadFault_of _ _ _ _ _ (by decide +kernel) (by decide +kernel) (by decide +kernel) test_image_crc (by decide +kernel)
    (by decide +kernel)

/-- With another magic number it fails at offset 0. -/
theorem test_hyps_jig_load_fails : loadFault (enlist loading loads) (shadowBank loads) (setLE image 0 1 0) imageObj.size =
    some (0x0201, 0) := by decide +kernel

/-- Flag 2; a pending switch; the clear flag; a handle of no object. -/
theorem test_hyps_jig_load_cases : ∀ x ∈ [(2, h1), (0, h1), (1, h1), (0, h2)], ∀ q ∈ [none, some ⟨50, false, none⟩],
    let p := par [(0, 8, x.2), (8, 1, x.1)]
    let s := { loads with jig := { loads.jig with pend := q } }
    Starts ⟨host, 0x0201, .jigLoad host p, true, [(9, 39)], p⟩ s ∧ getLE p 8 1 = x.1 ∧
      (x.2 = h2 → isErr sObjUnknown (cmdObj s host h2 1) = true) := by
  unfold Starts
  decide +kernel

def loaded : State := { up with jig := { up.jig with bank1 := [(0, image)] } }

/-- A switch of a bank that holds its whole cycle, and one of an empty shadow bank. -/
theorem test_hyps_jig_switch : ∀ x ∈ [(0, none), (100, none), (99, some 0x0208)],
    let s := { loaded with now := 100 }
    let t := if x.1 = 0 then 100 else x.1
    let p := par [(0, 8, t)]
    let i : CmdInfo := ⟨host, 0x0202, .jigSwitch host p, true, [(9, 39)], p⟩
    Starts i s ∧ getLE p 8 1 ≤ 1 ∧ s.jig.pend = none ∧ switchFault (enlist i s) (getLE p 0 8) (bit (getLE p 8 1) 0) = x.2 := by
  unfold Starts
  decide +kernel

/-- Flag 2, and a switch while one is pending. -/
theorem test_hyps_jig_switch_cases : ∀ x ∈ [(2, none), (0, some ⟨50, false, none⟩)],
    let p := par [(0, 8, 100), (8, 1, x.1)]
    let s := { loaded with jig := { loaded.jig with pend := x.2 } }
    Starts ⟨host, 0x0202, .jigSwitch host p, true, [(9, 39)], p⟩ s ∧ getLE p 8 1 = x.1 := by
  unfold Starts
  decide +kernel

theorem test_hyps_jig_manage :
    Starts ⟨host, 0x0203, .jigDiscard host [], true, [(0, 48)], []⟩ loaded ∧ loaded.jig.pend = none ∧
      Starts ⟨host, 0x0204, .jigQuery host [], false, [(0, 48)], []⟩ loaded ∧ loaded.jig.running = false ∧
      (let s := { loaded with jig := { loaded.jig with pend := some ⟨50, false, some host⟩ } }
       s.jig.pend = some ⟨50, false, some host⟩ ∧ Starts ⟨host, 0x0203, .jigDiscard host [], true, [(0, 48)], []⟩ s) := by
  unfold Starts
  decide +kernel

theorem test_hyps_bank_switch : ∀ l ∈ [true, false],
    let s := { loaded with
      jig := { loaded.jig with pend := some ⟨50, false, some host⟩ }
      dvl := { loaded.dvl with locked := l }
      host := { loaded.host with outst := [⟨host, .jigSwitch host [], 0x0202, false, true, .jigSwitch⟩] } }
    s.jig.pend = some ⟨50, false, some host⟩ ∧ s.jig.running = false ∧ s.vnr.ctxs = [] ∧ mayStart s = l ∧
      ∃ o ∈ s.host.outst, o.wait = .jigSwitch := by decide +kernel

/-- The image runs from time 0. -/
def frames : State := { up with jig := { up.jig with running := true, bank0 := [(0, image)] } }

/-- A boundary at which nothing else is due: with no switch, with one due then and with one due later; a module in HOLD. -/
theorem test_hyps_frame : ∀ x ∈ [(none, none), (some 1000000, some 1000000), (some 1000001, none)],
    let s := { frames with jig := { frames.jig with pend := x.1.map fun t => ⟨t, false, none⟩, bank1 := [(0, image)] } }
    s.jig.running = true ∧ (switchDue s).map (·.t) = x.2 ∧ s.dvl.holdDue = false ∧ s.dvl.holdEnd = false ∧
      s.pkg.resetDue = false ∧ s.pwr.entryDue = none ∧ s.vnr.ctxs = [] ∧ s.vnr.jobs = [] ∧ s.ckp.captures = [] ∧
      s.ckp.rollbacks = [] ∧ findObj (withObj thing s) h1 = some thing ∧
      runsSlots { s with dvl := { s.dvl with hold := true } } = false := by decide +kernel

/-- A commit gives row 1 to an ADMITTED context. -/
theorem test_hyps_fill_rows :
    let s := { (withCtx 1 { ctx1 with state := .admitted } up) with jig := { up.jig with
      running := true, bank0 := [(0, rowTables)], commits := [⟨0, 0, [(1, [1])], [], 0, 1⟩] } }
    (rowAt (fillRows s) 1).ctx = some 1 := by decide +kernel

/-- The image leaves the tiles free from 10,000 ns on; a program that overran into that; a test each 256 frames. -/
theorem test_hyps_channels :
    (let s := { frames with now := 20000 }
     quietHere s = true ∧ overruns s = false ∧
       overruns { s with tile := { s.tile with tiles := [(0, { TileSt.reset with prog := some (0, 0, imgEntry image 0) })] } } = true) ∧
    quietHere frames = false ∧ riskDue frames = true ∧ riskDue { frames with jig := { frames.jig with frame := 255 } } = false := by
  decide +kernel

theorem test_hyps_slot : runsSlots frames = true ∧ runningImage frames = some image ∧ 0 < imgEntries image ∧
    (progWord image (imgEntry image 0) (0 : Fin 256)).isSome = true ∧ (tileOf frames (0 : Fin 256)).prog = none := by
  decide +kernel

/-- Slots that do not start: no bank, an entry beyond the last, tile 255 out of the set; one whose tile has a program. -/
theorem test_hyps_slot_cases : runsSlots up = false ∧ imgEntries image ≤ 1 ∧
    (255 : Fin 256).val ∉ tsetTiles image (entTset (imgEntry image 0)) ∧
    (0 : Fin 256).val ∈ tsetTiles image (entTset (imgEntry image 0)) ∧
    (let s := { frames with tile := { frames.tile with tiles := [(0, { TileSt.reset with prog := some (0, 0, []) })] } }
     (tileOf s (0 : Fin 256)).prog ≠ none ∧ runningImage s = some image) := by decide +kernel

/-- A slot that waits, in a bank that runs and in none; a program that runs, late or not. -/
theorem test_hyps_programs :
    let w (n : Nat) : SlotDue := ⟨n, 0, [], 1000, [], none⟩
    let busy (x : TileSt) (s : State) : State := { s with tile := { s.tile with tiles := [(255, x)] } }
    (∀ s ∈ [frames, up], (tileOf (busy { TileSt.reset with next := [w 0, w 1] } s) (255 : Fin 256)).prog = none ∧
      (tileOf (busy { TileSt.reset with next := [w 0, w 1] } s) (255 : Fin 256)).next = w 0 :: [w 1]) ∧
    runsSlots frames = true ∧ (∀ late ∈ [false, true],
      let x := tileOf (busy { TileSt.reset with prog := some (0, 0, []), lateSeen := late } frames) (255 : Fin 256)
      x.prog = some (0, 0, []) ∧ x.lateSeen = late) := by decide +kernel

/-- Row messages for the next frame, for the frame that runs, and a report for the third frame from now; a first and a
second copy. -/
theorem test_hyps_row_messages :
    let seen (s : State) (h : MsgHdr) : Bool :=
      s.dvl.seen.any fun e => e.1 == h.src && e.2.1 == h.msgId && decide (s.now ≤ e.2.2 + 10000000)
    seen frames ⟨6, 1⟩ = false ∧
      seen { frames with dvl := { frames.dvl with seen := [(6, 1, 0)] }, now := 10000000 } ⟨6, 1⟩ = true ∧
      frames.jig.frame < (⟨0, 1, [], [], 0, 1⟩ : RowMsg).frame ∧ (⟨0, 0, [], [], 0, 1⟩ : RowMsg).frame ≤ frames.jig.frame ∧
      frames.jig.frame + 3 ≤ (⟨0, 3, [], []⟩ : ReadyMsg).frame ∧
      (⟨0, 2, [], []⟩ : ReadyMsg).frame < frames.jig.frame + 3 := by decide +kernel

/-! ### Hypotheses: mortise queues (O39 to O41) -/

/-- Queue 255 with 1 and with 1,024 slots of 64 KiB. -/
theorem test_hyps_mq_create : ∀ x ∈ [(1, 65536), (1024, 65536)],
    let p := par [(0, 2, 255), (2, 2, x.1), (4, 4, x.2), (8, 2, 2 ^ 14 - 1), (0x0C, 4, 2 ^ 17 - 1)]
    Starts ⟨host, 0x0301, .mqCreate host p, true, [(0x0A, 2), (0x10, 32)], p⟩ up ∧ getLE p 0 2 ≤ 255 ∧
      (queueOf up (getLE p 0 2)).state = 0 ∧ 1 ≤ getLE p 2 2 ∧ getLE p 2 2 ≤ 1024 ∧ 65536 ≤ getLE p 4 4 ∧
      getLE p 4 4 ≤ 64 * mib ∧ getLE p 4 4 % 65536 = 0 ∧ getLE p 8 2 < 2 ^ 14 ∧ getLE p 0x0C 4 < 2 ^ 17 ∧
      getLE p 2 2 * getLE p 4 4 ≤ gddrFree up := by
  unfold Starts
  decide +kernel

/-- Fields just out of range; a queue that stands; every queue taken, and all but queue 1; no room. -/
theorem test_hyps_mq_create_cases :
    let starts (p : Bytes) (s : State) : Bool :=
      let i : CmdInfo := ⟨host, 0x0301, .mqCreate host p, true, [(0x0A, 2), (0x10, 32)], p⟩
      !mustHold i (enlist i s) && turnedAway i (enlist i s) == none
    let p (want depth bytes : Nat) : Bytes := par [(0, 2, want), (2, 2, depth), (4, 4, bytes)]
    let all (l : List Nat) : State := { up with mq := { up.mq with queues := l.map fun q => (q, queue2) } }
    (∀ x ∈ [(256, 1, 65536), (0, 0, 65536), (0, 1025, 65536), (0, 1, 65535), (0, 1, 0), (0, 1, 64 * mib + 65536)],
      starts (p x.1 x.2.1 x.2.2) up = true) ∧
    (starts (p 255 1 65536) (withQ 255 queue2 up) = true ∧ (queueOf (withQ 255 queue2 up) 255).state ≠ 0) ∧
    (starts (p 0xFFFF 1 65536) (all (List.range 256)) = true ∧
      ∀ q, q < 256 → (queueOf (all (List.range 256)) q).state ≠ 0) ∧
    (starts (p 0xFFFF 1 65536) (all (0 :: (List.range 256).drop 2)) = true ∧
      (queueOf (all (0 :: (List.range 256).drop 2)) 1).state = 0 ∧
      ∀ r, r < 1 → (queueOf (all (0 :: (List.range 256).drop 2)) r).state ≠ 0) ∧
    (let s := withObj { thing with size := 2 ^ 38 } up
     starts (p 0 1024 (64 * mib)) s = true ∧ gddrFree s < 1024 * (64 * mib)) := by decide +kernel

/-- Queue 256; FREE, BOUND, with an entry, and named by the active and by the shadow bank. -/
theorem test_hyps_mq_destroy_cases :
    let jig (n : Nat) : State := { up with jig := { up.jig with running := true, activeNo := n, bank1 := [(0, tables)] } }
    ∀ x ∈ [(256, up), (255, up), (255, withQ 255 { queue2 with state := 2 } up),
      (255, withQ 255 { queue2 with entries := [⟨header 0 0, 0⟩] } up), (255, withQ 255 queue2 (jig 0)), (255, withQ 255 queue2 (jig 1))],
    let p := par [(0, 2, x.1)]
    Starts ⟨host, 0x0302, .mqDestroy host p, true, [(2, 46)], p⟩ x.2 ∧
      Starts ⟨host, 0x0305, .mqQuery host p, true, [(2, 46)], p⟩ x.2 ∧
      ((queueOf x.2 255).state = 1 → (queueOf x.2 255).entries = [] →
        bankUsesQueue (activeBank x.2) 255 = true ∨ bankUsesQueue (shadowBank x.2) 255 = true) := by
  unfold Starts
  decide +kernel

/-- A purge of all by function 1, of queue 256, of context 4,096 and of another function's context; all by the owner. -/
theorem test_hyps_mq_purge_cases :
    let k : Src := ⟨.fn 1 0, 7, false, none⟩
    ∀ x ∈ [(k, 0, 0xFFFF), (host, 256, 0), (host, 0, 4096), (k, 0, 4095), (host, 255, 0xFFFF)],
    let s := withCtx 4095 ctx1 (withQ 255 queue2 up)
    let p := par [(0, 2, x.2.1), (0x0A, 2, x.2.2)]
    Starts ⟨x.1, 0x0306, .mqPurge x.1 p, false, [(2, 8), (0x0C, 36)], p⟩ s ∧ srcOwner s k = false ∧ srcOwner s host = true ∧
      (ctxOf s 4095).fn ≠ srcFn s k := by
  unfold Starts
  decide +kernel

/-- The head entry is the owner's and its context's function's to see, and not another's. -/
theorem test_hyps_mq_head :
    let s := withCtx 1 { ctx1 with fn := 63 } (withQ 255 { queue2 with entries := [⟨header 0 0, 0⟩] } up)
    isOwner s 0 = true ∧ isOwner s 63 = false ∧ ownsCtx s 63 (hdrCtx (header 0 0)) = true ∧
      isOwner s 62 = false ∧ ownsCtx s 62 (hdrCtx (header 0 0)) = false := by decide +kernel

theorem test_hyps_mq_manage :
    let s := withCtx 4095 ctx1 (withQ 255 queue2 up)
    let p := par [(0, 2, 255)]
    let r := par [(0, 2, 255), (0x0A, 2, 4095)]
    Starts ⟨host, 0x0302, .mqDestroy host p, true, [(2, 46)], p⟩ s ∧ (queueOf s 255).state = 1 ∧
      (queueOf s 255).entries = [] ∧ bankUsesQueue (activeBank s) 255 = false ∧
      bankUsesQueue (shadowBank s) 255 = false ∧ Starts ⟨host, 0x0305, .mqQuery host p, true, [(2, 46)], p⟩ s ∧
      Starts ⟨host, 0x0306, .mqPurge host r, false, [(2, 8), (0x0C, 36)], r⟩ s ∧ getLE r 0x0A 2 ≤ 4095 ∧
      srcOwner s host = true ∧ (ctxOf s 4095).state ≠ .free ∧ (ctxOf s 4095).fn = srcFn s host ∧
      (queueOf (withQ 255 { queue2 with entries := [⟨header 0 0, 0⟩] } up) (255 : Fin 256)).entries = ⟨header 0 0, 0⟩ :: [] ∧
      isOwner s 0 = true := by
  unfold Starts
  decide +kernel

/-- A post of no bytes, and one of a whole slot from the end of `thing`. -/
theorem test_hyps_mq_post : ∀ n ∈ [0, 65536],
    let s := withCtx 1 ctx1 (withQ 255 queue2 (withBuf up))
    let p := par [(0, 2, 255), (2, 2, 1), (0x0A, 2, 1), (0x10, 4, 2 ^ 23 - 1), (0x14, 4, n), (0x18, 8, h2), (0x20, 8, 2 ^ 20 - n)]
    let k := queueOf s (getLE p 0 2)
    let x := ctxOf s (getLE p 2 2 % 4096)
    Starts ⟨host, 0x0307, .mqPost host p, false, [(0x0E, 2), (0x28, 8)], p⟩ s ∧ getLE p 0 2 ≤ 255 ∧ getLE p 0x0A 2 ≤ 1 ∧
      getLE p 0x10 4 < 2 ^ 23 ∧ k.state = 1 ∧ getLE p 0x14 4 ≤ slotBytes k ∧ x.state ≠ .free ∧ x.fn = srcFn s host ∧
      slotsIn k .free = 0 :: [1] ∧ getLE p 0x14 4 = n ∧ getLE p 0x20 8 + n ≤ thing.size ∧
      poisonedIn thing (getLE p 0x20 8) n = false ∧ thing.state = .resident ∧ getLE p 0x18 8 = h2 ∧
      findObj s k.handle = some buffer ∧ Memory.wf buffer.mem = true := by
  unfold Starts
  decide +kernel

/-- A post that does not fit a slot, one to a FREE queue, for another function's context, to a BOUND queue, with no slot
free, from no object, beyond the source's end, from a poisoned line, and from an object in FLASH. -/
theorem test_hyps_mq_post_cases :
    let p (n h off : Nat) : Bytes := par [(0, 2, 255), (2, 2, 1), (0x14, 4, n), (0x18, 8, h), (0x20, 8, off)]
    let s (o : Obj) (k : Queue) (x : Ctx) : State := withCtx 1 x (withQ 255 k (withObj o up))
    let starts (p : Bytes) (s : State) : Bool :=
      let i : CmdInfo := ⟨host, 0x0307, .mqPost host p, false, [(0x0E, 2), (0x28, 8)], p⟩
      !mustHold i (enlist i s) && turnedAway i (enlist i s) == none
    starts (p 65537 h1 0) (s thing queue2 ctx1) = true ∧ slotBytes queue2 < 65537 ∧
      starts (p 0 h1 0) (s thing Queue.reset ctx1) = true ∧ starts (p 0 h1 0) (s thing queue2 { ctx1 with fn := 1 }) = true ∧
      starts (p 0 h1 0) (s thing { queue2 with state := 2 } ctx1) = true ∧
      (starts (p 0 h1 0) (s thing { queue2 with slots := [.granted, .posted] } ctx1) = true ∧
        slotsIn { queue2 with slots := [.granted, .posted] } .free = []) ∧
      (starts (p 1 h2 0) (s thing queue2 ctx1) = true ∧ isErr sObjUnknown (cmdObj (s thing queue2 ctx1) host h2 1) = true) ∧
      (starts (p 1 h1 (2 ^ 20)) (s thing queue2 ctx1) = true ∧ thing.size < 2 ^ 20 + 1) ∧
      (let o := { thing with poisoned := [4095] }
       starts (p 1 h1 (2 ^ 20 - 1)) (s o queue2 ctx1) = true ∧ isOk o (cmdObj (s o queue2 ctx1) host h1 1) = true ∧
         poisonedIn o (2 ^ 20 - 1) 1 = true) ∧
      (let o := { thing with state := .flash }
       starts (p 1 h1 0) (s o queue2 ctx1) = true ∧ isOk o (cmdObj (s o queue2 ctx1) host h1 1) = true ∧ inFlash o = true ∧
         poisonedIn o 0 1 = false) := by decide +kernel

theorem test_hyps_post_source : cmdObj (withCtx 1 ctx1 (withQ 255 queue2 (withBuf up))) host h2 1 = .ok thing := rfl

/-- Binding 255 over 1 of up to 4 ports to module 6. -/
theorem test_hyps_bind_remote :
    let p := par [(0, 1, 255), (1, 1, 1), (2, 2, 255), (4, 4, 6), (8, 2, 4095), (0x0A, 2, 4095)]
    let s := pairUp
    Starts ⟨host, 0x0303, .mqBind host p, true, [(0x0C, 36)], p⟩ s ∧ 1 ≤ getLE p 1 1 ∧ getLE p 1 1 ≤ 4 ∧
      getLE p 2 2 ≤ 255 ∧ getLE p 4 4 < 2 ^ 17 ∧ getLE p 8 2 < 4096 ∧ getLE p 0x0A 2 < 4096 ∧
      (bindOf s (getLE p 0 1)).state = 0 ∧ getLE p 4 4 ≠ s.dvl.addr ∧
      getLE p 1 1 ≤ (candidates s (getLE p 4 4) false).length := by
  unfold Starts
  decide +kernel

/-- Five ports and none; a binding in use; more ports than lead to module 6; a local queue that names another producer. -/
theorem test_hyps_bind_refused :
    let starts (p : Bytes) (s : State) : Bool :=
      let i : CmdInfo := ⟨host, 0x0303, .mqBind host p, true, [(0x0C, 36)], p⟩
      !mustHold i (enlist i s) && turnedAway i (enlist i s) == none
    let p (ports dest : Nat) : Bytes := par [(0, 1, 255), (1, 1, ports), (2, 2, 255), (4, 4, dest)]
    (∀ n ∈ [0, 5], starts (p n 6) pairUp = true) ∧
      (let s := withB 255 { Binding.reset with state := 1 } pairUp
       starts (p 1 6) s = true ∧ (bindOf s 255).state ≠ 0) ∧
      (starts (p 2 6) pairUp = true ∧ 6 ≠ pairUp.dvl.addr ∧ (candidates pairUp 6 false).length < 2) ∧
      (let s := withQ 255 queue2 up
       starts (p 1 5) s = true ∧ mayBind s 255 5 0 = false ∧ mayBind (withQ 255 { queue2 with producer := 5 } up) 255 5 0 = true ∧
         Outst.is host first = false ∧ s.host.outst = []) := by decide +kernel

theorem test_hyps_bind_local :
    let p := par [(0, 1, 255), (1, 1, 4), (2, 2, 255), (4, 4, 5)]
    let s := withQ 255 { queue2 with producer := 5 } (withBuf up)
    Starts ⟨host, 0x0303, .mqBind host p, true, [(0x0C, 36)], p⟩ s ∧ 1 ≤ getLE p 1 1 ∧ getLE p 1 1 ≤ 4 ∧
      (bindOf s (getLE p 0 1)).state = 0 ∧ getLE p 4 4 = s.dvl.addr ∧ (queueOf s (getLE p 2 2)).state = 1 ∧
      (queueOf s (getLE p 2 2)).producer = getLE p 4 4 ∧ (queueOf s (getLE p 2 2)).stage = getLE p 0x0A 2 ∧
      (∀ o ∈ s.host.outst, o.wait ≠ .unbind (getLE p 0 1)) ∧ Unlisted host s := by
  unfold Starts Unlisted
  decide +kernel

/-- Binding 255 waits for module 6's answer; an MQ.BIND waits with it. -/
theorem test_hyps_grant_msg :
    let s := { withB 255 { Binding.reset with state := 1, destAddr := 6 } up with
      host := { up.host with outst := [⟨host, .mqBind host [], 0x0303, false, true, .bind 255⟩] } }
    (bindOf s (255 : Fin 256)).state = 1 ∧ (∀ o ∈ s.host.outst, o.wait ≠ .unbind (255 : Fin 256)) ∧
      (bindOf s (255 : Fin 256)).destAddr = (⟨6, 1⟩ : MsgHdr).src ∧ ∃ o ∈ s.host.outst, o.wait = .bind (255 : Fin 256) := by
  decide +kernel

/-- An MQ.UNBIND waits for the attempt; an answer from module 7, and one for a binding that is IDLE. -/
theorem test_hyps_grant_cases :
    (let s := { withB 255 { Binding.reset with state := 1, destAddr := 6 } up with
       host := { up.host with outst := [⟨host, .mqUnbind host [], 0x0304, false, true, .unbind 255⟩] } }
     (∃ o ∈ s.host.outst, o.wait = .unbind (255 : Fin 256)) ∧ (bindOf s (255 : Fin 256)).destAddr ≠ (⟨7, 1⟩ : MsgHdr).src) ∧
    (bindOf up (255 : Fin 256)).state ≠ 1 := by decide +kernel

/-- An IDLE binding; one that a jig names; a PENDING and a CLOSING one; a local one. -/
theorem test_hyps_unbind_cases :
    let outB : Bytes := setLE (setLE rowTables 0x1D1 1 255) 0x1D2 1 2
    let p := par [(0, 1, 255)]
    (∀ st ∈ [0, 1, 3],
      let s := withB 255 { Binding.reset with state := st } up
      Starts ⟨host, 0x0304, .mqUnbind host p, true, [(1, 47)], p⟩ s ∧ bankUsesBinding (activeBank s) 255 = false ∧
        bankUsesBinding (shadowBank s) 255 = false) ∧
    (let s := withB 255 { Binding.reset with state := 2 } { up with jig := { up.jig with bank1 := [(0, outB)] } }
     Starts ⟨host, 0x0304, .mqUnbind host p, true, [(1, 47)], p⟩ s ∧
       (bankUsesBinding (activeBank s) 255 = true ∨ bankUsesBinding (shadowBank s) 255 = true)) ∧
    (let s := withQ 255 { queue2 with state := 2, bound := some (5, 255), slots := [.granted, .posted] }
       (withB 255 { Binding.reset with state := 2, destAddr := 5, destQueue := 255, loc := true } up)
     (bindOf s 255).destAddr = s.dvl.addr ∧ (queueOf s (bindOf s 255).destQueue).state = 2) := by
  unfold Starts
  decide +kernel

theorem test_hyps_unbind : ∀ w ∈ [[], [(0, 1, header 0 0)]],
    let p := par [(0, 1, 255)]
    let s := withB 255 { Binding.reset with state := 2, destAddr := 6, window := w } up
    Starts ⟨host, 0x0304, .mqUnbind host p, true, [(1, 47)], p⟩ s ∧ (bindOf s (getLE p 0 1)).state = 2 ∧
      bankUsesBinding (activeBank s) (getLE p 0 1) = false ∧ bankUsesBinding (shadowBank s) (getLE p 0 1) = false ∧
      (bindOf s (getLE p 0 1)).window = w ∧ Unlisted host s := by
  unfold Starts Unlisted
  decide +kernel

theorem test_hyps_bind_msg : ∀ src ∈ [6, 7],
    let s := withQ 255 queue2 (withBuf up)
    src ≠ s.dvl.addr ∧ IsNew ⟨src, 1⟩ s ∧ (4095 : Nat) < 4096 ∧ (queueOf s 255).state = 1 ∧
      (src = 6 ↔ (queueOf s 255).producer = src) ∧ (queueOf s 255).stage = 0 := by
  unfold IsNew
  decide +kernel

/-- A bind that names no stage; the close of module 6's binding 9, and of another; a second copy. -/
theorem test_hyps_bind_msg_cases :
    let s := withQ 255 { queue2 with state := 2, bound := some (6, 9) } up
    (4096 ≤ (4096 : Nat)) ∧ mayBind s 255 6 0 = false ∧ (queueOf s 255).bound = some (6, 9) ∧
      (queueOf s 255).bound ≠ some (6, 8) ∧ (2 ^ 15 ≤ closeFlag + 0) ∧
      ¬ IsNew ⟨6, 1⟩ { s with dvl := { s.dvl with seen := [(6, 1, 0)] } } ∧
      mayBind (withQ 255 queue2 up) 255 6 0 = true := by
  unfold IsNew
  decide +kernel

/-- The last byte of slot 1, granted to module 6's binding 9, and of slot 0, which is free. -/
theorem test_hyps_block : ∀ off ∈ [131071, 65535],
    let s := withQ 255 { queue2 with state := 2, bound := some (6, 9), slots := [.free, .granted] } (withBuf up)
    let k := queueOf s 255
    findObj s h1 = some buffer ∧ buffer.role = .queueBuf 255 ∧ k.handle = h1 ∧ k.bound = some (6, 9) ∧
      off % slotBytes k + [1#8].length ≤ slotBytes k ∧ Memory.wf buffer.mem = true ∧
      (off = 131071 ↔ k.slots[off / slotBytes k]? = some .granted) := by decide +kernel

/-- The header next in sequence, one too early, and one for a slot that is not granted; sequence numbers about to
wrap. -/
theorem test_hyps_header :
    let s := withCtx 1 ctx1 (withQ 255 { queue2 with
      state := 2, bound := some (6, 9), slots := [.granted, .free], nextSeq := 2 ^ 32 - 1 } (withBuf up))
    let k := queueOf s 255
    (∀ n ∈ [2 ^ 32 - 1, 0], (header n 0).length = 64 ∧ hdrCause s 255 6 (header n 0) = none ∧
      (n = 0 → hdrSeq (header n 0) ≠ k.nextSeq ∧ seqLe k.nextSeq (hdrSeq (header n 0)) = true ∧
        (k.early.any fun e => e.1 == hdrSeq (header n 0)) = false) ∧ (n ≠ 0 → hdrSeq (header n 0) = k.nextSeq)) ∧
      hdrCause s 255 6 (header (2 ^ 32 - 1) 65536) = some 6 ∧ seqLe k.nextSeq (hdrSeq (header (2 ^ 32 - 1) 65536)) = true ∧
      k.bound = some (6, 9) := by decide +kernel

/-- A header that was posted already; one with a bad CRC, refused for the first and for the second time; one for a binding
that the queue does not know; one of a context torn down lately; one of a slot not granted. -/
theorem test_hyps_header_cases :
    let k : Queue := { queue2 with state := 2, bound := some (6, 9), slots := [.granted, .free], nextSeq := 1 }
    let s := withCtx 1 ctx1 (withQ 255 k (withBuf up))
    let bad := setLE (header 1 0) 0x3C 4 0
    (crc32c (slice (header 0 0) 0 0x3C) = hdrCrc (header 0 0) ∧ seqLe k.nextSeq (hdrSeq (header 0 0)) = false ∧
      (6 : Nat) ≠ s.dvl.addr) ∧
    (hdrCause s 255 6 bad = some 1 ∧ hdrSeq bad ∉ k.crcOnce ∧ hdrSeq bad ∈ [1] ∧ k.slots[slotOfHdr k bad]? = some .granted ∧
      k.creditPend.length < 7) ∧
    (queueOf s 255).bound ≠ some (6, 8) ∧
    (let g := withCtx 1 Ctx.free { s with mq := { s.mq with gone := [(1, 0)] } }
     hdrCause g 255 6 (header 1 0) = some 3 ∧ justGone g (hdrCtx (header 1 0)) = true) ∧
    hdrCause s 255 6 (header 1 65536) = some 6 := by decide +kernel

/-- A CLOSING binding whose last header is acknowledged; refusals of a header that is not in the window, for the second
time, and of a context that is gone. -/
theorem test_hyps_credit_cases :
    let x : Binding := { Binding.reset with state := 3, destAddr := 6, window := [(4, 1, header 4 0)], crcRefused := [4] }
    let s := withCtx 1 { ctx1 with state := .faulted } (withB 255 x up)
    (bindOf s 255).state = 3 ∧ (bindOf s 255).window.filter (fun e => !seqLe e.1 4) = [] ∧
      (bindOf s 255).window.find? (fun e => e.1 == 5) = none ∧ 4 ∈ (bindOf s 255).crcRefused ∧
      activeCtx (ctxOf s 1) = false ∧ (bindOf s 255).destAddr ≠ (⟨7, 1⟩ : MsgHdr).src ∧
      (queueOf up (255 : Fin 256)).bound = none ∧
      (let k : Queue := { queue2 with bound := some (6, 9), ackPend := true }
       k.creditPend = [] ∧ k.ackPend = true) := by decide +kernel

theorem test_hyps_credit :
    let x : Binding := { Binding.reset with state := 2, destAddr := 6, window := [(4, 1, header 4 0)] }
    let s := withCtx 1 ctx1 (withB 255 x up)
    (bindOf s 255).destAddr = (⟨6, 1⟩ : MsgHdr).src ∧ (bindOf s 255).state = 2 ∧ IsNew ⟨6, 1⟩ s ∧
      (bindOf s 255).window.find? (fun e => e.1 == 4) = some (4, 1, header 4 0) ∧ 4 ∉ (bindOf s 255).crcRefused ∧
      activeCtx (ctxOf s 1) = true ∧
      (let k := queueOf (withQ 255 { queue2 with bound := some (6, 9), creditPend := [0, 1] } up) (255 : Fin 256)
       k.bound = some (6, 9) ∧ 6 ≠ up.dvl.addr ∧ k.creditPend ≠ []) := by
  unfold IsNew
  decide +kernel

/-! ### Hypotheses: versions, contexts, jobs (O42 to O45) -/

theorem test_hyps_submit :
    let p := par [(0, 3, 2 ^ 24 - 1), (6, 2, 4), (0x10, 8, h3), (0x20, 4, 1), (0x24, 2, 1)]
    let s := plant
    let same := s.vnr.jobs.find? fun j => j.2.fn == srcFn s host && j.2.tenant == getLE p 0 3 && j.2.jobTag == getLE p 0x28 8
    Starts ⟨host, 0x0401, .jobSubmit host p, false, [(3, 1), (5, 1), (0x26, 2)], p⟩ s ∧ same = none ∧ Unlisted host s ∧
      getLE p 6 2 ≤ 15 ∧ 1 ≤ getLE p 0x20 4 ∧ pipeM (planBank s) (getLE p 4 1) = some (getLE p 0x24 2) ∧
      manifestOk s (srcFn s host) (getLE p 4 1) (getLE p 0x10 8) = true ∧
      hyperOk (hyperOf s (manifestBytes s (getLE p 0x10 8))) = true ∧
      maxHypSel s (getLE p 4 1) < getLE (hyperOf s (manifestBytes s (getLE p 0x10 8))) 4 4 ∧ bit (getLE p 6 2) 0 = false ∧
      bit (getLE p 6 2) 2 = true ∧ fnContexts s (srcFn s host) < (fnOf s (srcFn s host)).maxCtx ∧ s.dvl.map = none ∧
      (∀ e ∈ s.vnr.ctxs, e.2.job ≠ newJobId s) ∧ (∀ e ∈ s.vnr.jobs, e.1 ≠ newJobId s) ∧ freeCtxId s = some 0 ∧
      ctxRoom s (getLE p 4 1) = true := by
  unfold Starts Unlisted
  decide +kernel

/-- Flag 16; no steps; a function at its limit; no context left; no room in a partition of its stage's contexts; a job that
makes a miss, and may not; one that fits and misses none. -/
theorem test_hyps_submit_cases :
    let p (flags steps dl : Nat) : Bytes := par [(6, 2, flags), (8, 8, dl), (0x10, 8, h3), (0x20, 4, steps), (0x24, 2, 1)]
    let starts (p : Bytes) (s : State) : Bool :=
      let i : CmdInfo := ⟨host, 0x0401, .jobSubmit host p, false, [(3, 1), (5, 1), (0x26, 2)], p⟩
      !mustHold i (enlist i s) && turnedAway i (enlist i s) == none
    let limit : State := { plant with host := { plant.host with fns := plant.host.fns.map fun e => (e.1, { e.2 with maxCtx := 0 }) } }
    let load (dl : Nat) : List (Nat × Nat × Nat) :=
      sortBy dueLe ((dl, newJobId plant, 1 * rowFramesPerStep (planBank plant) 0) :: pipeLoad plant 0 0)
    let tiny : State := { plant with mem := { plant.mem with objs := [(2, { thing with size := 64 }), (3, manifest), (4, hyper)] } }
    let small : State := { tiny with jig := { tiny.jig with bank1 := [(0, setLE tables 0xC8 4 0)] } }
    starts (p 16 1 0) plant = true ∧ starts (p 0 0 0) plant = true ∧
      (starts (p 4 1 0) limit = true ∧ (fnOf limit 0).maxCtx ≤ fnContexts limit 0) ∧
      (let s := { plant with jig := { plant.jig with bank1 := [(0, setLE tables 0xCC 1 0)] } }
       starts (p 4 1 0) s = true ∧ ctxRoom s 0 = false) ∧
      (firstMiss plant (planBank plant) 0 0 (load 0) = some (newJobId plant) ∧ bit 0 2 = false ∧ bit 4 2 = true ∧
        firstMiss plant (planBank plant) 0 0 (load (2 ^ 40)) = none) ∧
      (∀ s ∈ [tiny, small], manifestOk s 0 0 h3 = true ∧ hyperOk (hyperOf s (manifestBytes s h3)) = true ∧
        maxHypSel s 0 < getLE (hyperOf s (manifestBytes s h3)) 4 4 ∧ pipeM (planBank s) 0 = some 1 ∧ s.dvl.map = none ∧
        fnContexts s 0 < (fnOf s 0).maxCtx ∧ s.host.outst = [] ∧ s.vnr.ctxs = [] ∧ s.vnr.jobs = []) ∧
      (starts (p 4 1 0) tiny = true ∧ freeCtxId tiny = some 0 ∧ ctxRoom tiny 0 = true ∧
        commitFits tiny 0 0 (initOf tiny (manifestBytes tiny h3)) = true) ∧
      (starts (p 4 1 0) small = true ∧ freeCtxId small = some 0 ∧ ctxRoom small 0 = true ∧
        commitFits small 0 0 (initOf small (manifestBytes small h3)) = false) := by decide +kernel

/-- Commands on a job of nobody. -/
theorem test_hyps_no_job :
    let p := par [(0, 4, jobThere)]
    cmdJob busy host jobThere = none ∧ Starts ⟨host, 0x0402, .jobWait host p, false, [(4, 44)], p⟩ busy ∧
      Starts ⟨host, 0x0403, .jobStatus host p, false, [(4, 44)], p⟩ busy ∧
      Starts ⟨host, 0x0404, .jobCancel host p, false, [(4, 44)], p⟩ busy ∧
      Starts ⟨host, 0x0405, .jobRelease host p, false, [(4, 44)], p⟩ busy ∧
      Starts ⟨host, 0x0412, .ctxHold host p, false, [(4, 44)], p⟩ busy ∧
      Starts ⟨host, 0x0413, .ctxResume host p, false, [(4, 44)], p⟩ busy ∧
      (let q := par []
       cmdCtx busy host (getLE q 0 2) = none ∧ Starts ⟨host, 0x0411, .ctxQuery host q, false, [(2, 46)], q⟩ busy) := by
  unfold Starts
  decide +kernel

/-- A cancel of a job of this module alone, with no bank running. -/
theorem test_hyps_cancel_now :
    let j := { job1 with members := [5] }
    let s := withJob j busy
    let p := par [(0, 4, jobHere)]
    cmdJob s host jobHere = some j ∧ Starts ⟨host, 0x0404, .jobCancel host p, false, [(4, 44)], p⟩ s ∧ j.status = none ∧
      s.jig.running = false ∧ j.members = [s.dvl.addr] ∧ leadAt s jobHere = s.dvl.addr ∧ jobHere ≠ 0 ∧ j.cause = 0 ∧
      j.deadlineCkp = false ∧ ctxOfJob s jobHere = some 1 ∧ activeCtx (ctxOf s 1) = true ∧ Unlisted host s := by
  unfold Starts Unlisted
  decide +kernel

theorem test_hyps_submit_again :
    let p := par [(0, 3, 3)]
    Starts ⟨host, 0x0401, .jobSubmit host p, false, [(3, 1), (5, 1), (0x26, 2)], p⟩ busy ∧
      (busy.vnr.jobs.find? fun j => j.2.fn == srcFn busy host && j.2.tenant == getLE p 0 3 && j.2.jobTag == getLE p 0x28 8) =
        some (jobHere, job1) := by
  unfold Starts
  decide +kernel

theorem test_hyps_job_commands : ∀ st ∈ [none, some 0],
    let j := { job1 with status := st, result := h2 }
    let s := { withJob j busy with jig := { busy.jig with running := true } }
    let p := par [(0, 4, jobHere)]
    cmdJob s host (getLE p 0 4) = some j ∧ Starts ⟨host, 0x0402, .jobWait host p, false, [(4, 44)], p⟩ s ∧ j.status = st ∧
      Starts ⟨host, 0x0403, .jobStatus host p, false, [(4, 44)], p⟩ s ∧ ctxOfJob s (getLE p 0 4) = some 1 ∧
      Starts ⟨host, 0x0404, .jobCancel host p, false, [(4, 44)], p⟩ s ∧ s.jig.running = true ∧
      (∃ m ∈ j.members, m ≠ s.dvl.addr) ∧ Starts ⟨host, 0x0405, .jobRelease host p, false, [(4, 44)], p⟩ s ∧
      j.result ≠ 0 := by
  unfold Starts
  decide +kernel

theorem test_hyps_ctx_commands :
    let p := par [(0, 2, 4095)]
    let s := withCtx 4095 ctx1 busy
    let q := par [(0, 4, jobHere)]
    let heldCtx := { ctx1 with state := .held, heldFrom := .running, holds := [.command] }
    let t := withCtx 4095 heldCtx busy
    cmdCtx s host (getLE p 0 2) = some ctx1 ∧ Starts ⟨host, 0x0411, .ctxQuery host p, false, [(2, 46)], p⟩ s ∧
      cmdJob s host (getLE q 0 4) = some job1 ∧ job1.status = none ∧ s.jig.running = false ∧
      ctxOfJob s (getLE q 0 4) = some 4095 ∧ Starts ⟨host, 0x0412, .ctxHold host q, false, [(4, 44)], q⟩ s ∧
      activeCtx (ctxOf s 4095) = true ∧ cmdJob t host (getLE q 0 4) = some job1 ∧ ctxOfJob t (getLE q 0 4) = some 4095 ∧
      Starts ⟨host, 0x0413, .ctxResume host q, false, [(4, 44)], q⟩ t ∧ (ctxOf t 4095).state = .held ∧
      (ctxOf t 4095).holds = [.command] ∧
      (∀ f ∈ [0, 63],
        let r := par [(0, 1, f), (2, 2, 4096), (4, 2, 1000)]
        Starts ⟨host, 0x0414, .ctxShare host r, true, [(1, 1), (6, 42)], r⟩ s ∧ getLE r 0 1 ≤ 63 ∧ getLE r 2 2 ≤ 4096 ∧
          getLE r 4 2 ≤ 1000) := by
  unfold Starts
  decide +kernel

/-- Holds of a DONE job and with a bank running; shares out of range. -/
theorem test_hyps_ctx_cases :
    let q := par [(0, 4, jobHere)]
    (∀ j ∈ [{ job1 with status := some 0 }, job1],
      let s := { withJob j busy with jig := { busy.jig with running := true } }
      cmdJob s host jobHere = some j ∧ Starts ⟨host, 0x0412, .ctxHold host q, false, [(4, 44)], q⟩ s ∧
        Starts ⟨host, 0x0413, .ctxResume host q, false, [(4, 44)], q⟩ s ∧ ctxOfJob s jobHere = some 1 ∧
        s.jig.running = true) ∧
    (∀ x ∈ [(64, 0, 0), (0, 4097, 0), (0, 0, 1001)],
      let r := par [(0, 1, x.1), (2, 2, x.2.1), (4, 2, x.2.2)]
      Starts ⟨host, 0x0414, .ctxShare host r, true, [(1, 1), (6, 42)], r⟩ busy) := by
  unfold Starts
  decide +kernel

/-- A READY version in entry 15 of stage 0, with 14 pins. -/
def version1 : Version := ⟨2, false, [(0, h2)], 14, 14, []⟩

def versions : State := withCtx 1 { ctx1 with vers := [(0, List.replicate 15 Version.empty ++ [version1])] } plant

def verPar : Bytes := par [(0, 2, 1), (4, 1, 15)]

theorem test_hyps_ver : cmdVer versions host verPar = .ok version1 :=
  ok_of _ _ (by decide +kernel)

/-- A version that is not READY and one of 15 pins; one without pins; entry 16 and another function's context. -/
theorem test_hyps_ver_cases :
    let w (v : Version) : State := withCtx 1 { ctx1 with vers := [(0, List.replicate 15 Version.empty ++ [v])] } plant
    (∀ v ∈ [Version.empty, { version1 with pins := 15, refs := 15 }, { version1 with pins := 0 }],
      isOk v (cmdVer (w v) host verPar) = true ∧
        Starts ⟨host, 0x0422, .vnrPin host verPar, false, [(5, 43)], verPar⟩ (w v) ∧
        Starts ⟨host, 0x0423, .vnrUnpin host verPar, false, [(5, 43)], verPar⟩ (w v)) ∧
    (∀ p ∈ [par [(0, 2, 1), (4, 1, 16)], par [(0, 2, 4095)]], (cmdVer versions host p).toBool = false ∧
      Starts ⟨host, 0x0421, .vnrQuery host p, false, [(5, 43)], p⟩ versions ∧
      Starts ⟨host, 0x0422, .vnrPin host p, false, [(5, 43)], p⟩ versions ∧
      Starts ⟨host, 0x0423, .vnrUnpin host p, false, [(5, 43)], p⟩ versions) := by
  unfold Starts
  decide +kernel

theorem test_hyps_vnr_commands : Starts ⟨host, 0x0421, .vnrQuery host verPar, false, [(5, 43)], verPar⟩ versions ∧
    Starts ⟨host, 0x0422, .vnrPin host verPar, false, [(5, 43)], verPar⟩ versions ∧
    Starts ⟨host, 0x0423, .vnrUnpin host verPar, false, [(5, 43)], verPar⟩ versions ∧ version1.state = 2 ∧
    version1.pins < 15 ∧ 0 < version1.pins := by
  unfold Starts
  decide +kernel

/-- A context that is not faulted, with an object of its own; a version in use. -/
theorem test_hyps_ctx_end_cases :
    (let o := { thing with ownerCtx := some 1 }
     let s := withObj o (withCtx 1 { ctx1 with state := .faulted } up)
     (ctxOf s 1).state = .faulted ∧ findObj s h1 = some o ∧ o.ownerCtx = some 1 ∧ isVersionObj o = false) ∧
    (ctxOf busy 1).state ≠ .faulted ∧ (verOf versions 1 0 15).refs ≠ 0 ∧ (verOf versions 1 0 14).state ≠ 2 := by decide +kernel

theorem test_hyps_ctx_ends :
    (ctxOf (withCtx 1 { ctx1 with state := .faulted, job := jobThere } up) 1).state = .faulted ∧ jobThere ≠ 0 ∧
    leadAt up jobThere ≠ up.dvl.addr ∧
    (let s := withCtx 1 { ctx1 with vers := [(0, [{ version1 with refs := 0, pins := 0 }])] } plant
     (0 : Nat) < 16 ∧ (verOf s 1 0 0).state = 2 ∧ (verOf s 1 0 0).refs = 0 ∧ findObj s h2 = some thing) := by
  decide +kernel

/-- The only micro-batch of the first step, of 8 B from `h2`, for queue 255. -/
theorem test_hyps_input_post :
    let x := { ctx1 with manifest := memRead manifest.mem 0 112 }
    let s := withQ 255 queue2 (withCtx 1 x plant)
    let r : StageRec := ⟨0, 0, 0, 0, 64, 4, some 255, none⟩
    let m : InputMb := ⟨0, 0, 0, 1, true, [0, 0, 0, 0, 9, 0, 0, 0]⟩
    ctxOfJob s jobHere = some 1 ∧ activeCtx (ctxOf s 1) = true ∧ (ctxOf s 1).inputs = [] ∧ nextInput s 1 = some m ∧
      (inputMember s jobHere m.mb).getD s.dvl.addr = s.dvl.addr ∧
      (ctxStages s 1).find? (fun r => r.stage == 0) = some r ∧ r.fwdQ = some 255 ∧ m.data.length ≤ slotBytes (queueOf s 255) ∧
      (ctxOf s 1).mbPerStep = (ctxOf s 1).nextMb + 1 ∧ slotsIn (queueOf s 255) .free = 0 :: [1] ∧
      findObj s (queueOf s 255).handle = some buffer ∧ Memory.wf buffer.mem = true ∧
      (let t := withQ 255 { queue2 with slots := [.posted, .posted] } s
       nextInput t 1 = some m ∧ slotsIn (queueOf t 255) .free = []) ∧
      (let t := withJob { job1 with memberCtx := [(5, 1, []), (6, 1, [0])] } s
       nextInput t 1 = some m ∧ (inputMember t jobHere m.mb).getD t.dvl.addr = 6) ∧
      ctxOfJob up jobHere = none ∧ (ctxOfJob busy jobHere = some 1 ∧ nextInput busy 1 = none ∧ (ctxOf busy 1).inputs = []) := by
  decide +kernel

theorem test_hyps_complete :
    let s := { withJob job1 (withCtx 1 { ctx1 with step := 2 } plant) with
      host := { plant.host with outst := [⟨host, .jobWait host [], 0x0402, false, true, .job jobHere⟩] } }
    ctxOfJob s jobHere = some 1 ∧ jobOf s jobHere = some job1 ∧ job1.status = none ∧ memberFinished s 1 = true ∧
      job1.finalLists = [] ∧ (liveObjs s).length < 4194303 ∧ (6 ∈ job1.members ∧ 6 ≠ s.dvl.addr ∧ ∀ g ∈ job1.gathered, g.member ≠ 6) ∧
      (let j := { job1 with gathered := [⟨6, [], []⟩] }
       jobOf (withJob j s) jobHere = some j ∧ ∀ a ∈ j.members, a = s.dvl.addr ∨ ∃ g ∈ j.gathered, g.member = a) ∧
      memberFinished busy 1 = false ∧ ∃ w ∈ s.host.outst, w.wait = .job jobHere := by decide +kernel

/-- Module 6's context of a job led there, with a fingerprint list of one shard. -/
def listed : State := withCtx 1 { ctx1 with
  job := jobThere, fps := [⟨0, 1, [⟨7, 5, 0, 0, 64, 0⟩], 0, 9⟩], repairs := [(0, 1)]
  vers := [(0, [{ version1 with current := true }])] } plant

/-- Reservations with no room; a commit of a reserved context; the first fault at a lead; inputs to come; contexts that have
finished; cancelled jobs whose last member ends; equal lists; copies. -/
theorem test_hyps_job_message_cases :
    (let s := { plant with jig := { plant.jig with bank1 := [(0, setLE tables 0xCC 1 0)] } }
     IsNew ⟨6, 1⟩ s ∧ ctxRoom s 0 = false) ∧
    (let y := { Ctx.free with job := jobThere }
     let s := withCtx 1 y plant
     (s.vnr.ctxs.find? fun e => e.2.job == jobThere && e.2.state == .free) = some (1, y) ∧
       commitFits s 1 (ctxOf s 1).pipeline [(0, 0, [1])] = true ∧ IsNew ⟨6, 1⟩ s) ∧
    (plant.vnr.ctxs.find? fun e => e.2.job == jobThere && e.2.state == .free) = none ∧
    (jobOf busy jobHere = some job1 ∧ job1.status = none ∧ job1.cause = 0 ∧ ctxOfJob busy jobHere = some 1 ∧
      activeCtx (ctxOf busy 1) = true ∧ IsNew ⟨6, 1⟩ busy) ∧
    (let s := { listed with jig := { listed.jig with running := true } }
     jobOf s jobThere = none ∧ ctxOfJob s jobThere = some 1 ∧ s.jig.running = true) ∧
    ((ctxOf busy 1).inputs = [] ∧ (ctxOf busy 1).step < (⟨1, 0, 0, 0, false, []⟩ : InputMb).step) ∧
    memberFinished (withCtx 1 { ctx1 with step := 2 } plant) 1 = true ∧ memberFinished busy 1 = false ∧
    (let j := { job1 with cancelling := true, doneMembers := [5] }
     let s := { withJob j busy with
       host := { busy.host with outst := [⟨host, .jobCancel host [], 0x0404, false, true, .cancel jobHere⟩] } }
     jobOf s jobHere = some j ∧ j.status = none ∧ j.cause = 0 ∧ j.deadlineCkp = false ∧
       (∀ a ∈ j.members, a = (⟨6, 1⟩ : MsgHdr).src ∨ a ∈ j.doneMembers) ∧ ∃ w ∈ s.host.outst, w.wait = .cancel jobHere) ∧
    firstDiff ⟨0, 1, [⟨7, 5, 0, 0, 64, 0⟩], 0, 9⟩ [5] = none ∧ ownList plant jobThere 0 1 = none ∧
    ((ctxOf plant 1).repairs.find? fun r => r.1 == 0) = none := by
  unfold IsNew
  decide +kernel

theorem test_hyps_job_messages : IsNew ⟨6, 1⟩ plant ∧ freeCtxId plant = some 0 ∧ ctxRoom plant 0 = true ∧
    jobOf listed jobThere = none ∧ ctxOfJob listed jobThere = some 1 ∧ activeCtx (ctxOf listed 1) = true ∧
    IsNew ⟨6, 1⟩ listed ∧
    (let s := { withJob { job1 with admission := .committing [6] } busy with
       host := { busy.host with outst := [⟨host, .jobSubmit host [], 0x0401, false, true, .submit jobHere⟩] } }
     IsNew ⟨6, 1⟩ s ∧ jobOf s jobHere = some { job1 with admission := .committing [(⟨6, 1⟩ : MsgHdr).src] } ∧
       ctxOfJob s jobHere = some 1 ∧ ∃ w ∈ s.host.outst, w.wait = .submit jobHere) ∧
    (let f : FpList := ⟨0, 1, [⟨7, 5, 0, 0, 64, 0⟩], 0, 9⟩
     ownList listed jobThere 0 1 = some f ∧ firstDiff f [4] = some (⟨7, 5, 0, 0, 64, 0⟩, 4) ∧
       leadAt listed jobThere ≠ listed.dvl.addr) ∧
    ((ctxOf listed 1).repairs.find? fun r => r.1 == 0) = some (0, 1) ∧ currentVer (ctxOf listed 1) 0 = some 0 ∧
    ¬ IsNew ⟨6, 1⟩ { up with dvl := { up.dvl with seen := [(6, 1, 0)] } } := by
  unfold IsNew
  decide +kernel

/-! ### Hypotheses: ledgers, kerf, collectives (O46, O47) -/

/-- A ledger object without records. -/
def ledgerObj : Obj := { thing with size := 64, durable := [], mem := cells [(0, 0x55), (1, 0x58), (2, 0x4C), (3, 0x47)] }

theorem test_hyps_ledger :
    let p := par [(0, 4, jobHere), (8, 8, h1)]
    let s := busy
    ctxOfJob s jobHere = some 1 ∧ cmdCtx s host 1 = some ctx1 ∧
      (
      let q := par [(0, 4, jobHere)]
      Starts ⟨host, 0x0501, .gluQuery host q, false, [(4, 44)], q⟩ s ∧ getLE q 0 4 = jobHere) ∧
      cmdJob s host (getLE p 0 4) = some job1 ∧
      Starts ⟨host, 0x0502, .gluLedgerRead host p, false, [(4, 4), (0x10, 32)], p⟩ s ∧ getLE p 8 8 = h1 ∧
      job1.ledgerGot = [] ∧ (∃ m ∈ job1.members, m ≠ s.dvl.addr) ∧
      Starts ⟨host, 0x0503, .gluLedgerLoad host p, false, [(4, 4), (0x10, 32)], p⟩ s := by
  unfold Starts
  decide +kernel

/-- A job of this module alone, REPLAY, with the ledger object in slot 1. -/
def solo : State := withObj ledgerObj (withJob { job1 with members := [5], flags := 2 } (withCtx 1 { ctx1 with state := .admitted } up))

theorem test_hyps_ledger_solo :
    let p := par [(0, 4, jobHere), (8, 8, h1)]
    let j := { job1 with members := [5], flags := 2 }
    cmdJob solo host (getLE p 0 4) = some j ∧ Starts ⟨host, 0x0502, .gluLedgerRead host p, false, [(4, 4), (0x10, 32)], p⟩ solo ∧
      Starts ⟨host, 0x0503, .gluLedgerLoad host p, false, [(4, 4), (0x10, 32)], p⟩ solo ∧ j.members = [solo.dvl.addr] ∧
      Unlisted host solo ∧ Memory.wf ledgerObj.mem = true ∧
      sortBy (fun a b : List Nat => !ledgerLt b a) (ownLedger solo jobHere).eraseDups = [] ∧ 64 + 16 * 0 ≤ ledgerObj.size ∧
      ctxOfJob solo jobHere = some 1 ∧ (ctxOf solo 1).state = .admitted ∧ bit j.flags 1 = true ∧
      parseLedger (objRead ledgerObj 0 ledgerObj.size) = some [] := by
  unfold Starts Unlisted
  decide +kernel

theorem test_hyps_ledger_obj : cmdObj solo host h1 2 = .ok ledgerObj ∧ cmdObj solo host h1 1 = .ok ledgerObj ∧
    cmdObj busy host h1 2 = .ok buffer := ⟨ok_of _ _ (by decide +kernel), ok_of _ _ (by decide +kernel),
    ok_of _ _ (by decide +kernel)⟩

/-- GLU.* of a job of nobody; an object of nobody; one too small for the ledger; a job that is not a REPLAY one, one that
runs, and an object that holds no ledger. -/
theorem test_hyps_ledger_cases :
    let p (job h : Nat) : Bytes := par [(0, 4, job), (8, 8, h)]
    let q (job : Nat) : Bytes := par [(0, 4, job)]
    (Starts ⟨host, 0x0501, .gluQuery host (q jobThere), false, [(4, 44)], q jobThere⟩ solo ∧ ctxOfJob solo jobThere = none) ∧
    (∀ x ∈ [(jobThere, h1), (jobHere, h2), (jobHere, h1)],
      Starts ⟨host, 0x0502, .gluLedgerRead host (p x.1 x.2), false, [(4, 4), (0x10, 32)], p x.1 x.2⟩ solo ∧
        Starts ⟨host, 0x0503, .gluLedgerLoad host (p x.1 x.2), false, [(4, 4), (0x10, 32)], p x.1 x.2⟩ solo) ∧
    cmdJob solo host jobThere = none ∧ isErr sObjUnknown (cmdObj solo host h2 2) = true ∧
    isErr sObjUnknown (cmdObj solo host h2 1) = true ∧ ({ ledgerObj with size := 63 } : Obj).size < 64 + 16 * 0 ∧
    bit job1.flags 1 = false ∧ (ctxOf busy 1).state ≠ .admitted ∧
    parseLedger (objRead { thing with size := 64 } 0 64) = none := by
  unfold Starts
  decide +kernel

/-- Context 4,095 sees snapshots of 15,360 B into `thing`; all flags of KRF.CLEAR; slots 1 and 16 with the least and the
greatest e0; the least and the greatest alpha. -/
def kerfs : State := withObj thing (withCtx 4095 { ctx1 with fps := [⟨0, 1, [⟨7, 5, 0, 0, 64, 0⟩], 0, 9⟩] } up)

theorem test_hyps_kerf :
    let r := par [(0, 2, 4095), (8, 8, h1)]
    let k := par [(0, 2, 4095), (2, 1, 7)]
    cmdCtx kerfs host 4095 = some (ctxOf kerfs 4095) ∧ getLE r 0 2 = 4095 ∧ getLE r 8 8 = h1 ∧
      Starts ⟨host, 0x0601, .krfRead host r, false, [(2, 6), (0x10, 32)], r⟩ kerfs ∧
      (kerfSnapshotBytes kerfs 4095).length ≤ thing.size ∧ Memory.wf thing.mem = true ∧
      Starts ⟨host, 0x0602, .krfClear host k, false, [(3, 45)], k⟩ kerfs ∧ getLE k 2 1 ≤ 7 ∧ kerfs.jig.running = false ∧
      Starts ⟨host, 0x0602, .krfClear host k, false, [(3, 45)], k⟩ { kerfs with jig := { kerfs.jig with running := true } } ∧
      Unlisted host kerfs ∧
      (∀ x ∈ [(1, 65536 - 149), (16, 66)],
        let h := par [(0, 2, 4095), (2, 1, x.1), (3, 1, 1), (4, 2, x.2)]
        Starts ⟨host, 0x0603, .krfHistSet host h, false, [(6, 42)], h⟩ kerfs ∧ 1 ≤ getLE h 2 1 ∧ getLE h 2 1 ≤ 16 ∧
          getLE h 3 1 ≤ 1 ∧ -149 ≤ signed 16 (getLE h 4 2) ∧ signed 16 (getLE h 4 2) ≤ 66) ∧
      (∀ a ∈ [1, 0x3F80_0000],
        let l := par [(0, 2, 4095), (4, 4, 0x7F7F_FFFF), (8, 4, a), (0x0C, 4, 65535)]
        Starts ⟨host, 0x0604, .krfLossSet host l, false, [(2, 2), (0x10, 32)], l⟩ kerfs ∧ posF32 (getLE l 4 4) = true ∧
          1 ≤ getLE l 8 4 ∧ getLE l 8 4 ≤ 0x3F80_0000 ∧ getLE l 0x0C 4 ≤ 65535) ∧
      (∀ n ∈ [1, 2],
        let f := par [(0, 2, 4095), (4, 4, n), (8, 8, h1)]
        Starts ⟨host, 0x0605, .krfFpRead host f, false, [(0x10, 32)], f⟩ kerfs ∧
          ((ctxOf kerfs 4095).fps.find? fun f' => f'.stage == getLE f 2 2 && f'.step == getLE f 4 4) =
            (if n = 1 then some ⟨0, 1, [⟨7, 5, 0, 0, 64, 0⟩], 0, 9⟩ else none)) ∧
      (fpBytes ⟨0, 1, [⟨7, 5, 0, 0, 64, 0⟩], 0, 9⟩).length ≤ thing.size := by
  unfold Starts Unlisted
  decide +kernel

/-- KRF.* on a context of nobody, with flag bit 3 and each 2, and with fields next to their range; objects too small and of
nobody. -/
theorem test_hyps_kerf_cases :
    let k (l : List (Nat × Nat × Nat)) : Bytes := par ((0, 2, 4095) :: l)
    let run : State := { kerfs with jig := { kerfs.jig with running := true } }
    cmdCtx up host 4095 = none ∧
      (∀ s ∈ [kerfs, up], Starts ⟨host, 0x0602, .krfClear host (k [(2, 1, 8)]), false, [(3, 45)], k [(2, 1, 8)]⟩ s ∧
        Starts ⟨host, 0x0602, .krfClear host (k [(2, 1, 7)]), false, [(3, 45)], k [(2, 1, 7)]⟩ s ∧
        Starts ⟨host, 0x0601, .krfRead host (k []), false, [(2, 6), (0x10, 32)], k []⟩ s ∧
        Starts ⟨host, 0x0605, .krfFpRead host (k []), false, [(0x10, 32)], k []⟩ s) ∧
      (∀ x ∈ [(0, 0, 0), (17, 0, 0), (1, 0, 65536 - 150), (1, 0, 67), (1, 2, 0)], ∀ s ∈ [kerfs, up, run],
        let h := k [(2, 1, x.1), (3, 1, x.2.1), (4, 2, x.2.2)]
        Starts ⟨host, 0x0603, .krfHistSet host h, false, [(6, 42)], h⟩ s ∧
          ¬ (getLE h 3 1 ≤ 1 ∧ 1 ≤ getLE h 2 1 ∧ getLE h 2 1 ≤ 16 ∧ -149 ≤ signed 16 (getLE h 4 2) ∧ signed 16 (getLE h 4 2) ≤ 66)) ∧
      (∀ x ∈ [(0, 1, 0), (0x7F80_0000, 1, 0), (1, 0, 0), (1, 0x3F80_0001, 0), (1, 1, 65536)], ∀ s ∈ [kerfs, up, run],
        let l := k [(4, 4, x.1), (8, 4, x.2.1), (0x0C, 4, x.2.2)]
        Starts ⟨host, 0x0604, .krfLossSet host l, false, [(2, 2), (0x10, 32)], l⟩ s ∧
          ¬ (posF32 (getLE l 4 4) = true ∧ 1 ≤ getLE l 8 4 ∧ getLE l 8 4 ≤ 0x3F80_0000 ∧ getLE l 0x0C 4 ≤ 65535)) ∧
      isErr sObjUnknown (cmdObj kerfs host 0 2) = true ∧ 15359 < (kerfSnapshotBytes kerfs 4095).length ∧
      (Starts ⟨host, 0x0602, .krfClear host (k [(2, 1, 7)]), false, [(3, 45)], k [(2, 1, 7)]⟩ run ∧ run.jig.running = true) := by
  unfold Starts
  decide +kernel

/-- An instance of collective 9 of `ctx1`'s job, of modules 5 and 6, with a descriptor. -/
def inst1 (d : Bytes) : Inst where
  key := ⟨9, jobHere, 0⟩
  ctx := 1
  desc := d
  parts := []
  expected := 2
  members := [5, 6]
  rank := 0
  signature := 77
  closeT := 100
  ttrav := 10
  anchorT := 50
  queue := none
  ready := false
  ownProposals := []
  proposals := []
  agreed := []
  got := []
  order := []
  res := []
  firstSeen := []
  firstSent := []
  late := []
  summed := false
  closed := false
  committed := false
  stopped := false

def withInst (i : Inst) (s : State) : State := { s with glu := { s.glu with insts := [i] } }

/-- Each op finds its instance open, one part short of two; its operands can be read. -/
theorem test_hyps_coll_ops : collOps.map dKind = [3, 4, 5, 0x16, 6, 7] ∧ ∀ d ∈ collOps,
    let s := withInst (inst1 d) crew
    let e := opEnv (opTurn ⟨0, 0⟩ d s) ⟨0, 0⟩ d 1
    runsOp ⟨0, 0⟩ d 1 s = true ∧ (dKind d = 6 ∨ dKind d = 7 → attnRing d = true) ∧
      (match partOperands (opBegins ⟨0, 0⟩ d 1 (place ⟨0, 0⟩ d 1 s) s) e d with
        | .ok _ => true
        | .error _ => false) = true ∧
      (⟨cId (collExt d), (ctxOf s 1).job, e.step⟩ : InstKey) = (inst1 d).key ∧ (inst1 d).committed = false ∧
      instOf s (inst1 d).key = some (inst1 d) ∧ (inst1 d).stopped = false ∧
      (inst1 d).parts.length + 1 ≠ (inst1 d).expected := by decide +kernel

theorem test_hyps_coll_runs (d : Bytes) (h : d ∈ collOps) : OpRuns ⟨0, 0⟩ d 1 (place ⟨0, 0⟩ d 1 (withInst (inst1 d) crew))
    (withInst (inst1 d) crew) := runs_of _ _ _ _ (test_hyps_coll_ops.2 d h).1

/-- A GEMM_AR and an AG_GEMM of two members over two rows, a native SUM BARRIER, and a BARRIER without data. -/
def ar2 : Bytes := descX 5 1 (mm ++ [(0x28, 2, 2)]) [sums 2 ++ [(0x14, 4, 2), (0x24, 4, 2)]]

def ag2 : Bytes := descX 4 1 (mm ++ [(0x28, 2, 2)]) [gathers 2 ++ [(0x14, 4, 2), (0x24, 4, 2)]]

/-- Each op opens an instance of one part, of which it is the last. -/
theorem test_hyps_coll_open : ∀ d ∈ collOps,
    let k : InstKey := ⟨9, jobHere, 0⟩
    runsOp ⟨0, 0⟩ d 1 crew = true ∧ instOf crew k = none ∧
      ((instOf (newInst k 1 0 d (opBegins ⟨0, 0⟩ d 1 (place ⟨0, 0⟩ d 1 crew) crew)) k).map fun x =>
        (x.stopped, x.parts.length)) = some (false, 0) := by decide +kernel

/-- A message of module 6, rank 1, for the instance: row 1, with signature `sig`; `first`: a first message, with the
epoch and digest 0. -/
def collMsgHdr (first sig : Nat) : Bytes :=
  let h := rec64 [(0, 4, 9), (8, 2, 1), (0x0A, 2, 16 * first), (0x0C, 4, 1), (0x10, 4, sig), (0x30, 4, 1)]
  setLE h 0x3C 4 (crc32c (slice h 0 0x3C))

/-- A segment with the instance's signature. -/
def collHdr : Bytes := collMsgHdr 0 77

theorem test_hyps_coll_messages : ∀ d ∈ [ar2, ag2],
    let i := inst1 d
    let s := withInst i crew
    let h := slice collHdr 0 64
    ReachesInst false ⟨6, 1⟩ collHdr i.key i s ∧ hSig h = i.signature ∧ dKind i.desc ≠ 7 ∧ isRing i.desc = false ∧
      i.committed = false ∧ (i.proposals.any fun p => p.1 == hRank h) = false ∧
      (i.agreed.any fun a => a.1 == hRank h) = false ∧ (reduces i = (dKind d == 5)) ∧
      (reduces i = true → (gotOf i (hRank h) ++ [1, 2, 3]).length < contribBytes i) ∧
      { i with members := [5, 6, 7] }.proposals.length + 1 ≠ { i with members := [5, 6, 7] }.members.length := by
  unfold ReachesInst IsNew
  decide +kernel

theorem test_hyps_propose :
    let i := { inst1 ar2 with members := [5, 6, 7] }
    ReachesInst false ⟨6, 1⟩ collHdr i.key i (withInst i crew) ∧ i.proposals.length + 1 ≠ i.members.length := by
  unfold ReachesInst IsNew
  decide +kernel

/-- First messages of the instance's signature, in the configuration in force and in another, and of another signature. -/
theorem test_hyps_coll_first : ∀ n ∈ [0, 1],
    let i := { inst1 ar2 with closeT := 100 }
    let s := withInst i { crew with dvl := { crew.dvl with epoch := n, digest := 0 } }
    let h := slice (collMsgHdr 1 77) 0 64
    ReachesInst true ⟨6, 1⟩ (collMsgHdr 1 77) i.key i s ∧ hSig h = i.signature ∧
      ((getLE h 0x14 4 ≠ s.dvl.epoch ∨ getLE h 0x18 16 ≠ s.dvl.digest) ↔ n = 1) ∧
      ReachesInst true ⟨6, 1⟩ (collMsgHdr 1 78) i.key i s ∧ hSig (slice (collMsgHdr 1 78) 0 64) ≠ i.signature ∧
      i.committed = false ∧ s.now < i.closeT ∧ i.closed = false := by
  unfold ReachesInst IsNew
  decide +kernel

/-- A copy; a bad CRC; a rank that is not the sender's; a segment of another signature. -/
theorem test_hyps_coll_discarded :
    let i := inst1 ar2
    let s := withInst i crew
    let h := slice collHdr 0 64
    ¬ IsNew ⟨6, 1⟩ { s with dvl := { s.dvl with seen := [(6, 1, 0)] } } ∧
      (let b := slice (setLE collHdr 0x3C 4 0) 0 64
       crc32c (slice b 0 0x3C) ≠ getLE b 0x3C 4) ∧
      (IsNew ⟨7, 1⟩ s ∧ crc32c (slice h 0 0x3C) = getLE h 0x3C 4 ∧ activeCtx (ctxOf s (hCtx h)) = true ∧
        i.key = ⟨hColl h, (ctxOf s (hCtx h)).job, hStep h⟩ ∧ instOf s i.key = some i ∧ i.members[hRank h]? ≠ some 7) ∧
      (ReachesInst false ⟨6, 1⟩ (collMsgHdr 0 78) i.key i s ∧ hSig (slice (collMsgHdr 0 78) 0 64) ≠ i.signature) := by
  unfold ReachesInst IsNew
  decide +kernel

/-- The last segment of module 6's contribution to chunk 0, one row of 16 B: with module 5's own still out and in, at one
anchor and at two; and one that comes when the sum is closed, under DEFER and under DROP. -/
theorem test_hyps_coll_complete : ∀ x ∈ [(false, false, 0), (false, true, 0), (false, true, 32), (true, false, 0)],
    ∀ drop ∈ [0, 1],
    let own : Bytes := List.replicate 11 0 ++ [x.2.2, 0, 0, 0, 0]
    let d := descX 5 1 (mm ++ [(0x28, 2, 2)]) [sums 2 ++ [(0x14, 4, 2), (0x24, 4, 2), (0x2A, 1, 4 * drop)]]
    let i := { inst1 d with
      summed := x.1, order := if x.2.1 then [0] else [], got := if x.2.1 then [(0, own)] else []
      proposals := [(0, [0]), (1, [0])] }
    let s := withInst i (withCtx 1 { ctx1 with steps := 3 } plant)
    let z := { i with order := i.order ++ [1], got := tset i.got 1 (List.replicate 16 0) }
    ReachesInst false ⟨6, 1⟩ collHdr i.key i s ∧ hSig (slice collHdr 0 64) = i.signature ∧ reduces i = true ∧
      dKind i.desc ≠ 7 ∧ contribBytes i = 16 ∧ i.order.contains 1 = false ∧ sumReady s z = x.2.1 ∧
      (x.2.1 → anchorsMeet (wideParts s z).1 = (x.2.2 == 0)) ∧ chunkRows i i.rank ≠ [] ∧ isWideSum i = true ∧
      latePolicy s i 1 = drop ∧ s.dvl.hold = false := by
  unfold ReachesInst IsNew
  decide +kernel

/-- An ABORT of an instance that has committed, and proposals and agreed anchors known already. -/
theorem test_hyps_coll_known :
    let i := { inst1 ar2 with committed := true, proposals := [(1, [0])], agreed := [(1, [0])] }
    ReachesInst false ⟨6, 1⟩ collHdr i.key i (withInst i crew) ∧ i.committed = true ∧
      (i.proposals.any fun p => p.1 == hRank (slice collHdr 0 64)) = true ∧
      (i.agreed.any fun a => a.1 == hRank (slice collHdr 0 64)) = true ∧
      (let j := { inst1 ar2 with proposals := [(0, [0])] }
       ReachesInst false ⟨6, 1⟩ collHdr j.key j (withInst j crew) ∧ j.proposals.length + 1 = j.members.length) := by
  unfold ReachesInst IsNew
  decide +kernel

theorem test_hyps_coll_instants :
    let i := inst1 ar2
    let s := withInst i (withCtx 1 { ctx1 with steps := 3 } plant)
    instOf crew i.key = none ∧ (withCtx 1 { ctx1 with steps := 3, ledger := [] } plant).glu.deferred = [] ∧
      (let r := { i with key := ⟨9, jobHere, 1⟩ }
       waitsAll (withInst r crew) r = true ∧ r.proposals = []) ∧ { i with closed := true }.closed = true ∧
      isWideSum (inst1 ag2) = false ∧ { i with committed := true }.committed = true ∧
      instOf s i.key = some i ∧ i.stopped = false ∧ isWideSum i = true ∧ chunkRows i i.rank ≠ [] ∧ waitsAll s i = false ∧
      i.closed = false ∧ absorbs i = true ∧ absorbs (inst1 ag2) = false ∧ isReplay (ctxOf s i.ctx) = false ∧
      (List.range i.members.length).filter (fun r => !i.order.contains r || i.late.contains r) = [0, 1] ∧
      (ctxOf s i.ctx).ledger.length + 2 ≤ 1048576 ∧ deferredFor s i = [] ∧ canCommit s i = false ∧
      (
      let j := { i with ready := true, summed := true, res := [(0, List.replicate 64 0), (1, List.replicate 64 0)], firstSeen := [(1, 77)] }
      instOf (withInst j s) j.key = some j ∧ canCommit (withInst j s) j = true) ∧
      (
      let k := { i with key := ⟨9, jobThere, 0⟩ }
      instOf (withInst k s) k.key = some k ∧ k.committed = false ∧ k.stopped = false ∧ holdsResults k = false ∧
        leadAt s k.key.job ≠ s.dvl.addr) := by decide +kernel

/-! ### Hypotheses: Dovetail (O48 to O50) -/

/-- A configuration set of epoch 2 without records, as an object of 64 B. -/
def setObj : Obj := { thing with size := 64, durable := [], mem := cells [(0, 0x55), (1, 0x58), (2, 0x43), (3, 0x46), (4, 2), (0x10, 3)] }

/-- `pairUp` with the set in slot 1, epoch 1 in force, port 0 UP at both halves. -/
def wired : State := withObj setObj { pairUp with
  dvl := { pairUp.dvl with epoch := 1, map := some map2, ports := [(0, { PortSt.reset with state := 4, width := 3, litLow := true, litHigh := true }),
    (28, { PortSt.reset with state := 4, width := 1 })] } }

def staged2 : Staged := ⟨2, 77, 1000000, [], none⟩

def stagedFor (t : Nat) : State := { wired with dvl := { wired.dvl with staged := some { staged2 with t := t } } }

theorem test_hyps_dvl_commands : ∀ x ∈ [(0, 0), (31, 31)],
    let q := par [(0, 1, x.1)]
    let c := par [(0, 2, 16 + 65519 * b2n (x.1 != 0)), (2, 1, 1 + 63 * b2n (x.1 != 0))]
    Starts ⟨host, 0x0801, .dvlQuery host q, false, [(1, 47)], q⟩ wired ∧ getLE q 0 1 < 32 ∧
      Starts ⟨host, 0x0802, .dvlConfig host c, true, [(3, 45)], c⟩ wired ∧ 16 ≤ getLE c 0 2 ∧ 1 ≤ getLE c 2 1 ∧ getLE c 2 1 ≤ 64 := by
  unfold Starts
  decide +kernel

/-- Enable and retrain port 0, which is UP; disable port 27. S0 has its gateway. -/
theorem test_hyps_dvl_port : ∀ x ∈ [(0, 0), (27, 1), (0, 2)],
    let p := par [(0, 1, x.1), (1, 1, x.2)]
    let n := getLE p 0 1
    Starts ⟨host, 0x0803, .dvlPort host p, true, [(2, 46)], p⟩ wired ∧ n < 32 ∧ isS n = false ∧ getLE p 1 1 = x.2 ∧
      (n = 0 → (portOf wired n).state = 4) ∧ (n = 27 → (portOf wired n).state ≠ 4 ∧ (portOf wired n).retraining = false) ∧
      gatewayOf wired 28 = 7 ∧ Unlisted host wired := by
  unfold Starts Unlisted
  decide +kernel

/-- Port 32; thresholds 15, 0 and 65; an action 3; an S port without a gateway; port 27 with a half lit and dark, LOST, and
retraining. -/
theorem test_hyps_dvl_refused :
    let q := par [(0, 1, 32)]
    let c (n w : Nat) : Bytes := par [(0, 2, n), (2, 1, w)]
    let a (n act : Nat) : Bytes := par [(0, 1, n), (1, 1, act)]
    let go (n act : Nat) (s : State) : Bool := starts 0x0803 (.dvlPort host (a n act)) true [(2, 46)] (a n act) s
    let on (x : PortSt) : State := { wired with dvl := { wired.dvl with ports := [(27, x)] } }
    starts 0x0801 (.dvlQuery host q) false [(1, 47)] q wired = true ∧ 32 ≤ getLE q 0 1 ∧
      (∀ x ∈ [(15, 1), (16, 0), (16, 65)], starts 0x0802 (.dvlConfig host (c x.1 x.2)) true [(3, 45)] (c x.1 x.2) wired = true ∧
        ¬ (16 ≤ getLE (c x.1 x.2) 0 2 ∧ 1 ≤ getLE (c x.1 x.2) 2 1 ∧ getLE (c x.1 x.2) 2 1 ≤ 64)) ∧
      (go 32 0 wired = true ∧ go 0 3 wired = true ∧ go 29 0 wired = true ∧ gatewayOf wired 29 = 0 ∧ isS 29 = true) ∧
      (∀ y ∈ [PortSt.reset, { PortSt.reset with litHigh := true }], go 27 0 (on y) = true ∧ (portOf (on y) 27).state = 0) ∧
      (∀ act ∈ [0, 1, 2], go 27 act (on { PortSt.reset with state := 5 }) = true) ∧
      (go 27 1 (on { PortSt.reset with state := 2, retraining := true }) = true) := by decide +kernel

/-- The set is staged at once, 10 ms to 24 h before its T. -/
theorem test_hyps_cfg_stage : ∀ t ∈ [10000000, 86400000000000],
    let p := par [(0, 8, h1), (8, 8, t), (0x10, 4, 2)]
    Starts ⟨host, 0x0811, .cfgStage host p, true, [(0x14, 28)], p⟩ wired ∧ wired.dvl.staged = none ∧ wired.dvl.hold = false ∧
      setOk (objRead setObj 0 setObj.size) (getLE p 0x10 4) = true ∧ getLE (setBytes (objRead setObj 0 setObj.size)) 0x18 8 = 0 ∧
      getLE p 0x10 4 = wired.dvl.epoch + 1 ∧ wired.now + 10000000 ≤ getLE p 8 8 ∧ getLE p 8 8 ≤ wired.now + 86400000000000 ∧
      getLE p 0 8 = h1 := by
  unfold Starts
  decide +kernel

/-- A set of epoch `e` whose map is the object `m`, with the map's digest. -/
def setMap (e m : Nat) : Obj := { thing with size := 64, durable := [], mem := memWrite [] 0 (fields 64 [(0, 4, 0x4643_5855), (4, 4, e),
  (0x10, 4, 3), (0x18, 8, m), (0x20, 32, 0x5bdc01bfcce250cdecea8d84aa02d2166b93e50ada37c062b8e8404452e3689b)]) }

def mapObj : Obj := { thing with size := 136, durable := [], mem := memWrite [] 0 map2 }

/-- In HOLD behind a fleet of epoch 7. -/
def behind7 : State := { wired with
  mem := { wired.mem with objs := [(1, setMap 7 0)] }
  dvl := { wired.dvl with hold := true, ports := [(0, { PortSt.reset with state := 4, nbrKeep := some ⟨7, 0, 0, 0, 0⟩ })] } }

/-- A set staged already; a handle of nothing; a set of another epoch, and one whose map is not there; a set with its map;
the wrong epoch; T 1 ns too soon and too late; behind the fleet, T past and still to come. -/
theorem test_hyps_cfg_stage_cases :
    let p (h t e : Nat) : Bytes := par [(0, 8, h), (8, 8, t), (0x10, 4, e)]
    let go (h t e : Nat) (s : State) : Bool := starts 0x0811 (.cfgStage host (p h t e)) true [(0x14, 28)] (p h t e) s
    let m (e x : Nat) : State := { wired with mem := { wired.mem with objs := [(1, setMap e x), (2, mapObj)] } }
    (go h1 0 2 (stagedFor 9) = true ∧ (stagedFor 9).dvl.staged.isSome = true) ∧
      (go h3 0 2 wired = true ∧ isErr sObjUnknown (cmdObj wired host h3 1) = true) ∧
      (go h1 0 3 wired = true ∧ setOk (objRead setObj 0 64) 3 = false) ∧
      (go h1 0 2 (m 2 h3) = true ∧ setOk (objRead (setMap 2 h3) 0 64) 2 = true ∧
        isErr sObjUnknown (cmdObj (m 2 h3) host (getLE (setBytes (objRead (setMap 2 h3) 0 64)) 0x18 8) 1) = true) ∧
      (let b := setBytes (objRead (setMap 2 h2) 0 64)
       let mb := objRead mapObj 0 mapObj.size
       go h1 10000000 2 (m 2 h2) = true ∧ setOk (objRead (setMap 2 h2) 0 64) 2 = true ∧ getLE b 0x18 8 = h2 ∧
        isOk mapObj (cmdObj (m 2 h2) host h2 1) = true ∧ mapOk mb = true ∧ sha256 (slice mb 0 (mapLen mb)) = slice b 0x20 32) ∧
      (go h1 0 3 (m 3 0) = true ∧ setOk (objRead (setMap 3 0) 0 64) 3 = true ∧ 3 ≠ (m 3 0).dvl.epoch + 1 ∧ (m 3 0).dvl.hold = false) ∧
      (∀ t ∈ [9999999, 86400000000001], go h1 t 2 wired = true ∧ (t < wired.now + 10000000 ∨ wired.now + 86400000000000 < t)) ∧
      (∀ t ∈ [0, 10000000], go h1 t 7 behind7 = true ∧ setOk (objRead (setMap 7 0) 0 64) 7 = true ∧
        isOk (setMap 7 0) (cmdObj behind7 host h1 1) = true ∧ getLE (setBytes (objRead (setMap 7 0) 0 64)) 0x18 8 = 0 ∧
        behind7.dvl.staged = none ∧ behind7.dvl.hold = true ∧ (majorityPair behind7).map (·.1) = some 7) := by
  decide +kernel

theorem test_hyps_cfg : ∀ t ∈ [1000000, 999999],
    Starts ⟨host, 0x0812, .cfgCancel host [], true, [(0, 48)], []⟩ (stagedFor t) ∧
      Starts ⟨host, 0x0813, .cfgQuery host [], false, [(0, 48)], []⟩ (stagedFor t) ∧
      (stagedFor t).dvl.staged = some { staged2 with t := t } ∧
      (if t = 1000000 then (stagedFor t).now + 1000000 ≤ t else t < (stagedFor t).now + 1000000) := by
  unfold Starts
  decide +kernel

theorem test_hyps_cfg_none : starts 0x0812 (.cfgCancel host []) true [(0, 48)] [] wired = true ∧ wired.dvl.staged = none := by
  decide +kernel

theorem test_hyps_dvl_obj : cmdObj wired host h1 1 = .ok setObj ∧ cmdObj wired host h1 2 = .ok setObj :=
  ⟨ok_of _ _ (by decide +kernel), ok_of _ _ (by decide +kernel)⟩

/-- An EXT_READ and an EXT_WRITE of 1 byte and of all 64 B on S0, with its last tag free. -/
theorem test_hyps_ext : ∀ len ∈ [1, 64],
    let p := par [(8, 8, 3), (0x10, 8, 5), (0x18, 4, len), (0x20, 8, h1)]
    let s := { wired with dvl := { wired.dvl with ext := (List.range 63).map fun g => ⟨0, g, true, h1, 0, 0, 1, host⟩ } }
    getLE p 0 1 ≤ 3 ∧ 1 ≤ getLE p 0x18 4 ∧ getLE p 0x18 4 ≤ 64 * mib ∧ getLE p 0x28 8 + getLE p 0x18 4 ≤ setObj.size ∧
      extUp s (getLE p 0 1) = true ∧ freeTag s (getLE p 0 1) = some 63 ∧ getLE p 0x20 8 = h1 ∧
      Starts ⟨host, 0x0804, .dvlExtRead host p, false, [(1, 7), (0x1C, 4)], p⟩ s ∧
      Starts ⟨host, 0x0805, .dvlExtWrite host p, false, [(1, 7), (0x1C, 4)], p⟩ s ∧
      poisonedIn setObj (getLE p 0x28 8) (getLE p 0x18 4) = false := by
  unfold Starts
  decide +kernel

/-- Port S4; 64 MiB and 1 B; a handle of nothing; a range that ends 1 B past the object; a gateway that is not there; no
bytes; a poisoned line; no tag left. -/
theorem test_hyps_ext_refused :
    let p (n len h off : Nat) : Bytes := par [(0, 1, n), (0x18, 4, len), (0x20, 8, h), (0x28, 8, off)]
    let go (n len h off : Nat) (s : State) : Bool :=
      starts 0x0804 (.dvlExtRead host (p n len h off)) false [(1, 7), (0x1C, 4)] (p n len h off) s &&
        starts 0x0805 (.dvlExtWrite host (p n len h off)) false [(1, 7), (0x1C, 4)] (p n len h off) s
    let bad : State := { wired with mem := { wired.mem with objs := [(1, { setObj with poisoned := [0] })] } }
    let full : State := { wired with dvl := { wired.dvl with ext := (List.range 64).map fun g => ⟨0, g, true, h1, 0, 0, 1, host⟩ } }
    go 4 1 h1 0 wired = true ∧ go 0 (64 * mib + 1) h1 0 wired = true ∧
      (go 0 1 h3 0 wired = true ∧ isErr sObjUnknown (cmdObj wired host h3 2) = true) ∧
      (go 0 65 h1 0 wired = true ∧ go 0 64 h1 1 wired = true ∧ setObj.size = 64) ∧
      (go 1 64 h1 0 wired = true ∧ extUp wired 1 = false) ∧ (go 0 0 h1 64 wired = true ∧ extUp wired 0 = true) ∧
      (go 0 64 h1 0 bad = true ∧ poisonedIn { setObj with poisoned := [0] } 0 64 = true) ∧
      (go 0 64 h1 0 full = true ∧ freeTag full 0 = none) := by decide +kernel

/-- The last data of a read, and a write, whose commands wait for them. -/
theorem test_hyps_ext_answers : ∀ r ∈ [true, false],
    let x : ExtTag := ⟨3, 63, r, h1, 0x20, 5, 2, host⟩
    let w : Wait := if r then .extRead 3 63 else .extWrite 3 63
    let s := { wired with
      dvl := { wired.dvl with ext := [x] }
      host := { wired.host with outst := [⟨host, .dvlExtRead host [], 0x0804, false, false, w⟩] } }
    extTag s (3 : Fin 4) 63 = some x ∧ x.read = r ∧ findObj s x.handle = some setObj ∧ x.left = ([1, 2] : Bytes).length ∧
      x.objOff + 0x1E + ([1, 2] : Bytes).length ≤ setObj.size ∧ Memory.wf setObj.mem = true ∧
      ∃ o ∈ s.host.outst, o.wait = w := by decide +kernel

/-- No command under the tag; data before, above and beyond what the read asked for, and of no object; part of it; an
acknowledgement of a read. -/
theorem test_hyps_ext_answer_cases :
    let x (r : Bool) (h : Nat) : ExtTag := ⟨3, 63, r, h, 0x20, 5, 2, host⟩
    let s (r : Bool) (h : Nat) : State := { wired with dvl := { wired.dvl with ext := [x r h] } }
    extTag (s true h1) (3 : Fin 4) 62 = none ∧ extTag (s false h1) (3 : Fin 4) 63 = some (x false h1) ∧ (4 < (x true h1).extOff) ∧
      (x true h1).left < ([1, 2, 3] : Bytes).length ∧ extTag (s true h3) (3 : Fin 4) 63 = some (x true h3) ∧
      findObj (s true h3) h3 = none ∧ findObj (s true h1) h1 = some setObj ∧ setObj.size < 0x20 + (36 - 5) + 2 ∧
      (x true h1).read = true ∧ ([1] : Bytes).length < (x true h1).left := by decide +kernel

/-- Port 27 DARK; in training at its first attempt; retraining; DOWN with a half lit. -/
def porting (x : PortSt) : State := { wired with dvl := { wired.dvl with ports := [(27, x)] } }

theorem test_hyps_ports :
    (portOf (porting { PortSt.reset with state := 1 }) (27 : Fin 32)).state = 1 ∧ wired.pwr.state = .active ∧
      (portOf (porting { PortSt.reset with state := 2 }) (27 : Fin 32)).state = 2 ∧
      (portOf (porting { PortSt.reset with state := 2 }) (27 : Fin 32)).retraining = false ∧
      (portOf (porting { PortSt.reset with state := 2, retraining := true }) (27 : Fin 32)).retraining = true ∧
      (portOf (porting { PortSt.reset with state := 6 }) (27 : Fin 32)).state = 6 ∧ (portOf wired (0 : Fin 32)).state = 4 ∧
      bit (portOf wired (0 : Fin 32)).width 0 = true ∧ bit (portOf wired (0 : Fin 32)).width 1 = true ∧
      goodLow (portOf wired (0 : Fin 32)) = true ∧ goodHigh (portOf wired (0 : Fin 32)) = true := by decide +kernel

/-- Light on a DARK port and elsewhere; loss of light on ports in no state that it ends; loss of a lane that port 27's width
uses, with a half left and with none, and of one that it does not use; a port for which none of the timers runs. -/
theorem test_hyps_port_cases :
    let up (l : List Nat) (w : Nat) : PortSt := { PortSt.reset with state := 4, width := w, litLow := true, litHigh := true, failedLanes := l }
    let y (l : List Nat) (n : Nat) : PortSt := { up l 3 with failedLanes := (n :: l).eraseDups }
    wired.pwr.state = .active ∧ (portOf (porting PortSt.reset) (27 : Fin 32)).state ≠ 1 ∧
      ((portOf (porting { PortSt.reset with state := 1 }) (27 : Fin 32)).litLow || true) = true ∧
      (portOf (porting { PortSt.reset with state := 1 }) (27 : Fin 32)).litHigh = false ∧
      (∀ n ∈ [0, 1, 5, 6], (portOf (porting { PortSt.reset with state := n }) (27 : Fin 32)).state ≠ 4 ∧
        (portOf (porting { PortSt.reset with state := n }) (27 : Fin 32)).state ≠ 2 ∧
        (portOf (porting { PortSt.reset with state := n }) (27 : Fin 32)).retraining = false) ∧
      (portOf (porting (up [] 3)) (27 : Fin 32)).state = 4 ∧ bit (up [] 3).width 1 = true ∧
      goodLow (y [] 4) = true ∧ goodHigh (y [] 4) = false ∧ goodLow (y [0] 7) = false ∧ goodHigh (y [0] 7) = false ∧
      bit (up [] 1).width 1 = false ∧ (portOf (porting { PortSt.reset with replay := 0 }) (27 : Fin 32)).state ≠ 4 := by decide +kernel

/-- Replay windows of an UP port: the last one of n_win above n_ev, and the first one. -/
theorem test_hyps_replay_window : ∀ w ∈ [wired.dvl.nWin - 1, 0],
    let s := porting { PortSt.reset with state := 4, replay := wired.dvl.nEv + 1, overWindows := w }
    let x := portOf s (27 : Fin 32)
    let many := if s.dvl.nEv < x.replay then x.overWindows + 1 else 0
    x.state = 4 ∧ 1 < s.dvl.nWin ∧ (if w = 0 then many < s.dvl.nWin else s.dvl.nWin ≤ many) := by decide +kernel

theorem test_hyps_training :
    let at_ (n : Nat) (m : Option Bytes) : State := { wired with dvl := { wired.dvl with step := n, map := m } }
    (∀ d ∈ [false, true], (at_ 3 none).dvl.step = 3 ∧ (⟨[], d, [], true, []⟩ : TrainResult).dead = d ∧ (⟨[], d, [], true, []⟩ : TrainResult).mapValid = true) ∧
      (at_ 4 (some map2)).dvl.step = 4 ∧ (ownMod (at_ 4 (some map2))).isSome = true ∧ (at_ 4 (some map2)).dvl.map.isSome = true ∧
      (at_ 4 none).dvl.step = 4 ∧ (at_ 4 none).dvl.map = none := by decide +kernel

/-- Steps at which memory training and bring-up do not end; a failed device; a block map that is not there; a module that
its map does not list, and one of another installation. -/
theorem test_hyps_training_cases :
    let on (n : Nat) : State := { wired with dvl := { wired.dvl with step := n } }
    (on 10).dvl.step ≠ 3 ∧ (on 10).dvl.step ≠ 4 ∧ (on 10).dvl.step ≠ 5 ∧ (⟨[], false, [], false, []⟩ : TrainResult).mapValid = false ∧
      (∀ n ∈ [4, 5], (on n).dvl.step = n) ∧ (∃ m ∈ mapMods (theMap (on 4)), m.serial = (on 4).dvl.serial) ∧ (on 4).dvl.install = none ∧
      (¬ ∃ m ∈ mapMods (theMap (on 4)), m.serial = 99) ∧
      (let s : State := { wired with dvl := { wired.dvl with step := 4, install := some 1 } }
       s.dvl.install = some 1 ∧ 1 ≠ getLE (theMap s) 4 4) ∧
      isS 28 = true ∧ gatewayOf (on 3) 28 = 7 ∧ gatewayOf (on 3) 29 = 0 := by decide +kernel

/-- INIT of module 6, of the serial that the map gives it and of another. -/
theorem test_hyps_init : ∀ n ∈ [10, 11],
    let s := { wired with dvl := { wired.dvl with ports := [(0, { PortSt.reset with state := 2, litLow := true, litHigh := true })] } }
    let i : InitFlit := ⟨n, 6, 0, 0, true, false, 1, 0, 0, 0⟩
    let x := portOf s (0 : Fin 32)
    x.state = 2 ∧ x.retraining = false ∧ widthOf (goodLow x && i.low) (goodHigh x && i.high) = 1 ∧ isS (0 : Fin 32) = false ∧
      (if n = 10 then expected s (0 : Fin 32) = some (i.serial, i.addr, i.port)
        else expected s (0 : Fin 32) ≠ some (i.serial, i.addr, i.port)) := by decide +kernel

/-- INIT on a port that awaits none; with no half good; again from the partner of a MISCABLED port, and from another; after
a retrain from the partner, from another and with no half good. -/
theorem test_hyps_init_cases :
    let i : InitFlit := ⟨10, 6, 0, 0, true, false, 1, 0, 0, 0⟩
    let on (y : PortSt) : State := { wired with dvl := { wired.dvl with ports := [(0, y)] } }
    let lit : PortSt := { PortSt.reset with state := 2, litLow := true, litHigh := true }
    let wrong (a : Nat) : PortSt := { lit with state := 5, partnerSerial := 10, partner := a }
    let w (y : PortSt) : Nat := widthOf (goodLow (portOf (on y) (0 : Fin 32)) && i.low) (goodHigh (portOf (on y) (0 : Fin 32)) && i.high)
    (portOf (on { lit with state := 4 }) (0 : Fin 32)).state ≠ 2 ∧ (portOf (on { lit with state := 4 }) (0 : Fin 32)).state ≠ 5 ∧
      (wrong 6).partnerSerial = i.serial ∧ (wrong 6).partner = i.addr ∧ (wrong 6).partnerPort = i.port ∧
      ¬ ((wrong 7).partnerSerial = i.serial ∧ (wrong 7).partner = i.addr ∧ (wrong 7).partnerPort = i.port) ∧
      w { lit with litLow := false } = 0 ∧ w (wrong 7) = 1 ∧ w { lit with retraining := true } = 1 ∧
      w { lit with retraining := true, litLow := false } = 0 ∧ expected (on lit) (0 : Fin 32) = some (i.serial, i.addr, i.port) ∧
      expected (on lit) (1 : Fin 32) ≠ some (i.serial, i.addr, i.port) := by decide +kernel

theorem test_flit_crc : crc32c (slice (flit 3569363441) 0 0xFC) = getLE (flit 3569363441) 0xFC 4 := by
  rw [crc32c_runs 7]
  decide +kernel

theorem test_flit_crc_bad : crc32c (slice (flit 3569363440) 0 0xFC) ≠ getLE (flit 3569363440) 0xFC 4 := by
  rw [crc32c_runs 7]
  decide +kernel

/-- That flit with another type, other flags (6: its last, 10: cut short, 4 and 8: of a message under way) or for another
module. -/
def flitOf (ty fl dst crc : Nat) : Bytes :=
  [.ofNat 8 ty, .ofNat 8 fl, 0, 0, 0, 0, 0, 0, .ofNat 8 dst, 0, 0, 0, 6, 0, 0, 0, 1, 1, 0, 0, 0, 0, 0, 0, 3] ++ List.replicate 227 0 ++ toLE 4 crc

theorem test_flit_crcs : ∀ x ∈ [(9, 2, 5, 1979017561), (1, 6, 5, 1851185232), (1, 10, 5, 2751577154), (1, 4, 5, 2985008120), (1, 8, 5, 2075983850),
    (1, 0, 5, 192768601), (1, 2, 6, 2191115683)],
    crc32c (slice (slice (flitOf x.1 x.2.1 x.2.2.1 x.2.2.2) 0 256) 0 0xFC) = getLE (slice (flitOf x.1 x.2.1 x.2.2.1 x.2.2.2) 0 256) 0xFC 4 := by
  intro x hx
  simp only [List.mem_cons, List.not_mem_nil, or_false] at hx
  rcases hx with rfl | rfl | rfl | rfl | rfl | rfl | rfl <;> rw [crc32c_runs 7] <;> decide +kernel

/-- The flits are formed but the first; each on port 0 or 28, UP, in a state where its case holds: next, a gap, old, far;
no buffer left; a message open, and none; a route that S0 may not have; this module's message, its first flit, its last and
one cut short, and the same of a message under way; another module's message, in on port 27 and out on port 0. -/
theorem test_hyps_flit_cases :
    let on (n : Nat) (y : PortSt) : State := { wired with dvl := { wired.dvl with ports := [(n, { y with state := 4 })] } }
    let f := flit 3569363441
    let case (y : PortSt) : SeqCase := seqCase (portOf (takeHdr 0 ⟨0, none, 0, 0⟩ (on 0 y)) 0) (getLE f 2 2)
    let full : PortSt := { PortSt.reset with rxReq := 256, rxShared := 1536 }
    let m : OpenMsg := ⟨.here, 6, 3, 0x101, 300, 0, []⟩
    let fwd : State := { wired with dvl := { wired.dvl with ports := [(0, { PortSt.reset with state := 4, crReq := 1 }), (27, { PortSt.reset with state := 4 })] } }
    let formed (f : Bytes) : Bool := decide (getLE f 0 1 ≤ 8 ∧ getLE f 1 1 ≤ 15 ∧ getLE f 2 2 < 4096 ∧ bits (getLE f 4 2) 14 12 = 0)
    (slice f 0 256 = f ∧ formed f = true ∧ formed (flitOf 9 2 5 1979017561) = false ∧ getLE f 0 1 = 1 ∧
      getLE f 4 2 = 0 ∧ getLE f 6 1 = 0 ∧ getLE f 7 1 = 0) ∧
      (case PortSt.reset = .next ∧ case { PortSt.reset with rxSeq := 3840 } = .gap ∧ case { PortSt.reset with rxSeq := 2048 } = .old ∧
        case { PortSt.reset with rxSeq := 3839 } = .far) ∧
      (case full = .next ∧ takeBuffer false full = none ∧ (takeBuffer false PortSt.reset).isSome = true) ∧
      (sopOf f = true ∧ eopOf f = false ∧ truncOf f = false ∧ (portOf (on 0 { PortSt.reset with openReq := some m }) 0).openReq = some m) ∧
      (routeOk (on 28 PortSt.reset) (28 : Fin 32) (routeHdr f) = false ∧ routeOk (on 0 PortSt.reset) (0 : Fin 32) (routeHdr f) = true) ∧
      getLE (routeHdr f) 0 4 = wired.dvl.addr ∧
      (∀ x ∈ [(6, 1851185232, true), (10, 2751577154, true), (4, 2985008120, false), (8, 2075983850, false), (0, 192768601, false)],
        let g := flitOf 1 x.1 5 x.2.1
        slice g 0 256 = g ∧ formed g = true ∧ sopOf g = x.2.2 ∧ eopOf g = bit x.1 2 ∧ truncOf g = bit x.1 3 ∧
          (x.2.2 = true → routeOk (on 0 PortSt.reset) (0 : Fin 32) (routeHdr g) = true) ∧
          (takeHdr 0 ⟨0, none, 0, 0⟩ (on 0 { PortSt.reset with openReq := some m })).dvl.ports.length = 1) ∧
      (let g := flitOf 1 2 6 2191115683
       let h := routeHdr g
       slice g 0 256 = g ∧ formed g = true ∧ sopOf g = true ∧ routeOk fwd (27 : Fin 32) h = true ∧ getLE h 0 4 ≠ fwd.dvl.addr ∧
        isS (27 : Fin 32) = false ∧ getLE h 0x0A 1 < 64 ∧ routePort fwd (getLE h 0 4) (bit (getLE h 0x0B 1) 0) = some 0 ∧
        (portOf fwd 0).waitTx = [] ∧ (portOf fwd 0).waitOwn = [] ∧ (portOf fwd 0).window.length < 256 ∧
        hasCredit (portOf fwd 0) false = true ∧ (portOf fwd 0).txReq = none ∧
        seqCase (portOf (takeHdr 27 ⟨0, none, 0, 0⟩ fwd) 27) 0 = .next) := by decide +kernel

/-- 64 violations within the last second, and a link that has something to acknowledge, a credit to return, and nothing. -/
theorem test_hyps_flit_links :
    let y : PortSt := { PortSt.reset with state := 4 }
    let s := porting { y with viols := List.replicate 64 (0, 0) }
    (portOf s (27 : Fin 32)).state = 4 ∧ 64 < ((s.now, 0) :: recentViols s (portOf s (27 : Fin 32))).length ∧
      (∀ x ∈ [{ y with unacked := 1 }, { y with retReq := 1 }, { y with retRsp := 1 }],
        (portOf (porting x) (27 : Fin 32)).state = 4 ∧ (x.unacked ≠ 0 ∨ x.retReq ≠ 0 ∨ x.retRsp ≠ 0)) ∧
      (portOf (porting y) (27 : Fin 32)).waitTx = [] ∧ (portOf (porting y) (27 : Fin 32)).waitOwn = [] ∧
      (portOf (porting y) (27 : Fin 32)).unacked = 0 ∧ (portOf (porting y) (27 : Fin 32)).retReq = 0 ∧
      (portOf (porting y) (27 : Fin 32)).retRsp = 0 ∧ (portOf (porting PortSt.reset) (27 : Fin 32)).state ≠ 4 := by decide +kernel

/-- A margin that falls below the plan's threshold, and one of 0 on an UP port. -/
theorem test_hyps_live_cal : ∀ v ∈ [0, wired.pwr.plan.eyeMargin - 1],
    v < wired.pwr.plan.eyeMargin ∧ wired.pwr.plan.eyeMargin ≤ tget 100 (portOf wired (0 : Fin 32)).marginLane (0 : Fin 8) ∧
      (portOf wired (0 : Fin 32)).state = 4 := by decide +kernel

/-- In the election: port 0 hears module 6; port 27 has sent its last sequence number. -/
def voting (g : PortSt → PortSt) (d : DvlSt → DvlSt) : State :=
  { wired with dvl := d { wired.dvl with step := 6, ports := wired.dvl.ports.map fun e => (e.1, g e.2) } }

theorem test_hyps_elections :
    let e : ElectFlit := ⟨1, 10, 6, 0, false, true⟩
    let s := voting (fun x => { x with rxSeq := 4095, nbrElect := some e })
      fun d => { d with rootPrio := 1, rootSerial := 10, rootAddr := 6, parent := some 0 }
    let root := voting (fun x => { x with nbrElect := some e }) fun d => { d with rootPrio := 1, rootSerial := 10, serial := 10, parent := none }
    let x := portOf s (0 : Fin 32)
    x.state = 4 ∧ (⟨4095, none, 0, 0⟩ : LinkHdr).seq = x.rxSeq ∧ (⟨4095, none, 0, 0⟩ : LinkHdr).seq < 4096 ∧ electing s = true ∧
      (0 : Fin 32).val ∈ upPorts s ∧ x.window.length < 256 ∧ upPorts s ≠ [] ∧
      (∀ q ∈ upPorts s, (portOf s q).nbrElect = some e ∧ e.prio = s.dvl.rootPrio ∧ e.serial = s.dvl.rootSerial) ∧
      isRoot s = false ∧ s.dvl.parent = some (0 : Fin 32).val ∧
      electing root = true ∧ upPorts root ≠ [] ∧ isRoot root = true ∧
      (∀ q ∈ upPorts root, (portOf root q).nbrElect = some e ∧ e.prio = root.dvl.rootPrio ∧ e.serial = root.dvl.rootSerial) := by
  decide +kernel

/-- Sequenced flits next, after a gap, old and far; a port that is not UP, and a module that is not in the election; room on
port 0; neighbours that do not agree; the root, and another that has lost it; a settled election where its root changes. -/
theorem test_hyps_elect_cases :
    let h (n : Nat) : LinkHdr := ⟨n, none, 0, 0⟩
    let s := voting (fun x => { x with nakSent := false }) id
    let case (n : Nat) : SeqCase := seqCase (portOf (takeHdr 0 (h n) s) 0) n
    let lone := voting (fun x => { x with nbrElect := none }) id
    let e : ElectFlit := ⟨0, 1, 6, 0, false, true⟩
    (portOf (voting id id) (1 : Fin 32)).state ≠ 4 ∧ (portOf s 0).nakSent = false ∧ (portOf s 0).state = 4 ∧
      case 0 = .next ∧ case 1 = .gap ∧ case 4095 = .old ∧ case 257 = .far ∧ electing s = true ∧
      (let k := bestKey (setPort 0 (fun x => { x with nbrElect := some e }) s)
       k.serial ≠ s.dvl.rootSerial) ∧
      electing { wired with dvl := { wired.dvl with step := 5 } } = false ∧ (portOf s 0).waitOwn = [] ∧
      (∃ q ∈ upPorts lone, (portOf lone q).nbrElect = none) ∧
      (let r := voting id fun d => { d with rootSerial := 9, parent := none }
       isRoot r = true ∧ electing r = true) ∧ (voting id id).dvl.parent = none := by
  decide +kernel

/-- The 16th offset of 5 ns from a locked parent; one of 20.1 ns when locked. -/
theorem test_hyps_tsync :
    let f (n : Int) : TsyncFlit := ⟨0, 2 * n, 0, 0, true⟩
    let s := voting id fun d => { d with step := 7, parent := some 0, locked := true, offsets := List.replicate 20 (-50) }
    let offs := (offsetOf (f 50) :: s.dvl.offsets).take 16
    s.dvl.parent = some (0 : Fin 32).val ∧ (portOf s (0 : Fin 32)).state = 4 ∧ (f 50).parentLocked = true ∧ offs.length = 16 ∧
      (∀ o ∈ offs, o.natAbs ≤ 50) ∧ 7 ≤ s.dvl.step ∧ s.dvl.step ≠ 15 ∧ s.dvl.locked = true ∧
      200 < (offsetOf (f (-201))).natAbs := by decide +kernel

/-- A request and an answer from a port that is no parent's; a parent whose port is down; from the parent, with too few
offsets: 21 and 1,001 ns from a locked module, 20 ns, and of a module that is not locked. -/
theorem test_hyps_tsync_cases :
    let f (n : Int) : TsyncFlit := ⟨0, 2 * n, 0, 0, true⟩
    let s (b : Bool) := voting id fun d => { d with step := 7, parent := some 0, locked := b, offsets := [] }
    let down := voting (fun x => { x with state := 6 }) fun d => { d with parent := some 0 }
    (portOf (s true) (0 : Fin 32)).state = 4 ∧ (voting id fun d => { d with parent := none }).dvl.parent ≠ some (0 : Fin 32).val ∧
      (⟨5, 0, 0, 0, false⟩ : TsyncFlit).t2 = 0 ∧ (⟨5, 0, 0, 0, false⟩ : TsyncFlit).t3 = 0 ∧
      down.dvl.parent = some (0 : Fin 32).val ∧ (portOf down (0 : Fin 32)).state ≠ 4 ∧ (s true).dvl.parent = some (0 : Fin 32).val ∧
      (∀ n ∈ ([-210, -10010] : List Int), ((offsetOf (f n) :: (s true).dvl.offsets).take 16).length ≠ 16 ∧ 200 < (offsetOf (f n)).natAbs) ∧
      10000 < (offsetOf (f (-10010))).natAbs ∧ (offsetOf (f 200)).natAbs ≤ 200 ∧ (s false).dvl.locked = false := by decide +kernel

/-- A module that was never unlocked, is not locked, and has nothing staged. -/
theorem test_hyps_timers_idle :
    (voting id fun d => { d with unlockedAt := none }).dvl.unlockedAt = none ∧ (voting id fun d => { d with locked := false }).dvl.locked = false ∧
      wired.dvl.agreed = true ∧ wired.dvl.locked = true ∧ wired.dvl.staged = none := by decide +kernel

theorem test_hyps_unlocked : ∀ r ∈ [true, false],
    let s := { voting id (fun d => { d with unlockedAt := some 5, locked := false }) with jig := { wired.jig with running := r } }
    s.dvl.unlockedAt = some 5 ∧ s.dvl.hold = false ∧ s.dvl.holdDue = false ∧ s.jig.running = r := by decide +kernel

theorem test_hyps_tree :
    let k : KeepFlit := ⟨1, 2, 3, 4, 5⟩
    let s := voting (fun x => { x with rxSeq := 4095 }) fun d => { d with parent := some 0, fleetReady := false }
    let away := voting (fun x => { x with rxSeq := 4095 }) fun d => { d with parent := none }
    let x := portOf s (0 : Fin 32)
    x.state = 4 ∧ (⟨4095, none, 0, 0⟩ : LinkHdr).seq = x.rxSeq ∧ s.dvl.parent = some (0 : Fin 32).val ∧ s.dvl.fleetReady = false ∧
      (portOf away (0 : Fin 32)).state = 4 ∧ (portOf away (0 : Fin 32)).rxSeq = 4095 ∧ away.dvl.parent ≠ some (0 : Fin 32).val ∧
      nearT s k = false ∧ { wired with dvl := { wired.dvl with locked := true, agreed := false } }.dvl.locked = true ∧
      (stagedFor 5).dvl.staged = some { staged2 with t := 5 } ∧ ({ staged2 with t := 5 } : Staged).map = none := by decide +kernel

/-- The parent's flood, to a neighbour on port 1 with room; without FLEET_READY; where it is known; a keep-alive from a port
that is UP, and one near a T that both have staged. -/
theorem test_hyps_tree_cases :
    let two (b : Bool) : State := { wired with dvl := { wired.dvl with
      step := 8, parent := some 0, fleetReady := b, ports := [(0, { PortSt.reset with state := 4 }), (1, { PortSt.reset with state := 4 })] } }
    let h : LinkHdr := ⟨0, none, 0, 0⟩
    seqCase (portOf (takeHdr 0 h (two false)) 0) 0 = .next ∧ (two false).dvl.parent = some (0 : Fin 32).val ∧
      (⟨3, true⟩ : TreeFlit).fleetReady = true ∧ (⟨3, false⟩ : TreeFlit).fleetReady = false ∧ (two true).dvl.fleetReady = true ∧
      1 ∈ upPorts (two false) ∧ (1 : Nat) ≠ (0 : Fin 32).val ∧ (portOf (two false) 1).window.length < 256 ∧
      (portOf (two false) 1).waitOwn = [] ∧ nearT (stagedFor 5) ⟨1, 0, 2, 77, 5⟩ = true ∧ (portOf (stagedFor 5) (0 : Fin 32)).state = 4 := by
  decide +kernel

/-- Reports of module 6: the first, and one whose counter has wrapped. -/
theorem test_hyps_link_state : ∀ n ∈ [[], [(6, 2 ^ 32 - 1)]],
    let c : LinkChange := ⟨6, 0, false, 3⟩
    let s := { wired with dvl := { wired.dvl with linkSeen := n } }
    IsNew ⟨6, 1⟩ s ∧ c.addr ≠ s.dvl.addr ∧
      ∀ e, s.dvl.linkSeen.find? (fun e => e.1 == c.addr) = some e → newer c.ctr e.2.2 = true := by
  intro n hn
  simp only [List.mem_cons, List.not_mem_nil, or_false] at hn
  rcases hn with rfl | rfl
  · exact ⟨by unfold IsNew; decide +kernel, by decide +kernel, fun e he => by cases he⟩
  · refine ⟨by unfold IsNew; decide +kernel, by decide +kernel, fun e he => ?_⟩
    obtain rfl : (6, 2 ^ 32 - 1) = e := by simpa using he
    decide +kernel

/-- A message received before; a report seen, and one of this module's own; one that is older than another of its port; a
neighbour that it goes on to. -/
theorem test_hyps_link_state_cases :
    let c : LinkChange := ⟨6, 0, false, 3⟩
    let s := { wired with dvl := { wired.dvl with seen := [(6, 1, 0)], linkSeen := [(6, 0, 3), (6, 0, 4)] } }
    (s.dvl.seen.any fun e => e.1 == 6 && e.2.1 == 1 && decide (s.now ≤ e.2.2 + 10000000)) = true ∧
      (s.dvl.seen.any fun e => e.1 == 6 && e.2.1 == 2 && decide (s.now ≤ e.2.2 + 10000000)) = false ∧
      (c.addr, c.port, c.ctr) ∈ s.dvl.linkSeen ∧ (⟨5, 0, false, 3⟩ : LinkChange).addr = s.dvl.addr ∧
      (6, 0, 2) ∉ s.dvl.linkSeen ∧ newer 2 4 = false ∧ 0 ∈ upPorts s ∧ (0 : Nat) ≠ (27 : Fin 32).val := by decide +kernel

theorem test_hyps_lost :
    let m : Sent := ⟨3, 6, .mqHeader 0 1 [7], 2, some 0⟩
    let s := { wired with
      now := 10000001
      dvl := { wired.dvl with sent := [m], handled := [(3, 0)], heldLost := [(6, 9, 1, 0)] } }
    (s.dvl.handled.any fun e => decide (s.now ≤ e.2 + 10000000) && e.1 == 3) = false ∧ sentMsg s 3 = some m ∧
      m.msg = .mqHeader 0 1 [7] ∧ m.lostAt.isSome = true ∧ m.resends < 3 ∧ (∃ e ∈ s.dvl.heldLost, e.1 = 6 ∧ e.2.1 = 9) := by
  decide +kernel

/-- A loss of another's message, and one handled; a block of a context's; a credit, grant and refusal of a queue's binding; a
message not lost, and one resent three times; a hold of nothing; a route that is there for what was held. -/
theorem test_hyps_lost_cases :
    let m (x : Msg) (n : Nat) (l : Option Nat) : Sent := ⟨3, 6, x, n, l⟩
    let on (x : Sent) : State := { wired with dvl := { wired.dvl with sent := [x], handled := [(4, 0)], heldLost := [(6, 9, 1, 0), (77, 9, 1, 0)] } }
    let block : State := withCtx 1 ctx1 (withB 0 { Binding.reset with handle := 44, sending := [⟨1, 0, 0, [], [], 0, 0, 0, false⟩] }
      (on (m (.mqBlock 44 0 []) 0 (some 0))))
    let fed : State := withQ 7 { queue2 with bound := some (6, 12) } (on (m (.mqCredit 12 [1] none) 0 (some 0)))
    wired.dvl.addr ≠ 6 ∧ (∃ e ∈ (on (m (.mqReject 12 1 0) 0 none)).dvl.handled, (on (m (.mqReject 12 1 0) 0 none)).now ≤ e.2 + 10000000 ∧ e.1 = 4) ∧
      (blockSender block 44 = some 1 ∧ activeCtx (ctxOf block 1) = true ∧ sentMsg block 3 = some (m (.mqBlock 44 0 []) 0 (some 0))) ∧
      fedQueue fed 6 12 = some 7 ∧ (m (.mqReject 12 1 0) 0 none).lostAt = none ∧ 3 ≤ (m (.mqReject 12 1 0) 3 (some 0)).resends ∧
      (¬ ∃ e ∈ (on (m (.mqReject 12 1 0) 0 none)).dvl.heldLost, e.1 = 6 ∧ e.2.1 = 8) ∧ reachable wired 6 = true ∧ reachable wired 77 = false := by
  decide +kernel

/-! ### Hypotheses: checkpoints, debug (O51 to O54) -/

/-- The job of `ctx1`, of modules 5 and 6, which is this module's buddy. -/
def member : State := withJob job1 (withCtx 1 ctx1 { pairUp with
  dvl := { pairUp.dvl with ports := [(0, { PortSt.reset with state := 4, width := 3, crReq := 10 })] } })

def part1 : Part := ⟨1, ctx1, [], [], [], [], [], [], [], [], 0, 0, 0, some job1⟩

/-- A capture with the bytes `b`, of which `n` are acknowledged. -/
def capt (b : Bytes) (n : Nat) : Capture := ⟨jobHere, 2, 100, some part1, [], true, b, n, false, false, false, 64, []⟩

def withCap (c : Capture) (s : State) : State := { s with ckp := { s.ckp with captures := [c] } }

def kept1 : Retained := ⟨jobHere, 0, 1, 7, 0, h2, [(5, 6, 0), (6, 5, 0)], some part1, 0, false⟩

def withKept (s : State) : State := { s with ckp := { s.ckp with retained := [kept1] } }

theorem test_hyps_ckp_policy : ∀ w ∈ [0, 65535],
    let p := par [(0, 4, jobHere), (6, 2, w)]
    cmdJob member host (getLE p 0 4) = some job1 ∧ Starts ⟨host, 0x0901, .ckpPolicy host p, false, [(8, 40)], p⟩ member := by
  unfold Starts
  decide +kernel

/-- A job that is DONE, one with a capture in progress, and one with neither, with a bank running. -/
theorem test_hyps_ckp_take : ∀ s ∈ [withJob { job1 with status := some 0 } member, withCap (capt [] 0) member,
      { member with jig := { member.jig with running := true } }],
    let p := par [(0, 4, jobHere)]
    (cmdJob s host (getLE p 0 4)).isSome = true ∧ Starts ⟨host, 0x0902, .ckpTake host p, false, [(4, 44)], p⟩ s := by
  unfold Starts
  decide +kernel

theorem test_hyps_ckp_take_cases :
    cmdJob (withJob { job1 with status := some 0 } member) host jobHere = some { job1 with status := some 0 } ∧
      ({ job1 with status := some 0 } : Job).status.isSome = true ∧ job1.status = none ∧
      (captureOf (withCap (capt [] 0) member) jobHere).isSome = true ∧ captureOf member jobHere = none ∧
      ∃ m ∈ job1.members, m ≠ member.dvl.addr := by decide +kernel

/-- A TAKE with no bank running: the context runs, and holds nothing. -/
theorem test_hyps_ckp_take_idle :
    member.jig.running = false ∧ ctxOfJob member jobHere = some 1 ∧ activeCtx (ctxOf member 1) = true ∧ member.dvl.hold = false ∧
      (ctxOf member 1).holds.contains .divergence = false := by decide +kernel

/-- Commands on a job, and on a checkpoint, of nobody; a reserve of 129 GiB. -/
theorem test_hyps_ckp_unknown :
    let p := par [(0, 8, jobThere)]
    let q := par [(0, 1, 129)]
    cmdJob member host (getLE p 0 4) = none ∧ cmdCkp member host (getLE p 0 8) = none ∧
      starts 0x0901 (.ckpPolicy host p) false [(8, 40)] p member = true ∧ starts 0x0902 (.ckpTake host p) false [(4, 44)] p member = true ∧
      starts 0x0903 (.ckpRestore host p) false [(0x11, 31)] p member = true ∧ getLE p 0x10 1 ≤ 1 ∧
      starts 0x0904 (.ckpRelease host p) false [(8, 40)] p member = true ∧
      starts 0x0905 (.ckpQuery host p) false [(8, 40)] p member = true ∧
      starts 0x0906 (.ckpReserve host q) true [(1, 47)] q member = true ∧ 128 < getLE q 0 1 := by decide +kernel

/-- A checkpoint of a job that runs, of one that is DONE, and of one that is gone. -/
theorem test_hyps_ckp_release : ∀ x ∈ [(member, false), (withJob { job1 with status := some 0 } member, true),
      ({ member with vnr := { member.vnr with jobs := [] } }, true)],
    let s := withKept x.1
    let p := par [(0, 8, h2)]
    cmdCkp s host (getLE p 0 8) = some kept1 ∧ Starts ⟨host, 0x0904, .ckpRelease host p, false, [(8, 40)], p⟩ s ∧
      Starts ⟨host, 0x0905, .ckpQuery host p, false, [(8, 40)], p⟩ s ∧ ckpDone s kept1 = x.2 ∧
      retainedOf s kept1.job kept1.cseq = some kept1 ∧ ∃ m ∈ kept1.members, m.1 ≠ s.dvl.addr := by
  unfold Starts
  decide +kernel

theorem test_hyps_ckp_restore : ∀ d ∈ [0, 1],
    let s := withKept { up with
      dvl := member.dvl
      jig := { up.jig with running := true } }
    let p := par [(0, 8, h2), (0x10, 1, d)]
    cmdCkp s host (getLE p 0 8) = some kept1 ∧ Starts ⟨host, 0x0903, .ckpRestore host p, false, [(0x11, 31)], p⟩ s ∧
      kept1.part.bind (·.job) = some job1 ∧ getLE p 0x10 1 ≤ 1 ∧ ckpDone s kept1 = true ∧ s.dvl.fleetReady = true ∧
      (∀ m ∈ kept1.members, reachable s m.1 = true) ∧ s.jig.running = true ∧
      kept1.part.map (·.bankDigest) = some (bankDigest (activeBank s)) ∧ fnContexts s job1.fn < (fnOf s job1.fn).maxCtx ∧
      freeCtxId s = some 0 ∧ ctxRoom s job1.pipeline = true ∧ (∀ e ∈ s.vnr.jobs, e.1 ≠ newJobId s) ∧
      ∃ m ∈ kept1.members, m.1 ≠ s.dvl.addr := by
  unfold Starts
  decide +kernel

/-- Option 2; a part that is not here; a job that runs; a fleet that is not ready; no bank; another bank; a function at its
limit; no room for another context; a checkpoint of this module alone of a job that may be late. -/
theorem test_hyps_ckp_restore_cases :
    let p (d : Nat) : Bytes := par [(0, 8, h2), (0x10, 1, d)]
    let go (d : Nat) (s : State) : Bool := starts 0x0903 (.ckpRestore host (p d)) false [(0x11, 31)] (p d) s
    let base : State := { up with dvl := member.dvl, jig := { up.jig with running := true } }
    let on (r : Retained) (s : State) : State := { s with ckp := { s.ckp with retained := [r] } }
    let unready : State := { base with dvl := { base.dvl with fleetReady := false } }
    let cut : State := { base with dvl := { base.dvl with ports := [] } }
    let idle : State := { base with jig := { base.jig with running := false } }
    let other : Retained := { kept1 with part := some { part1 with bankDigest := 1 } }
    let limit : State := { base with host := { base.host with fns := base.host.fns.map fun e => (e.1, { e.2 with maxCtx := 0 }) } }
    let tight : State := { base with jig := { base.jig with bank0 := [(0, setLE tables 0xCC 1 0)] } }
    let sole : Retained := { kept1 with members := [(5, 5, 0)], part := some { part1 with job := some { job1 with flags := 4 } } }
    go 2 (on kept1 base) = true ∧ 1 < getLE (p 2) 0x10 1 ∧ cmdCkp (on kept1 base) host h2 = some kept1 ∧
      (go 0 (on { kept1 with part := none } base) = true ∧ cmdCkp (on { kept1 with part := none } base) host h2 = some { kept1 with part := none }) ∧
      (go 0 (on kept1 (withJob job1 base)) = true ∧ ckpDone (on kept1 (withJob job1 base)) kept1 = false) ∧
      (go 0 (on kept1 unready) = true ∧ unready.dvl.fleetReady = false ∧ go 0 (on kept1 cut) = true ∧ reachable cut 6 = false) ∧
      (go 0 (on kept1 idle) = true ∧ idle.jig.running = false ∧ go 0 (on other base) = true ∧
        other.part.map (·.bankDigest) ≠ some (bankDigest (activeBank base))) ∧
      (go 0 (on kept1 limit) = true ∧ (fnOf limit job1.fn).maxCtx ≤ fnContexts limit job1.fn) ∧
      (go 0 (on { kept1 with part := some { part1 with bankDigest := bankDigest (activeBank tight) } } tight) = true ∧
        ctxRoom tight job1.pipeline = false) ∧
      (go 0 (on sole base) = true ∧ sole.members.map (·.1) = [base.dvl.addr] ∧ retainedOf (on sole base) jobHere 1 = some sole ∧
        bit ({ job1 with flags := 4 } : Job).flags 2 = true ∧ part1.versions = [] ∧ part1.windows = [] ∧ freeCtxId base = some 0 ∧
        ctxRoom base job1.pipeline = true ∧ (∀ e ∈ base.vnr.ctxs, e.2.job ≠ newJobId base) ∧ base.host.outst = []) := by
  decide +kernel

theorem test_hyps_ckp_reserve : ∀ n ∈ [0, 128], ∀ s ∈ [member, { up with jig := { up.jig with bank1 := [(0, image)] } }],
    let p := par [(0, 1, n)]
    Starts ⟨host, 0x0906, .ckpReserve host p, true, [(1, 47)], p⟩ s ∧ getLE p 0 1 ≤ 128 ∧
      (if s.jig.bank1 = [] then bankImages (activeBank s) = [] ∧ bankImages (shadowBank s) = []
        else bankImages (activeBank s) ≠ [] ∨ bankImages (shadowBank s) ≠ []) := by
  unfold Starts
  decide +kernel

/-- A first segment that fits and one that does not; a copy of a message; a last segment of a part held. -/
theorem test_hyps_ckp_copy :
    let g (off total : Nat) : CopySeg := ⟨jobHere, 2, off, true, total, [1, 2]⟩
    let mine (b : BuddyPart) : Bool := b.src == 6 && b.job == jobHere && b.cseq == 2
    let old : BuddyPart := ⟨6, jobHere, 2, 3, cells [(0, 7)], false⟩
    let s := { member with ckp := { member.ckp with reserveGiB := 1 } }
    let held := { s with ckp := { s.ckp with buddy := [old] } }
    IsNew ⟨6, 1⟩ s ∧ ¬ IsNew ⟨6, 1⟩ { s with dvl := { s.dvl with seen := [(6, 1, 0)] }, now := 10000000 } ∧
      s.ckp.buddy.find? mine = none ∧ (g 0 2).offset = 0 ∧ (g 0 2).total ≤ reserveRoom s 6 jobHere ∧
      reserveRoom s 6 jobHere < (g 0 (2 ^ 30 + 1)).total ∧ IsNew ⟨6, 1⟩ held ∧ held.ckp.buddy.find? mine = some old ∧
      Memory.wf old.data = true ∧ (g 1 3).last = true := by
  unfold IsNew
  decide +kernel

def long : Bytes := List.replicate 65537 0

theorem long_length : long.length = 65537 := List.length_replicate

/-- Captures whose next segment is not the last one, and whose last one is acknowledged. -/
theorem test_hyps_ckp_ack : ∀ n ∈ [0, 1],
    IsNew ⟨6, 1⟩ (withCap (capt long n) member) ∧ buddyOf (withCap (capt long n) member) = some 6 ∧ (capt long n).part.isSome = true ∧
      (capt long n).complete = false ∧ (capt long n).localOnly = false ∧ (capt long n).job = jobHere := by
  unfold IsNew
  decide +kernel

theorem test_hyps_ckp_capture (c : Capture) : captureOf (withCap c member) c.job = some c := by simp [captureOf, withCap]

theorem test_hyps_ckp_ack_sizes : (capt long 0).acked + 65536 < (capt long 0).bytes.length ∧
    (capt long 1).bytes.length ≤ (capt long 1).acked + 65536 := by
  show 0 + 65536 < long.length ∧ long.length ≤ 1 + 65536
  rw [long_length]
  decide

theorem test_hyps_ckp_ack_member : ∀ n ∈ [0, 1], leadAt (withCap { capt long n with job := jobThere } member) jobThere ≠ member.dvl.addr := by
  decide +kernel

/-- No capture; one that is complete, or goes to the local record only; an acknowledgement of another capture and of another
segment; no buddy; a part that a program still adds to, and one that waits only to be sealed; a job led by another module. -/
theorem test_hyps_ckp_ack_cases :
    let c := capt [1] 0
    let late : Capture := { c with sealed := false, late := [(0, 3, 7)] }
    let busy (s : State) : State := { s with tile := { s.tile with tiles := [(0, { TileSt.reset with prog := some (3, 7, []) })] } }
    let lone : State := { member with dvl := { member.dvl with map := none } }
    captureOf member jobHere = none ∧ ¬ IsNew ⟨6, 1⟩ { member with dvl := { member.dvl with seen := [(6, 1, 0)] } } ∧ c.cseq ≠ 3 ∧ c.acked ≠ 1 ∧
      ({ c with complete := true }).complete = true ∧ ({ c with localOnly := true }).localOnly = true ∧ c.sealed = true ∧
      buddyOf (withCap c lone) = none ∧ leadAt (withCap { c with job := jobThere } lone) jobThere ≠ lone.dvl.addr ∧
      leadAt (withCap c member) jobHere = member.dvl.addr ∧ late.sealed = false ∧ noneLate (busy (withCap late member)) late = false ∧
      noneLate (withCap late member) late = true ∧ late.part = some part1 := by
  unfold IsNew
  decide +kernel

/-- The first capture of a job, and one after another whose catalogue stands. -/
theorem test_hyps_ckp_retain : ∀ s ∈ [member, withKept (withObj { thing with role := .catalogue jobHere } { member with
      host := { member.host with outst := [⟨host, .ckpTake host [], 0x0902, false, false, .ckpTake jobHere⟩] } })],
    let c := { capt [] 0 with doneMembers := [(5, 0), (6, 0)] }
    let s1 := withCap c { s with mem := { s.mem with objs := s.mem.objs.map fun e => (2, e.2) } }
    captureOf s1 jobHere = some c ∧ jobOf s1 jobHere = some job1 ∧ c.part = some part1 ∧
      (∀ m ∈ job1.members, ∃ d ∈ c.doneMembers, d.1 = m) ∧ job1.deadlineCkp = false ∧ retainedOf s1 jobHere c.cseq = none ∧
      (liveObjs s1).length < 4194303 ∧ (∀ r ∈ s1.ckp.retained, r.catalogue = 0 ∨ (findObj s1 r.catalogue).isSome = true) ∧
      ∀ o ∈ s1.host.outst, o.wait = .ckpTake jobHere := by decide +kernel

theorem test_hyps_ckp_expire : ∀ q ∈ [some part1, none],
    let c := { capt [] 0 with part := q, doneMembers := [(5, 0)] }
    let s := withCap c { member with now := 100 }
    captureOf s jobHere = some c ∧ jobOf s jobHere = some job1 ∧ 6 ∈ job1.members ∧ (∀ d ∈ c.doneMembers, d.1 ≠ 6) ∧
      job1.deadlineCkp = false ∧ (c.part.isSome = true ∨ c.boundary ≤ s.now) := by decide +kernel

/-- No job; a part not taken yet; a member that has not told; every member told; a part not taken before its boundary; a
deadline checkpoint while a bank runs. -/
theorem test_hyps_ckp_end_cases :
    let s : State := { member with jig := { member.jig with running := true } }
    let told := { capt [] 0 with doneMembers := [(5, 0), (6, 0)] }
    captureOf member jobHere = none ∧ jobOf { member with vnr := { member.vnr with jobs := [] } } jobHere = none ∧
      ({ capt [] 0 with part := none } : Capture).part = none ∧ (capt [] 0).doneMembers = [] ∧ 6 ∈ job1.members ∧
      (∀ m ∈ job1.members, ∃ d ∈ told.doneMembers, d.1 = m) ∧ member.now < (capt [] 0).boundary ∧ s.jig.running = true ∧
      (let j := { job1 with deadlineCkp := true }
       jobOf (withCap told (withJob j s)) jobHere = some j ∧ j.status = none ∧ ctxOfJob s jobHere = some 1) := by decide +kernel

theorem test_hyps_local_write :
    let c (b : Bytes) : Capture := { capt b 0 with complete := true, job := jobThere }
    (c []).part.isSome = true ∧ (c []).complete = true ∧ (c []).bytes.length ≤ 512 * gib ∧
      captureOf (withCap (c []) member) jobThere = some (c []) ∧ leadAt (withCap (c []) member) jobThere ≠ member.dvl.addr ∧
      ({ c [] with complete := false, localOnly := true }).localOnly = true ∧
      512 * gib < (c (List.replicate (512 * gib + 1) 0)).bytes.length := by
  refine ⟨by decide, by decide, by decide, by decide +kernel, by decide +kernel, by decide, ?_⟩
  simp [capt]

/-- A part not sealed, and one the buddy still takes; no capture with nothing retained, and with a part retained. -/
theorem test_hyps_local_write_cases :
    let c := capt [] 0
    ¬ (({ c with sealed := false, complete := true } : Capture).sealed = true) ∧ c.complete = false ∧ c.localOnly = false ∧
      leadAt (withCap { c with localOnly := true } member) jobHere = member.dvl.addr ∧
      captureOf (withKept member) jobHere = none ∧ (withKept member).ckp.retained.find? (fun r => r.job == jobHere && r.part.isSome) = some kept1 ∧
      member.ckp.retained.find? (fun r => r.job == jobHere && r.part.isSome) = none ∧ kept1.partBytes ≤ 512 * gib := by decide +kernel

/-- A job of modules 5, 6 and 7, which no map has as a buddy, loses 7. -/
def three : Job := { job1 with members := [5, 6, 7] }

theorem test_hyps_loss :
    let s := withKept (withJob three { member with jig := { member.jig with running := true } })
    let left := three.members.filter (· != 7)
    let gone := lostGroup s three 7
    let alive := left.filter fun m => !gone.contains m
    jobOf s jobHere = some three ∧ three.status = none ∧ 7 ∈ three.members ∧ (7 : Nat) ≠ s.dvl.addr ∧ s.jig.running = true ∧
      s.ckp.retained.find? (fun r => r.job == jobHere) = some kept1 ∧
      left.contains (((mapModOf s 7).map (·.buddy)).getD 7) = false ∧ (∃ m ∈ three.memberCtx, m.1 ∈ alive ∧ m.2.2 ≠ []) ∧
      (∀ k ∈ s.ckp.shrinks, k.job ≠ jobHere) ∧ 6 ∈ alive ∧ ctxOfJob s jobHere = some 1 ∧ 8 ∉ three.members := by decide +kernel

/-- A loss that is none: of a job that is DONE, of no member, of itself; a job with nothing retained; this module, the buddy of
the lost one, with a standby record for its stage; nobody left with a stage; no shrink, one that failed; a job that this
module does not know: its lead is lost, or another module. -/
theorem test_hyps_loss_cases :
    let bank := setLE (setLE (setLE (tables ++ List.replicate 32 0) 0x1B 1 2) 0xE0 1 1) 0xE8 4 64
    let s := withKept (withJob { job1 with memberCtx := [(5, 1, [0]), (6, 1, [1])] } { member with
      dvl := { member.dvl with map := some (setLE map2 84 4 5) }
      jig := { member.jig with running := true, bank0 := [(0, bank)] } })
    let empty := { three with memberCtx := [(5, 1, []), (7, 1, [0])] }
    let gone : State := { member with vnr := { member.vnr with jobs := [], ctxs := [(1, { ctx1 with job := jobThere, peers := [(6, 6, 3)] })] } }
    ({ job1 with status := some 0 } : Job).status ≠ none ∧ 8 ∉ job1.members ∧ member.dvl.addr = 5 ∧
      member.ckp.retained.find? (fun r => r.job == jobHere) = none ∧ captureOf member jobHere = none ∧
      (((mapModOf s 6).map (·.buddy)).getD 6 = s.dvl.addr ∧
        (∀ st ∈ [1], ∃ x ∈ hostedStages s, x.stage = st ∧ isStandby (hostedStages s) x = true) ∧ s.dvl.addr ∈ job1.members ∧
        s.ckp.lost.contains s.dvl.addr = false ∧ (∃ m ∈ ([(5, 1, [0]), (6, 1, [1])] : List (Nat × Nat × List Nat)), m.1 ∈ [5] ∧ m.2.2 ≠ [])) ∧
      (∀ m ∈ empty.memberCtx, m.1 ∈ (empty.members.filter (· != 7)) → m.2.2 = []) ∧
      member.ckp.shrinks.find? (fun k => k.job == jobHere) = none ∧
      (⟨jobHere, [7], 0, 0, 0, [], true⟩ : Shrink).failed = true ∧ (⟨jobHere, [7], 0, 0, 0, [6], false⟩ : Shrink).awaiting ≠ [] ∧
      (jobOf gone jobThere = none ∧ leadAt gone jobThere = 6 ∧ (6 : Nat) ≠ gone.dvl.addr ∧ ctxOfJob gone jobThere = some 1 ∧
        (∀ q ∈ (ctxOf gone 1).peers, gone.dvl.addr ≤ q.2.1 ∨ q.2.1 = 6) ∧ gone.ckp.retained = [] ∧ leadAt gone jobThere ≠ 7) := by
  decide +kernel

theorem test_hyps_shrink : ∀ x ∈ [([6], true), ([], true), ([], false)],
    let k : Shrink := ⟨jobHere, [7], 0, 0, 0, x.1, false⟩
    let s := withJob job1 (withCtx 1 { ctx1 with state := .held, holds := [.shrink], heldFrom := .running } { member with
      jig := { member.jig with running := x.2 }
      ckp := { member.ckp with shrinks := [k] } })
    jobOf s jobHere = some job1 ∧ s.ckp.shrinks.find? (fun k => k.job == jobHere) = some k ∧ k.awaiting = x.1 ∧ k.failed = false ∧
      ctxOfJob s jobHere = some 1 ∧ s.jig.running = x.2 ∧ (ctxOf s 1).state = .held ∧ (ctxOf s 1).holds = [.shrink] := by
  decide +kernel

theorem test_hyps_debug : ∀ n ∈ [1, 4096],
    let p := par [(4, 2, n)]
    let q := par [(8, 4, 16)]
    Starts ⟨host, 0x0B01, .dbgLogRead host p, false, [(6, 2), (0x10, 32)], p⟩ up ∧ 1 ≤ getLE p 4 2 ∧ getLE p 4 2 ≤ 4096 ∧
      Starts ⟨host, 0x0B02, .dbgSummaryRead host q, true, [(0x0C, 36)], q⟩ up := by
  unfold Starts
  decide +kernel

/-- Views that exist, at the last of their selectors, and views that do not. -/
theorem test_hyps_view : ∀ x ∈ [(0, 255, true), (1, 255, true), (2, 255, true), (3, 0, true), (4, 255, true), (5, 103, true), (3, 1, false),
      (5, 104, false), (6, 0, false)],
    let p := par [(0, 1, x.1), (2, 2, x.2.1)]
    Starts ⟨host, 0x0B03, .dbgView host p, true, [(1, 1), (4, 4), (0x10, 32)], p⟩ up ∧
      (viewBytes up (srcFn up host) (getLE p 0 1) (getLE p 2 2)).isSome = x.2.2 := by
  intro x hx
  simp only [List.mem_cons, List.not_mem_nil, or_false] at hx
  rcases hx with rfl | rfl | rfl | rfl | rfl | rfl | rfl | rfl | rfl <;>
    exact ⟨by unfold Starts; decide +kernel, rfl⟩

theorem test_hyps_dbg_test : ∀ x ∈ [(0, true), (0, false), (1, false)],
    let r : TestResult := ⟨[(103, [0, 33])], x.2, false⟩
    let p := par [(0, 1, x.1), (1, 1, 31)]
    let i : CmdInfo := ⟨host, 0x0B04, .dbgTest host p r, true, [(2, 46)], p⟩
    Starts i up ∧ getLE p 0 1 = x.1 ∧ x.1 ≤ 1 ∧ getLE p 1 1 ≤ 31 ∧ testBusy up (getLE p 0 1) (getLE p 1 1) = false ∧ r.wireFail = x.2 ∧
      (∀ e ∈ laneTable r, e.2.length ≤ 2) ∧ Starts i { up with jig := { up.jig with running := true } } ∧
      testBusy { up with jig := { up.jig with running := true } } (getLE p 0 1) (getLE p 1 1) = true := by
  unfold Starts
  decide +kernel

/-- Ranges of no record and of 4,097; an unknown test and port; a third failure in a bundle, and two. -/
theorem test_hyps_debug_cases :
    let r : TestResult := ⟨[(103, [0, 33, 35])], false, false⟩
    let q (n : Nat) : Bytes := par [(4, 2, n)]
    let p (a b : Nat) : Bytes := par [(0, 1, a), (1, 1, b)]
    (∀ n ∈ [0, 4097], starts 0x0B01 (.dbgLogRead host (q n)) false [(6, 2), (0x10, 32)] (q n) up = true ∧
        (getLE (q n) 4 2 = 0 ∨ 4096 < getLE (q n) 4 2)) ∧
      (∀ x ∈ [(2, 0), (0, 32)], starts 0x0B04 (.dbgTest host (p x.1 x.2) r) true [(2, 46)] (p x.1 x.2) up = true ∧
        (1 < getLE (p x.1 x.2) 0 1 ∨ 31 < getLE (p x.1 x.2) 1 1)) ∧
      (∃ e ∈ laneTable r, 2 < e.2.length) ∧ r.wireFail = false := by decide +kernel

theorem test_hyps_summary : { up with dbg := { up.dbg with summaryDue := true } }.dbg.summaryDue = true ∧ up.dbg.summaryDue = false := by
  decide

/-! ### Hypotheses: ops (O55 to O59) -/

/-- One op of every kind that writes its own result, on one row of one element where that is a size. -/
def gemm1 : Bytes := desc 1 0 mm

def gemmFill : Bytes := desc 1 0 (mm ++ [(0x38, 2, 2), (0x3A, 2, 1)])

/-- Result at 0x1000 from 0x40 and 0x80: the fields that the vector ops share. -/
def vec (l : List (Nat × Nat × Nat)) : List (Nat × Nat × Nat) := [(2, 2, 1), (0x10, 4, 0x40)] ++ l

def elem1 : Bytes := desc 8 0 (vec [(0x14, 4, 0x80), (0x1C, 4, 0x1000), (0x20, 4, 1), (0x24, 2, 1), (0x26, 1, 1), (0x28, 1, 1), (0x29, 1, 1),
  (0x2B, 1, 1)])

def rope1 : Bytes := desc 8 0 (vec [(0x14, 4, 0x80), (0x18, 4, 0xC0), (0x1C, 4, 0x1000), (0x20, 4, 2), (0x24, 2, 2), (0x26, 1, 0x14),
  (0x28, 1, 1), (0x29, 1, 1), (0x2A, 1, 0x0C), (0x2B, 1, 1), (0x38, 4, 1)])

def norm1 (k : Nat) (l : List (Nat × Nat × Nat)) : Bytes := desc 9 0 (vec ([(0x14, 4, 0x1000), (0x18, 4, 0x80), (0x28, 4, 1), (0x2C, 2, 1), (0x2E, 1, k),
  (0x30, 1, 1), (0x31, 1, 1)] ++ l))

def normB : Bytes := norm1 2 [(0x1C, 4, 0x1400), (0x20, 4, 0xC0), (0x24, 4, 0x100)]

def cast1 : Bytes := desc 0x0E 0 (vec [(0x18, 4, 0x1000), (0x20, 4, 1), (0x24, 1, 1), (0x25, 1, 2)])

def dummy1 : Bytes := desc 0x15 0 [(2, 2, 1), (0x10, 1, 16)]

def grad1 : Bytes := desc 0x0D 0 (vec [(0x14, 4, 0x80), (0x18, 4, 0x1000), (0x1C, 4, 0x1040), (0x20, 4, 1), (0x24, 2, 1), (0x26, 1, 1)])

def topk1 : Bytes := desc 0x18 0 (vec [(0x14, 4, 0x1000), (0x18, 4, 1), (0x1C, 4, 1), (0x20, 1, 1), (0x21, 1, 1)])

def loss1 (k : Nat) : Bytes := desc k 0 (vec [(0x14, 4, 0x80), (0x18, 4, 0x1000), (0x20, 4, 1), (0x24, 4, 1), (0x28, 1, 1), (0x29, 1, 1), (0x2B, 1, 1)])

def adam1 : Bytes := desc 0x0C 0 [(2, 2, 1), (0x10, 8, h2), (0x1C, 4, 32), (0x20, 4, 0x40), (0x28, 4, 0x1000), (0x30, 4, 1), (0x34, 1, 1), (0x35, 1, 2)]

def snap1 (l : List (Nat × Nat × Nat)) : Bytes := desc 0x14 0 ([(2, 2, 1), (0x20, 1, 3)] ++ l)

def fp1 (l : List (Nat × Nat × Nat)) : Bytes := desc 0x13 0 ([(2, 2, 1), (0x18, 4, 0x40), (0x20, 8, 64), (0x28, 4, 64), (0x30, 4, 9)] ++ l)

def copy1 (l : List (Nat × Nat × Nat)) : Bytes := desc 0x0F 0 ([(2, 2, 1), (0x20, 4, 0x40), (0x28, 4, 0x1000), (0x30, 4, 64), (0x34, 2, 1)] ++ l)

def gather1 (m h : Nat) : Bytes := desc 0x10 0 [(2, 2, 1), (0x10, 8, h), (0x20, 4, 0x40), (0x24, 4, 0x1000), (0x28, 4, 1), (0x2C, 4, 64), (0x30, 4, 1),
  (0x34, 1, m)]

def embed1 : Bytes := desc 0x17 0 (vec [(0x14, 4, 0x1000), (0x18, 4, 1), (0x1C, 4, 1), (0x20, 4, 1), (0x24, 2, 1), (0x26, 1, 2), (0x27, 1, 1)])

def send1 : Bytes := desc 0x11 0 [(2, 2, 1), (0x14, 4, 0x40), (0x18, 4, 64), (0x20, 4, 64), (0x24, 2, 1)]

def gemmSend1 : Bytes := desc 2 0 (mm ++ [(0x20, 4, 0x4000_0000)])

def recv1 (l : List (Nat × Nat × Nat)) : Bytes := desc 0x12 0 ([(2, 2, 1), (0x11, 1, 1), (0x14, 4, 0x1000), (0x18, 4, 64), (0x30, 4, 0x2000)] ++ l)

/-- The ops that O55 names, in its order. -/
def ownOps : List Bytes := [gemm1, elem1, norm1 0 [], cast1, copy1 [], gather1 0 0, embed1, grad1, adam1, topk1, loss1 0x0A, loss1 0x0B,
  snap1 [(0x18, 4, 0x1000)], fp1 [], dummy1]


/-- Context 1 has a READY version at stage 0 whose object 1 is `h2`, and hyperparameters in slot 4; slot 2 holds a training
state object of a shard of 32. -/
def crew2 : State :=
  let state : Obj := { thing with mem := cells [(0, 0x55), (1, 0x58), (2, 0x53), (3, 0x54), (4, 32)] }
  withCtx 1 { ctx1 with vers := [(0, [⟨2, true, [(1, h2)], 0, 0, []⟩])], hyper := mkHandle 4 1 } { plant with
    mem := { plant.mem with objs := [(1, buffer), (2, state), (3, manifest), (4, hyper)] } }

/-- Tile 0 of `crew2`. -/
def crewTile (x : TileSt) : State := { crew2 with tile := { crew2.tile with tiles := [(0, x)] } }

theorem test_hyps_ops_run : ∀ d ∈ ownOps ++ [gemmFill, rope1, normB, desc 6 0 (attn 0), descX 7 1 (attn 0) [grads], snap1 [(0x10, 8, h2)],
    fp1 [(0x10, 8, h2)], copy1 [(0x10, 8, h2), (0x18, 8, h2)], gather1 0 h2, gather1 1 0, gather1 2 h2, send1],
    runsOp ⟨0, 0⟩ d 1 crew2 = true := by decide +kernel

theorem test_hyps_op_runs (d : Bytes) (h : d ∈ ownOps) : OpRuns ⟨0, 0⟩ d 1 (place ⟨0, 0⟩ d 1 crew2) crew2 :=
  runs_of _ _ _ _ (test_hyps_ops_run d (List.mem_append_left _ h))

theorem test_hyps_op_kinds : ownOps.map dKind = [1, 8, 9, 0x0E, 0x0F, 0x10, 0x17, 0x0D, 0x0C, 0x18, 0x0A, 0x0B, 0x14, 0x13, 0x15] := by
  decide +kernel

/-- Operands in the tile store, up to its last byte, and in the window; contents in canonical form. -/
theorem test_hyps_resolve :
    let e := opEnv crew2 ⟨255, 0⟩ gemm1 1
    (match resolve crew2 e (2 ^ 22 - 64) 64 with
      | .ok l => l == .store (2 ^ 30 - 64)
      | .error _ => false) = true ∧
      (match resolve crew2 e (2 ^ 29 + 2 ^ 24 - 64) 64 with
      | .ok l => l == .window (3 * 2 ^ 26 + 2 ^ 24 - 64)
      | .error _ => false) = true ∧
      Memory.wf crew2.tile.store = true ∧ Memory.wf crew2.tile.window = true := by decide +kernel

/-- Ops that do not run: no row's context, skipped after an empty RECV, a FAULTED context, a set check bit, 0 columns, no
rows, an offset past the block taken. -/
theorem test_hyps_op_turned_away :
    let row : Bytes := desc 0x15 0 [(2, 2, 0x8000)]
    let took : Take := ⟨[header 0 0], [0], 0, 64, 0, 64, 0, false, [], [], false⟩
    let s := crewTile { TileSt.reset with take := some took }
    let past := desc 1 0 (mm ++ [(0x10, 4, 0x1000_0040)])
    let bad := setLE gemm1 0x0E 2 (getLE gemm1 0x0E 2 ^^^ 1)
    opCtx crew2 0 row = none ∧
      opCtx (crewTile { TileSt.reset with take := some { took with skip := true } }) 0 past = some 1 ∧
      skips (crewTile { TileSt.reset with take := some { took with skip := true } }) 0 past = true ∧
      activeCtx { ctx1 with state := .faulted } = false ∧ opCtx crew2 0 gemm1 = some 1 ∧ skips crew2 0 gemm1 = false ∧
      activeCtx (ctxOf crew2 1) = true ∧ checksOk bad = false ∧ opCtx crew2 0 bad = some 1 ∧ skips crew2 0 bad = false ∧
      checksOk (desc 1 0 (mm ++ [(0x2A, 2, 0)])) = true ∧ descOk (desc 1 0 (mm ++ [(0x2A, 2, 0)])) (windowBytes crew2) = false ∧
      checksOk (desc 1 0 (mm ++ [(0x28, 2, 0)])) = true ∧ descOk (desc 1 0 (mm ++ [(0x28, 2, 0)])) (windowBytes crew2) = true ∧
      opEmpty (desc 1 0 (mm ++ [(0x28, 2, 0)])) = true ∧
      opCtx s 0 past = some 1 ∧ skips s 0 past = false ∧ activeCtx (ctxOf s 1) = true ∧ checksOk past = true ∧
      descOk past (windowBytes s) = true ∧ opEmpty past = false ∧
      (match resolveAll s (opEnv s ⟨0, 0⟩ past 1) (opnds past) with
        | .ok _ => 0
        | .error c => c) = 8 := by decide +kernel

/-- The vector and grid ops: positions of the table; a fill of 2 with 129 rows; K and V in the tile store. -/
theorem test_hyps_vector_ops :
    let b (d : Bytes) : State := opBegins ⟨0, 0⟩ d 1 (place ⟨0, 0⟩ d 1 crew2) crew2
    let e (d : Bytes) : OpEnv := opEnv (opTurn ⟨0, 0⟩ d crew2) ⟨0, 0⟩ d 1
    let big := desc 1 0 (mm ++ [(0x28, 2, 129), (0x38, 2, 2), (0x3A, 2, 1)])
    let a6 := desc 6 0 (attn 0)
    let a7 := descX 7 1 (attn 0) [grads]
    dKind rope1 = 8 ∧ eFunc rope1 = 0x14 ∧ (ropeVals (b rope1) (e rope1) rope1).isSome = true ∧ eFunc elem1 ≠ 0x14 ∧
      nBwd (norm1 0 []) = false ∧ dKind normB = 9 ∧ nBwd normB = true ∧ gFill gemm1 = 0 ∧ runsOp ⟨0, 0⟩ big 1 crew2 = true ∧
      128 < joinRows (e big) big ∧ dKind a6 = 6 ∧ dKind a7 = 7 ∧ attnRing a6 = false ∧ attnRing a7 = false ∧
      (∀ d ∈ [a6, a7], (match readKV (b d) (e d) d with
        | .ok _ => true
        | .error _ => false) = true) := by decide +kernel

/-- The training and kerf ops: the state object of the shard; both places of a snapshot and of a fingerprint. -/
theorem test_hyps_training_ops :
    let b (d : Bytes) : State := opBegins ⟨0, 0⟩ d 1 (place ⟨0, 0⟩ d 1 crew2) crew2
    let e (d : Bytes) : OpEnv := opEnv (opTurn ⟨0, 0⟩ d crew2) ⟨0, 0⟩ d 1
    let hyp := objBytes (b adam1) (ctxOf crew2 1).hyper 0 (objSize (b adam1) (ctxOf crew2 1).hyper)
    let sn := snap1 [(0x10, 8, h2)]
    adamFault (b adam1) (e adam1) adam1 hyp = none ∧ ((findObj crew2 (getLE adam1 0x10 8)).map fun o => Memory.wf o.mem) = some true ∧
      getLE (snap1 [(0x18, 4, 0x1000)]) 0x10 8 = 0 ∧ dKind sn = 0x14 ∧ getLE sn 0x10 8 = h2 ∧ h2 ≠ 0 ∧
      objFault (b sn) 1 h2 2 (getLE sn 0x18 8) 15360 = none ∧
      (∀ d ∈ [fp1 [], fp1 [(0x10, 8, h2)]], dKind d = 0x13 ∧
        (getLE d 0x10 8 ≠ 0 → objFault (b d) 1 (getLE d 0x10 8) 1 (getLE d 0x18 8) (getLE d 0x20 8) = none) ∧
        (fpListOf (ctxOf crew2 1) (e d).stage (e d).step).shards = []) := by decide +kernel

/-- The ops that move rows, between spaces and objects; EMBED's table. -/
theorem test_hyps_move_ops :
    let b (d : Bytes) : State := opBegins ⟨0, 0⟩ d 1 (place ⟨0, 0⟩ d 1 crew2) crew2
    let e (d : Bytes) : OpEnv := opEnv (opTurn ⟨0, 0⟩ d crew2) ⟨0, 0⟩ d 1
    (∀ d ∈ [copy1 [], copy1 [(0x10, 8, h2), (0x18, 8, h2)]], dKind d = 0x0F ∧ copyFault (b d) (e d) d = none) ∧
      (∀ d ∈ [gather1 0 0, gather1 0 h2, gather1 1 0, gather1 2 h2], dKind d = 0x10 ∧
        (getLE d 0x10 8 ≠ 0 → objFault (b d) 1 (getLE d 0x10 8) (if ghMode d = 0 then 1 else 2) (getLE d 0x18 8)
          (ghRows d * ghRow d) = none)) ∧
      (match embedTable (b embed1) (e embed1) embed1 with
        | .ok h => h == h2
        | .error _ => false) = true := by decide +kernel

/-- Tile 0 has taken a micro-batch of 64 B; binding 0 leads to queue 3 of module 6 with the credits `l`. -/
def sending (l : List Nat) : State := withB 0 { Binding.reset with
    state := 2, destQueue := 3, destStage := 1, destAddr := 6, credits := l, slotBytes := 65536, handle := h1 }
  { crewTile { TileSt.reset with take := some ⟨[header 0 0], [0], 0, 64, 0, 64, 0, false, [], [], false⟩ } with dvl := pairUp.dvl }

theorem test_hyps_send : ∀ l ∈ [[], [1]], ∀ d ∈ [send1, gemmSend1],
    let s := sending l
    let x := bindOf s (sendWord d % 256)
    runsOp ⟨0, 0⟩ d 1 s = true ∧ opHdr s 0 0 = some (header 0 0) ∧ openSend x 1 (hdrMb (header 0 0)) (memberKey 0 d) = none ∧
      sendWaits s ⟨0, 0⟩ d = l.isEmpty ∧ x.loc = false ∧ (dKind d = 0x11 ∨ (dKind d = 2 ∧ gFill d = 0)) ∧
      getLE d 0x1C 4 + (rdField s (opEnv s ⟨0, 0⟩ d 1) (getLE d 0x14 4) (getLE send1 0x18 4)).length ≤ x.slotBytes ∧
      getLE send1 0x18 4 = 64 := by decide +kernel

/-- A part written by the last member, for a destination context that the member knows. -/
theorem test_hyps_send_header :
    let y : Sending := ⟨1, 0, 1, [], header 0 0, 1, 64, 0, false⟩
    let s0 := sending []
    let s := withB 0 { bindOf s0 0 with sending := [y] } (withCtx 1 { ctx1 with peers := [(1, 6, 4)] } s0)
    let x := bindOf s (sendWord send1 % 256)
    x.sending.find? (fun y => y.left.isEmpty) = some y ∧ destCtx s x y.ctx = some 4 ∧ x.destAddr ≠ s.dvl.addr := by decide +kernel

/-- One entry of context 1 in the queue for a group of two tiles, with a header copy and without; no entry. -/
theorem test_hyps_recv : ∀ hd ∈ [0, 0x2000],
    let d := recv1 [(0x30, 4, hd)]
    let ms : List (Fin 256 × Bytes) := [(0, d), (255, d)]
    let s := withQ 0 { queue2 with entries := [⟨setLE (header 0 0) 0x1C 4 64, 1⟩] } crew2
    let k := queueOf s (rQueue d)
    let x := k.entries.headD ⟨[], 0⟩
    recvBad ms s = none ∧ (ms.map (·.1)).Nodup ∧ (∀ m ∈ ms, rTaken s m.1.val m.2 = 0 ∧ dLast m.2 = false) ∧
      k.entries = [x] ∧ rMax d = 1 ∧ selects s (0 : Fin 256).val (hdrCtx x.hdr) d = true ∧ limited s (rQueue d) = false ∧
      (∀ m ∈ ms, oversized m.2 x.hdr = false) ∧ x.hdr.length = 64 ∧ Memory.wf s.tile.store = true ∧
      (queueOf (withQ 0 queue2 crew2) (rQueue d)).entries = [] ∧ recvBad ms (withQ 0 queue2 crew2) = none := by decide +kernel

/-- A tile in slot 3, from time 7, with the ops given. -/
def slotOf (dur : Nat) (ops : List Bytes) : TileSt :=
  { TileSt.reset with prog := some (3, 7, fields 32 [(4, 4, dur)]), slotOps := ops.map fun d => (0, d) }

/-- Tile 1 shares the slot and the die of tile 0; a version's object of two lines, for the one tile of its stage. -/
theorem test_hyps_slot_and_slice :
    let both : State := { crew2 with tile := { crew2.tile with tiles := [(0, slotOf 10 []), (1, slotOf 10 [])] } }
    let o : Obj := { thing with size := 512, mem := [], durable := [] }
    let s : State := withCtx 1 { ctx1 with vers := [(0, [⟨2, true, [(0, h2)], 0, 0, []⟩])] } { crew2 with
      mem := { crew2.mem with objs := [(2, o)] }
      jig := { crew2.jig with bank1 := [(0, image)] } }
    let e := opEnv s ⟨0, 0⟩ gemm1 1
    let v := verOf s e.ctx e.stage e.ver
    (1 ∈ slotTiles both 0 ∧ (1 : Nat) / 64 = 0 / 64) ∧ Memory.wf s.tile.store = true ∧ v.state = 2 ∧ verObject v 0 = some h2 ∧
      (stageTiles s e.stage).idxOf? e.tile = some 0 ∧ findObj s h2 = some o ∧ inFlash o = false ∧
      poisonedIn o 0 (o.size / (stageTiles s e.stage).length) = false ∧ v.copies = [] ∧
      (sliceRoom s e.tile (o.size / (stageTiles s e.stage).length)).isSome = true := by decide +kernel

/-- An op whose turn comes in its program, one whose turn is past and one that the governor holds; one that is skipped, and
one of a FAULTED context, after a pass; a fill time beyond its slot; a version that is not READY. -/
theorem test_hyps_op_turn :
    let due (x : TileSt) : Bool := hasTurn (tileOf (crewTile x) 0) 0 0 gemm1 && !heldBack (crewTile x) 0 gemm1
    let short := crewTile (slotOf 15 [gemmFill])
    let none_ := withCtx 1 { ctx1 with vers := [] } (crewTile { TileSt.reset with
      take := some ⟨[header 0 0], [0], 0, 64, 0, 64, 0, false, [], [], false⟩ })
    due (slotOf 10 [gemm1]) = true ∧ progOf (slotOf 10 [gemm1]) 0 ≠ [] ∧
      due { slotOf 10 [gemm1] with turns := [(0, 0)] } = false ∧ due { slotOf 10 [gemm1] with held := true } = false ∧
      (crewTile { TileSt.reset with lastCurrent := 9000 } |> fun s => (tileOf s 0).lastCurrent) ≠ 0 ∧
      (hasTurn (tileOf short 0) 0 0 gemmFill = true ∧ checksOk gemmFill = true ∧ descOk gemmFill (windowBytes short) = true ∧
        gateFits (opTurn ⟨0, 0⟩ gemmFill short) 0 gemmFill = false) ∧
      (descOk gemm1 (windowBytes none_) = true ∧ opEmpty gemm1 = false ∧ skips none_ 0 gemm1 = false ∧
        noVersion (opTurn ⟨0, 0⟩ gemm1 none_) (opEnv (opTurn ⟨0, 0⟩ gemm1 none_) ⟨0, 0⟩ gemm1 1) = true) := by decide +kernel

/-- `crew2` with a byte in tile 0's store, in a granule of context 1. -/
def withByte (a v : Nat) : State := { crew2 with tile := { crew2.tile with
  store := cells [(a, v)], tiles := [(0, { TileSt.reset with tags := [(0, 1)] })] } }

/-- A part of split-K group 1: tiles 0 and 1, whose results agree (WIDE), and of other sizes. -/
def part_ (n : Nat) : Bytes := desc 1 0 (mm ++ [(0x33, 1, 0x20), (0x32, 1, 0x0D), (0x2A, 2, n)])

/-- A position outside the table; the parts of a split-K group, at first alone and then together; K of an object that is not
there; a pass of an armed grid. -/
theorem test_hyps_grid_cases :
    let b (s : State) (d : Bytes) : State := opBegins ⟨0, 0⟩ d 1 (place ⟨0, 0⟩ d 1 s) s
    let e (s : State) (d : Bytes) : OpEnv := opEnv (opTurn ⟨0, 0⟩ d s) ⟨0, 0⟩ d 1
    let past := withByte 0xC0 1
    let parts (n : Nat) : List (OpRun × Bytes) := [(⟨0, 0⟩, part_ 1), (⟨1, 0⟩, part_ n)]
    let item (s : State) (n : Nat) : GridItem := gridItem (b s (part_ 1)) (e s (part_ 1)) (part_ 1) (parts n)
    let other (n : Nat) : GridItem := gridItem crew2 (opEnv crew2 ⟨1, 0⟩ (part_ n) 1) (part_ n) (parts n)
    let s (n : Nat) : State := { crew2 with tile := { crew2.tile with tiles := [(1, { TileSt.reset with split := [other n] })] } }
    let far := desc 6 0 (attn 0 ++ [(0x18, 8, h3 + 2)])
    let far7 := descX 7 1 (attn 0 ++ [(0x18, 8, h3 + 2)]) [grads]
    (runsOp ⟨0, 0⟩ rope1 1 past = true ∧ ropeVals (b past rope1) (e past rope1) rope1 = none) ∧
      (runsOp ⟨0, 0⟩ (part_ 1) 1 crew2 = true ∧ gFill (part_ 1) = 0 ∧ (item crew2 1).parts = [(1, 0)] ∧
        mateAt (b crew2 (part_ 1)) (item crew2 1) (1, 0) = none) ∧
      (∀ n ∈ [1, 2], runsOp ⟨0, 0⟩ (part_ 1) 1 (s n) = true ∧ (item (s n) n).parts = [(1, 0)] ∧
        mateAt (b (s n) (part_ 1)) (item (s n) n) (1, 0) = some (other n) ∧ (other n).env.tile = 1 ∧ dKind (other n).desc = 1 ∧
        (partsAgree (item (s n) n) (item (s n) n) && partsAgree (item (s n) n) (other n)) = (n == 1) ∧
        getLE (other n).desc 0x18 4 / 2 ^ 28 ≠ 3) ∧
      (∀ d ∈ [far, far7], runsOp ⟨0, 0⟩ d 1 crew2 = true ∧ attnRing d = false ∧ (match readKV (b crew2 d) (e crew2 d) d with
        | .ok _ => 0
        | .error c => c) = 5) ∧
      blockIx (⟨0, 0, 0⟩ : Pass).rb 1 ≠ [] ∧ GridSt.reset.armed = true := by decide +kernel

/-- AdamW on an object that is not there, and with hyperparameters beyond those there are; a snapshot and a fingerprint of an
object that is not there; a shard that is covered already. -/
theorem test_hyps_training_op_cases :
    let b (s : State) (d : Bytes) : State := opBegins ⟨0, 0⟩ d 1 (place ⟨0, 0⟩ d 1 s) s
    let e (s : State) (d : Bytes) : OpEnv := opEnv (opTurn ⟨0, 0⟩ d s) ⟨0, 0⟩ d 1
    let adam (l : List (Nat × Nat × Nat)) : Bytes := desc 0x0C 0 ([(2, 2, 1), (0x10, 8, h2), (0x1C, 4, 32), (0x20, 4, 0x40),
      (0x28, 4, 0x1000), (0x30, 4, 1), (0x34, 1, 1), (0x35, 1, 2)] ++ l)
    let hyp (d : Bytes) : Bytes := objBytes (b crew2 d) (ctxOf crew2 1).hyper 0 (objSize (b crew2 d) (ctxOf crew2 1).hyper)
    let gone := h3 + 2
    let twice := withCtx 1 { ctxOf crew2 1 with fps := [⟨0, 0, [⟨0, 0, 0, 0, 0, 0⟩], 0, 0⟩] } crew2
    (∀ x ∈ [(adam [(0x10, 8, gone)], 5), (adam [(0x37, 1, 9)], 8)], runsOp ⟨0, 0⟩ x.1 1 crew2 = true ∧
        adamFault (b crew2 x.1) (e crew2 x.1) x.1 (hyp x.1) = some x.2) ∧
      (let d := snap1 [(0x10, 8, gone)]
       runsOp ⟨0, 0⟩ d 1 crew2 = true ∧ objFault (b crew2 d) 1 gone 2 (getLE d 0x18 8) 15360 = some 5 ∧ getLE d 0x10 8 = gone) ∧
      (let d := fp1 [(0x10, 8, gone)]
       runsOp ⟨0, 0⟩ d 1 crew2 = true ∧ objFault (b crew2 d) 1 gone 1 (getLE d 0x18 8) (getLE d 0x20 8) = some 5) ∧
      (runsOp ⟨0, 0⟩ (fp1 []) 1 twice = true ∧ ∃ x ∈ fpCovered (b twice (fp1 [])) (e twice (fp1 [])) (fp1 []),
        ∃ y ∈ (fpListOf (ctxOf twice 1) (e twice (fp1 [])).stage (e twice (fp1 [])).step).shards, y.no = x.no) := by
  decide +kernel

/-- Rows of objects that are not there, an index out of range, and a table that the version does not have; a line that the L1
holds, and one that it does not. -/
theorem test_hyps_move_cases :
    let b (s : State) (d : Bytes) : State := opBegins ⟨0, 0⟩ d 1 (place ⟨0, 0⟩ d 1 s) s
    let e (s : State) (d : Bytes) : OpEnv := opEnv (opTurn ⟨0, 0⟩ d s) ⟨0, 0⟩ d 1
    let gone := h3 + 2
    let past := withByte 0x40 1
    let table (n : Nat) : Bytes := desc 0x17 0 (vec [(0x14, 4, 0x1000), (0x18, 4, n), (0x1C, 4, 1), (0x20, 4, 1), (0x24, 2, 1), (0x26, 1, 2), (0x27, 1, 1)])
    (let d := copy1 [(0x10, 8, gone)]
     runsOp ⟨0, 0⟩ d 1 crew2 = true ∧ copyFault (b crew2 d) (e crew2 d) d = some 5) ∧
      (let d := gather1 0 gone
       runsOp ⟨0, 0⟩ d 1 crew2 = true ∧ objFault (b crew2 d) 1 gone 1 (getLE d 0x18 8) (ghRows d * ghRow d) = some 5) ∧
      (∀ d ∈ [gather1 0 0, gather1 1 0], runsOp ⟨0, 0⟩ d 1 past = true ∧
        badIndices (rdField (b past d) (e past d) (getLE d 0x20 4) (4 * ghCount d)) (ghCount d) (ghRows d) ≠ []) ∧
      (∀ n ∈ [0, 7], runsOp ⟨0, 0⟩ (table n) 1 crew2 = true ∧ (match embedTable (b crew2 (table n)) (e crew2 (table n)) (table n) with
        | .ok _ => 0
        | .error c => c) = 5) ∧
      (let s := crewTile { TileSt.reset with l1 := [(h2, 3, [])] }
       (tileOf s (e s gemm1).tile).l1.find? (fun x => x.1 == h2 && x.2.1 == 3) = some (h2, 3, []) ∧
        (tileOf s (e s gemm1).tile).l1.find? (fun x => x.1 == h2 && x.2.1 == 4) = none ∧
        ((tileOf s (e s gemm1).tile).l1.filter fun y => l1Set y.2.1 == 3).length ≤ 8) := by decide +kernel

/-- An op beyond the micro-batches taken; a part beyond its slot; a group with a slot already; a binding that leads to a queue
of this module. -/
theorem test_hyps_send_cases : ∀ d ∈ [send1, gemmSend1],
    let b (s : State) : State := opBegins ⟨0, 0⟩ d 1 (place ⟨0, 0⟩ d 1 s) s
    let e (s : State) : OpEnv := opEnv (opTurn ⟨0, 0⟩ d s) ⟨0, 0⟩ d 1
    let bound (x : Binding) (s : State) : State := withB 0 x s
    let x (s : State) : Binding := bindOf s (sendWord d % 256)
    let small := bound { x (sending [1]) with slotBytes := 1 } (sending [1])
    let begun := bound { x (sending []) with sending := [⟨1, 0, 1, [memberKey 0 d], header 0 0, 1, 64, 0, false⟩] } (sending [])
    let mine := withQ 255 { queue2 with slots := [.granted, .granted] } (bound { x (sending [0]) with loc := true, destQueue := 255 } (sending [0]))
    (runsOp ⟨0, 0⟩ send1 1 crew2 = true ∧ sendWaits crew2 ⟨0, 0⟩ send1 = false ∧ opHdr crew2 0 0 = none) ∧
      (∀ s ∈ [small, begun, mine], runsOp ⟨0, 0⟩ d 1 s = true ∧ sendWaits s ⟨0, 0⟩ d = false ∧ opHdr s 0 0 = some (header 0 0) ∧
        pastGate s ⟨0, 0⟩ d = true ∧ (gridItem (b s) (e s) d []).parts = []) ∧
      ((x small).slotBytes = 1 ∧ rdField (b small) (e small) (getLE send1 0x14 4) (getLE send1 0x18 4) ≠ []) ∧
      (openSend (x begun) 1 (hdrMb (header 0 0)) (memberKey 0 d)).isSome = true ∧
      ((x mine).loc = true ∧ findObj mine (x mine).handle = some buffer ∧ buffer.role = .queueBuf 255 ∧
        (queueOf mine 255).handle = (x mine).handle ∧ (queueOf mine 255).slots[(0 : Nat)]? = some .granted ∧
        slotBytes (queueOf mine 255) = 65536 ∧ Memory.wf buffer.mem = true) := by decide +kernel

/-- A group not written by all; a destination that the member does not know; a queue of this module. -/
theorem test_hyps_send_header_cases :
    let y : Sending := ⟨1, 0, 0, [], header 0 0, 1, 64, 0, false⟩
    let s0 := sending []
    let s := withB 0 { bindOf s0 0 with sending := [y] } s0
    let mine := withQ 255 { queue2 with slots := [.granted, .granted], bound := some (5, 0) }
      (withB 0 { bindOf s0 0 with sending := [y], loc := true, destQueue := 255, destAddr := 5, destStage := 0 } s0)
    let x := bindOf mine (sendWord send1 % 256)
    let hd := sealHdr (setLE (outHdr mine x y 1) 0x28 4 x.seq)
    (bindOf s0 (sendWord send1 % 256)).sending.find? (fun y => y.left.isEmpty) = none ∧
      (destCtx s (bindOf s 0) y.ctx = none ∧ activeCtx (ctxOf s y.ctx) = true) ∧
      (destCtx mine x y.ctx = some 1 ∧ x.destAddr = mine.dvl.addr ∧ hdrCause mine x.destQueue mine.dvl.addr hd = none ∧
        hdrSeq hd = (queueOf mine x.destQueue).nextSeq) := by decide +kernel

/-- RECVs that are not due, with a bad check field, not admissible, skipped, past their take_tail; a head of another context; a
limit reached; a block too large; a HEAD-mode RECV in an ARRIVAL row; the FWD input of a stage with a BWD queue; two entries
of MATCH; one taken before. -/
theorem test_hyps_recv_cases :
    let d := recv1 []
    let bad := setLE d 0x0E 2 (getLE d 0x0E 2 ^^^ 1)
    let wrong := recv1 [(0x11, 1, 0)]
    let row := desc 0x12 0 [(2, 2, 0x8000), (0x11, 1, 1), (0x14, 4, 0x1000), (0x18, 4, 64)]
    let at_ (x : TileSt) (k : Queue) : State := withQ 0 k (crewTile x)
    let took : Take := ⟨[header 0 0], [0], 0, 64, 0, 64, 0, false, d, [], true⟩
    let ent (c len : Nat) : QEntry := ⟨setLE (setLE (header 0 0) 4 2 c) 0x1C 4 len, 1⟩
    let q (l : List QEntry) : Queue := { queue2 with entries := l }
    let bank := setLE (setLE (setLE tables 0xCF 1 3) 0xCE 1 254) 0xCD 1 0
    let flood : State := { withCtx 1 { ctxOf crew2 1 with inflight := [(0, List.replicate 64 (0, 0, 0))] } (at_ TileSt.reset (q [ent 1 0])) with
      jig := { crew2.jig with bank1 := [(0, bank)] } }
    let entry := fields 32 [(4, 4, 10), (0x0D, 1, 1)]
    let arrival : State := { at_ { slotOf 10 [] with prog := some (3, 7, entry) } (q [ent 1 0]) with
      jig := { crew2.jig with running := true, bank0 := [(0, bank)], rows := [(1, ⟨none, true, 0⟩)] } }
    let late := at_ (slotOf 10 [d]) (q [ent 1 0])
    recvTurn (at_ { slotOf 10 [d] with turns := [(0, 0)] } (q [])) 0 d = false ∧ dLast d = false ∧
      (checksOk bad = false ∧ recvTurn crew2 0 bad = true ∧ opCtx crew2 0 bad = some 1 ∧ activeCtx (ctxOf crew2 1) = true) ∧
      (checksOk wrong = true ∧ descOk wrong (windowBytes crew2) = false ∧ recvTurn crew2 0 wrong = true) ∧
      (let s := at_ { slotOf 10 [] with prog := some (3, 7, entry) } (q [])
       recvBad [(0, row)] s = none ∧ rTaken s 0 row = 0 ∧ skips s 0 row = true) ∧
      (takePoint late 0 d = some 17 ∧ 17 < { late with now := 18 }.now ∧ recvTurn { late with now := 18 } 0 d = true) ∧
      (selects (at_ TileSt.reset (q [ent 2 0])) 0 2 d = false ∧ recvBad [(0, d)] (at_ TileSt.reset (q [ent 2 0])) = none) ∧
      (limited flood 0 = true ∧ selects flood 0 1 d = true ∧ recvBad [(0, d)] flood = none) ∧
      (oversized (recv1 [(0x20, 4, 0)]) (ent 1 128).hdr = true) ∧
      (dRow row = true ∧ rMatch row = false ∧ (tileOf arrival 0).sel = none ∧ recvTurn arrival 0 row = true ∧
        recvBad [(0, row)] arrival = none ∧ skips arrival 0 row = false ∧ tileEntry arrival 0 = some entry ∧
        (rowAt arrival (entRow entry)).arrival = true ∧ selects arrival 0 1 row = true ∧ limited arrival 0 = false) ∧
      ((q []).phase = 0 ∧ ((stageQueues arrival 0 0).bind (·.bwdQ)).isSome = true) ∧
      (let two := recv1 [(0x11, 1, 2)]
       let s := at_ TileSt.reset { q [ent 1 0, ent 1 0] with phase := 1 }
       recvBad [(0, two)] s = none ∧ recvTurn s 0 two = true ∧ rTaken s 0 two = 0 ∧ rMax two = 2 ∧ dRow two = false ∧
        (queueOf s 0).phase ≠ 0 ∧ (∀ z ∈ (queueOf s 0).entries.take 2, opCtx s 0 two = some (hdrCtx z.hdr) ∧
          oversized two z.hdr = false)) ∧
      (let s := at_ { TileSt.reset with take := some took } (q [])
       recvTurn s 0 d = true ∧ 0 < rTaken s 0 d ∧ (tileOf s 0).ended = false) := by decide +kernel

/-- A GEMM of 1 row with a fill of 4, the micro-batch of context c on tile 0, and its group with rows so far. -/
def gemmFour : Bytes := desc 1 0 (mm ++ [(0x38, 2, 4), (0x3A, 2, 1)])

def inGate (c : Nat) : GridItem :=
  let i := gridItem crew2 (opEnv crew2 ⟨0, 0⟩ gemmFour 1) gemmFour []
  { i with env := { i.env with ctx := c } }

def gate (c rows : Nat) : Group := ⟨c, (inGate c).env.stage, (inGate c).env.ver, rows, [inGate c], 0, false, 0⟩

/-- No group with the key; three others, and four; a group of its own with 1, 3 and 128 rows; a slot whose tail point comes;
a GEMM_SEND below its fill. -/
theorem test_hyps_fill :
    let s (gs : List Group) : State := crewTile { TileSt.reset with groups := gs }
    let e := opEnv (opTurn ⟨0, 0⟩ gemmFour crew2) ⟨0, 0⟩ gemmFour 1
    let key (g : Group) : Bool := g.op == dSeq gemmFour && g.ctx == 1 && g.version == e.ver && g.stage == e.stage
    let plain (c : Nat) (j : GridItem) : Bool := dKind j.desc == 1 && j.parts == [] && getLE j.desc 0x18 4 / 2 ^ 28 != 3 &&
      j.env.tile == 0 && j.env.ctx == c && decide (1 ≤ gM j.desc)
    let four := [gate 2 1, gate 3 1, gate 4 1, gate 5 1]
    let send2 := desc 2 0 (mm ++ [(0x20, 4, 0x4000_0000), (0x38, 2, 4), (0x3A, 2, 1)])
    (∀ gs ∈ [[], four.tail, four, [gate 1 1], [gate 1 3], [gate 1 128]], runsOp ⟨0, 0⟩ gemmFour 1 (s gs) = true ∧
        dKind gemmFour = 1 ∧ pastGate (s gs) ⟨0, 0⟩ gemmFour = false ∧ (tileOf (s gs) 0).groups = gs ∧
        (∀ g ∈ gs, g.closed = false) ∧ (tileOf (s gs) 0).split = [] ∧ fillTail (s gs) 0 gemmFour = none) ∧
      joinRows e gemmFour = 1 ∧ gFill gemmFour = 4 ∧ (∀ g ∈ four, key g = false ∧ g.op = dSeq gemmFour) ∧
      (four.tail.filter fun g => g.op == dSeq gemmFour).length < 4 ∧ four.Nodup ∧ four.tail.length = 3 ∧
      (∀ j ∈ (gate 2 1).items, plain 2 j = true) ∧
      activeCtx (ctxOf (withCtx 2 ctx1 (s four)) 2) = true ∧ key (gate 1 1) = true ∧ (gate 1 1).rows + 1 < 4 ∧
      4 ≤ (gate 1 3).rows + 1 ∧ (gate 1 3).rows + 1 ≤ 128 ∧ (∀ j ∈ (gate 1 3).items, plain 1 j = true) ∧
      128 < (gate 1 128).rows + 1 ∧ (∃ p, fillTail (crewTile (slotOf 100 [])) 0 gemmFour = some p ∧ 0 < p) ∧
      runsOp ⟨0, 0⟩ send2 1 (sending [1]) = true ∧ pastGate (sending [1]) ⟨0, 0⟩ send2 = false ∧ dKind send2 = 2 := by
  decide +kernel

/-- The group of a tile, due at its tail point and by its timeout: of a GEMM; of one whose weights are gone; of a GEMM_SEND
that finds no credit, and of one that does. -/
theorem test_hyps_group_due :
    let send2 := desc 2 0 (mm ++ [(0x20, 4, 0x4000_0000), (0x38, 2, 4), (0x3A, 2, 1)])
    let tiled := desc 1 0 (mm ++ [(0x18, 4, 0x3000_0000), (0x38, 2, 4), (0x3A, 2, 1)])
    let item (d : Bytes) (s : State) : GridItem := gridItem s (opEnv s ⟨0, 0⟩ d 1) d []
    let only (d : Bytes) (s : State) : Group := ⟨1, 0, 0, 1, [item d s], 0, false, 0⟩
    let on (d : Bytes) (s : State) : State := setTile 0 (fun x => { x with groups := [only d s] }) s
    (∀ x ∈ [(gemmFour, crew2), (tiled, crew2), (send2, sending []), (send2, sending [1])],
        let s := on x.1 x.2
        (tileOf s (0 : Fin 256).val).groups = [only x.1 x.2] ∧ (only x.1 x.2).closed = false ∧ (tileOf s 0).split = [] ∧
          activeCtx (ctxOf s 1) = true ∧ (item x.1 x.2).env.tile = 0 ∧ (item x.1 x.2).env.ctx = 1 ∧ (item x.1 x.2).parts = []) ∧
      ((only gemmFour crew2).issued = 0 ∧ dKind gemmFour = 1 ∧ getLE gemmFour 0x18 4 / 2 ^ 28 ≠ 3 ∧ 1 ≤ gM gemmFour) ∧
      (itemBlocked (on tiled crew2) (item tiled crew2) = false ∧ (weightsGone (on tiled crew2) (item tiled crew2)).isSome = true) ∧
      itemBlocked (on send2 (sending [])) (item send2 (sending [])) = true ∧
      (let s := on send2 (sending [1])
       let j := item send2 (sending [1])
       let x := bindOf s (sendWord send2 % 256)
       let o := itemOut j (gemmAnchor [j.inp] (gM j.desc) (gN j.desc))
       itemBlocked s j = false ∧ weightsGone s j = none ∧ j.env.hdr = some (header 0 0) ∧
        openSend x 1 (hdrMb (header 0 0)) (memberKey 0 j.desc) = none ∧ x.loc = false ∧
        (withTrailing (gFc j.desc) o).length = 4 ∧ getLE j.desc 0x20 4 % 2 ^ 28 + 4 ≤ x.slotBytes) ∧
      (1 : Nat) ≠ (only gemmFour crew2).version := by decide +kernel

/-- A rise, and a fall, of more than 50 A, and neither; a tile of the die with an op running, and one without. -/
theorem test_hyps_slew :
    let s (cur : Nat) (x : TileSt) : State := { crewTile x with pwr := { crew2.pwr with dies := [(0, { dieOf crew2 0 with current := cur })] } }
    let busy : TileSt := { TileSt.reset with running := some (1, 0, 0) }
    0 < 60000 - ((dieOf (s 0 busy) (0 : Fin 4)).current + 50000) ∧ dieTiles (s 0 busy) 0 true = [0] ∧
      0 < (dieOf (s 60000 TileSt.reset) (0 : Fin 4)).current - 50000 - 0 ∧ dieTiles (s 60000 TileSt.reset) 0 false = [0] ∧
      10000 - ((dieOf (s 0 busy) (0 : Fin 4)).current + 50000) = 0 ∧ (dieOf (s 0 busy) (0 : Fin 4)).current - 50000 - 10000 = 0 := by
  decide +kernel

/-! ### What commands do, against the spec's worked examples -/

/-- The state one step of `c` leads to from `s`. -/
def after (c : Instr) (s : State) : State := match step { s with pending := [c] } with
  | .next t => t
  | .fault _ => s
  | .refused _ => s

/-- A read of JIG_NEXT_FRAME latches its high word (Example after R10: 5,294,967,296). -/
theorem test_reads_a_64_bit_register :
    let s := { running with jig := { running.jig with bank0 := [(0, image)], ts := 5293967296 } }
    let t := after (.reg64LowRead 0 0x20018) s
    t.out.head? = some (.read 0 0x20018 0x3B9A_CA00) ∧
      (after (.rcRead 0 0x2001C 0) t).out.head? = some (.read 0 0x2001C 1) := by decide +kernel

/-- Stochastic rounding to BF16 of 1.005859375 with the words 0x8B00_0000 and 0xE100_0000 (Example of R63). -/
theorem test_rounds_to_bf16 : (convert bf16 .rne false false (f32 0x3F80_C000)).1 = 0x3F81 ∧
    (convert bf16 (.stoch 0x8B00_0000) false false (f32 0x3F80_C000)).1 = 0x3F81 ∧
    (convert bf16 (.stoch 0xE100_0000) false false (f32 0x3F80_C000)).1 = 0x3F80 := by decide +kernel

/-- Bytes in tile 0's store, owned by context 1. -/
def stored (l : List (Nat × Bytes)) (s : State) : State := { s with
  tile := { s.tile with
    store := l.foldl (fun m x => memWrite m x.1 x.2) []
    tiles := [(0, { TileSt.reset with tags := [(0, 1)] })] } }

/-- The grid sums 2^24 + 1 - 2^24 + 1 to 2 in any order (Example of R52). -/
theorem test_gemm_sums_exactly :
    let d := desc 1 0 (mm ++ [(0x2C, 4, 4)])
    let one : Bytes := [0x80, 0x3F]
    let s := stored [(0x40, [0x80, 0x45] ++ one ++ [0x80, 0xC5] ++ one),
      (0x80, [0x80, 0x45]), (0x180, one), (0x280, [0x80, 0x45]), (0x380, one)] crew
    memRead (after (.gemm ⟨0, 0⟩ d []) s).tile.store 0x1000 4 = toLE 4 0x4000_0000 := by decide +kernel

/-- The default floor after a paired 4-bit pass and after an 8-bit one (Example of R89). -/
theorem test_floor_level : floorLevel 60 (passCurrent (9000, 10500, 8000) 9 9 16384) = 12 ∧
    floorLevel 60 (passCurrent (9000, 10500, 8000) 7 7 16384) = 10 := by decide +kernel

/-- GRAD_Q8 of the block of the Example of R261: scale code, elements and new errors. -/
theorem test_grad_q8_block :
    let d := desc 0x0D 0 ([(2, 2, 1), (0x10, 4, 0x40), (0x14, 4, 0x100), (0x18, 4, 0x1000), (0x1C, 4, 0x1040), (0x20, 4, 32), (0x24, 2, 32), (0x26, 1, 1)])
    let s := stored [(0x40, toLE 4 0x3BC0_0000 ++ toLE 4 0xBAD0_0000), (0x100, toLE 2 0x0400)] crew
    let t := (after (.gradQ8 ⟨0, 0⟩ d) s).tile.store
    memRead t 0x1000 3 = [0x7A, 0xF2, 0] ∧ memRead t 0x1040 1 = [0x68] ∧ memRead t 0x100 4 = toLE 2 0x0400 ++ toLE 2 0x8800 := by
  decide +kernel

/-- The record of the Example of R433: code, severity, source, fn, ctx and the detail's first bytes. -/
theorem test_log_record_bytes :
    let r : LogRec := ⟨9, 0x0401, 2, 1, 0, some 17, false, 0, some 0x041, 0x03A91C, 0x0008C803, [(1, 5), (1, 0x0F), (2, 3), (1, 0x45)]⟩
    slice (recBytes r) 4 4 = [1, 4, 2, 1] ∧ slice (recBytes r) 0x10 1 = [0x51] ∧ slice (recBytes r) 0x12 2 = [0x41, 0x80] ∧
      slice (recBytes r) 0x1C 5 = [5, 0x0F, 3, 0, 0x45] ∧ (recBytes r).length = 64 := by decide +kernel

/-- The completion entry of the Example of R395. -/
theorem test_completion_entry :
    (cqEntry 0xA7 0 42 1 3 []).take 8 = [0xA7, 0, 0, 0, 0x2A, 0, 1, 3] ∧ (cqEntry 0xA7 0 42 1 3 []).length = 32 := by decide +kernel

/-- MQ_OCC of a queue of 32 with 7 entries and 25 free slots (Example of R159). -/
theorem test_queue_occupancy : mqOcc { queue2 with
    depth := 32, slots := List.replicate 25 .free ++ List.replicate 7 .posted, entries := List.replicate 7 ⟨[], 0⟩ } = 0x0019_0007 := by decide +kernel

/-- The ledger record of the Example of R248. -/
theorem test_ledger_record : ledgerRec [0x2A10, 1207, 2, 0, 0, 1] = [0x10, 0x2A, 0, 0, 0xB7, 4, 0, 0, 2, 0, 0, 0, 1, 0, 0, 0] ∧
    (ledgerRec [0x2A10, 1207, 2, 0, 1, 1]).drop 8 = toLE 4 0x0008_0002 ++ toLE 4 1 := by decide +kernel

/-- The sums of the same Example: without rank 2, and the next step with its deferred 1.0 last. -/
theorem test_native_sum : (nativeFold 1 0 [0x3F00_0000, 0x3E80_0000, 0x4000_0000]).1 = 0x4030_0000 ∧
    (nativeFold 1 0 [0x4B80_0000, 0x3F80_0000, 0x3F80_0000, 0xCB80_0000, 0x3F80_0000]).1 = 0x3F80_0000 := by decide +kernel

end Sys2Proof.Tests
end

/-! Accesses to the registers: what a refused access logs and counts, and what a write does that is refused, ignored or
done. -/

namespace Sys2Proof.Machine

/-! ### Rate-limited entries (R433) -/

/-- With no entry of the last 1 ms, an occurrence is logged as an entry of its own. -/
theorem logLimited_log_fresh {s : State} (h : ∀ e ∈ s.dbg.lastLog, e.2.1 + 1000000 ≤ s.now) (key : Nat) (ev : Ev) :
    (logLimited key ev s).dbg.log = (logEntry ev s).dbg.log := by
  unfold logLimited
  split
  next k t seq hf =>
    have ht : t + 1000000 ≤ s.now := h _ (List.mem_of_find?_eq_some hf)
    rw [if_neg (by omega)]
  next => rfl

/-- Within 1 ms of an entry of its kind, an occurrence joins that entry's record. -/
theorem logLimited_log_joined {s : State} {key : Nat} {e : Nat × Nat × Nat}
    (hf : s.dbg.lastLog.find? (fun x => x.1 == key) = some e) (ht : s.now < e.2.1 + 1000000) (ev : Ev) :
    (logLimited key ev s).dbg.log = mergeRepeat e.2.2 s.dbg.log := by
  obtain ⟨k, t, seq⟩ := e
  simp only at ht
  simp [logLimited, hf, ht]

/-- A raised repeat count leaves every record its number and its code. -/
theorem exists_mem_of_mem_mergeRepeat {seq : Nat} {log : List LogRec} {r : LogRec} (h : r ∈ mergeRepeat seq log) :
    ∃ q ∈ log, q.seq = r.seq ∧ q.code = r.code := by
  obtain ⟨q, hq, rfl⟩ := List.mem_map.mp h
  exact ⟨q, hq, by split <;> exact ⟨rfl, rfl⟩⟩

/-- An entry whose fields fit one record adds one record to the ring. -/
theorem logEntry_log_one {e : Ev} {d : List (Nat × Nat)} (h : splitDetail 0x1C [] e.detail = [d]) (s : State) :
    ∃ r : LogRec, (logEntry e s).dbg.log = (r :: s.dbg.log).take 4096 ∧ r.code = e.code :=
  ⟨mkRec s e s.dbg.nextSeq 1 d, by simp [logEntry, entryRecs, h], rfl⟩

/-! ### Refused accesses (R403, R436) -/

/-- Counting a violation logs nothing, or the one record of the quarantine event (R404). -/
theorem countViolation_log (f kind : Nat) (s : State) :
    (countViolation f kind s).dbg.log = s.dbg.log ∨
      ∃ r : LogRec, (countViolation f kind s).dbg.log = (r :: s.dbg.log).take 4096 ∧ r.code = 0x0101 := by
  unfold countViolation
  dsimp only
  split
  · rw [raise_class01 (by simp)]
    exact .inr (logEntry_log_one rfl _)
  · exact .inl rfl

/-- A refused access is logged as LOG_ACCESS when no entry of the last 1 ms takes it. The quarantine event that it may
bring comes on top of its record, and both stand in the ring. -/
theorem badAccess_logged {s : State} (h : ∀ e ∈ s.dbg.lastLog, e.2.1 + 1000000 ≤ s.now) (f off w v : Nat) :
    ∃ r ∈ (badAccess f off w v s).dbg.log.take 4096, r.code = 0x0B81 ∧ s.dbg.nextSeq ≤ r.seq := by
  obtain ⟨r, l, hl, hr⟩ := logEntry_head { code := 0x0B81, fn := some f, detail := [(4, off), (1, w), (4, v)] } s
  have hlog : (logAccess f off w v s).dbg.log = r :: l := (logLimited_log_fresh h _ _).trans hl
  refine ⟨r, ?_, hr⟩
  rcases countViolation_log f violAccess (logAccess f off w v s) with hc | ⟨q, hc, -⟩ <;>
    rw [badAccess, hc, hlog] <;> simp

/-- Within 1 ms of the last entry of its kind, a refused access adds no LOG_ACCESS record. -/
theorem badAccess_logsOnce (f off w v : Nat) (s : State) : LogsOnce (384 + f) 0x0B81 s (badAccess f off w v s) := by
  intro e hf ht r hr hcode
  have hlog : (logAccess f off w v s).dbg.log = mergeRepeat e.2.2 s.dbg.log := logLimited_log_joined hf ht _
  have hm : r ∈ mergeRepeat e.2.2 s.dbg.log := by
    rcases countViolation_log f violAccess (logAccess f off w v s) with hc | ⟨q, hc, hq⟩ <;>
      rw [badAccess, hc, hlog] at hr
    · exact hr
    · rcases List.mem_cons.mp (List.mem_of_mem_take hr) with rfl | hr
      · exact absurd (hq.symm.trans hcode) (by decide)
      · exact hr
  obtain ⟨q, hq, hs, hc⟩ := exists_mem_of_mem_mergeRepeat hm
  exact ⟨q, hq, hs, hc.trans hcode⟩

/-- What a refused access has done when its command ends: no unit has changed, FN_VIOL_CNT has counted it, and it is
logged, at most once in 1 ms (R403, R433). -/
def Refused (f : Nat) (s t : State) : Prop :=
  UnitsKept s t ∧ (fnOf t f).violCnt = min ((fnOf s f).violCnt + 1) 0xFFFF_FFFF ∧
    ((∀ e ∈ s.dbg.lastLog, e.2.1 + 1000000 ≤ s.now) → Logs 0x0B81 s t) ∧ LogsOnce (384 + f) 0x0B81 s t

/-- A command that did no more than a refused access, but for what it sent, is refused when it ends. -/
theorem refused_settle (v : State) {f off w x : Nat} {s u : State} (hu : UnitsKept (badAccess f off w x s) u)
    (hh : u.host = (badAccess f off w x s).host) (hd : u.dbg = (badAccess f off w x s).dbg) : Refused f s (settle v u) := by
  refine ⟨unitsKept_settle v (unitsKept_trans (badAccess_units f off w x s) hu), ?_, fun h => ?_, fun e hf ht r hr => ?_⟩
  · rw [fnOf_settle_violCnt, fnOf, hh]
    exact badAccess_cnt f off w x s
  · rw [Logs, settle_log, hd]
    exact badAccess_logged h f off w x
  · rw [settle_log, hd] at hr
    exact badAccess_logsOnce f off w x s e hf ht r (List.mem_of_mem_take hr)

theorem refused_badAccess (v : State) (f off w x : Nat) (s : State) : Refused f s (settle v (badAccess f off w x s)) :=
  refused_settle v (unitsKept_refl _) rfl rfl

theorem refused_emit_badAccess (v : State) (o : Out) (f off w x : Nat) (s : State) :
    Refused f s (settle v (emit o (badAccess f off w x s))) := refused_settle v (unitsKept_refl _) rfl rfl

/-- A refused access sends nothing. -/
theorem badAccess_out (f off w v : Nat) (s : State) : (badAccess f off w v s).out = s.out :=
  countViolation_cases (fun u => u.out = s.out) f violAccess (logAccess f off w v s) fun _ _ =>
    ⟨logLimited_out _ _ s, fun _ _ => logLimited_out _ _ s⟩

/-- A refused access changes of its function's record what counting a violation changes. -/
theorem badAccess_counted (f off w v : Nat) (s : State) : Counted (fnOf s f) (fnOf (badAccess f off w v s) f) :=
  countViolation_cases (fun u => Counted (fnOf s f) (fnOf u f)) f violAccess (logAccess f off w v s) fun g hg => by
    have h : Counted (fnOf s f) (fnOf (setFn f g (logAccess f off w v s)) f) := by
      rw [fnOf_setFn_same]
      simpa [fnOf, logAccess] using hg (fnOf s f)
    exact ⟨h, fun _ _ => h⟩

theorem counted_field {α : Type} (φ : FnSt → α)
    (hφ : ∀ x c t q, φ { x with violCnt := c, violTimes := t, quarantine := q } = φ x) {x y : FnSt} (h : Counted x y) :
    φ y = φ x := (hφ y _ _ _).symm.trans (congrArg φ h.1)

/-! ### Which write is refused, ignored or done (R14, R389, R404) -/

/-- What the module sets in the cycle of a write, in the W1C register at its offset (R12). -/
def moduleSets (f off : Nat) (setNow : Word) (s : State) : State :=
  match eventsMask off with
  | some m => updEvents off (fun w => w ||| (setNow &&& word m)) s
  | none => if off = 0x28 then setFn f (fun x => { x with ovfl := x.ovfl || bit setNow.toNat 31 }) s else s

theorem regWrite_eq (f off : Nat) (v setNow : Word) (s : State) : regWrite f off v setNow s =
    if off % 4 != 0 || !named f off then badAccess f off 4 v.toNat s
    else if decide (0x20000 ≤ off) && !isOwner s f && !perFn off then badAccess f off 4 v.toNat (moduleSets f off setNow s)
    else if (fnOf s f).quarantine && !passesQuarantine off then moduleSets f off setNow s
    else regSet f off v setNow s := rfl

theorem updEvents_of_id {g : Word → Word} (h : ∀ w, g w = w) (off : Nat) (s : State) : updEvents off g s = s := by
  unfold updEvents
  split <;> simp only [h]

/-- In a cycle in which the module sets no bit, it changes nothing. -/
theorem moduleSets_zero {off : Nat} (h : off ≠ 0x28) (f : Nat) (s : State) : moduleSets f off 0 s = s := by
  unfold moduleSets
  split
  · exact updEvents_of_id (by simp) off s
  · rw [if_neg h]

/-- A write to a module-wide register by a function that is not the owner PF is a refused access (R14). -/
theorem regWrite_foreign {s : State} {f off : Nat} (ho : isOwner s f = false) (h : 0x20000 ≤ off) (hp : perFn off = false)
    (v : Word) : regWrite f off v 0 s = badAccess f off 4 v.toNat s := by
  rw [regWrite_eq, moduleSets_zero (by omega)]
  simp [ho, h, hp]

/-- A write of a function in QUARANTINE does nothing, or is a refused access (R404). -/
theorem regWrite_quarantined {s : State} {f off : Nat} (hq : (fnOf s f).quarantine = true)
    (hp : passesQuarantine off = false) (h : off ≠ 0x28) (v : Word) :
    regWrite f off v 0 s = s ∨ regWrite f off v 0 s = badAccess f off 4 v.toNat s := by
  rw [regWrite_eq, moduleSets_zero h]
  simp only [hq, hp, Bool.not_false, Bool.and_self, if_true]
  split
  · exact .inr rfl
  · split
    · exact .inr rfl
    · exact .inl rfl

/-- A write to a register that the function may write to, out of QUARANTINE, is done. -/
theorem regWrite_done {s : State} {f off : Nat} (ha : off % 4 = 0) (hn : named f off = true)
    (ho : off < 0x20000 ∨ isOwner s f = true ∨ perFn off = true) (hq : (fnOf s f).quarantine = false) (v setNow : Word) :
    regWrite f off v setNow s = regSet f off v setNow s := by
  have h : (decide (0x20000 ≤ off) && !isOwner s f && !perFn off) = false := by
    rcases ho with h | h | h
    · simp [Nat.not_le.mpr h]
    · simp [h]
    · simp [h]
  rw [regWrite_eq]
  simp [ha, hn, h, hq]

/-! ### Plain writes (R390, R193, R286, R380, R322, R428) -/

/-- The MSI-X table ends below the module-wide blocks (R390). -/
theorem not_msixTable {off : Nat} (h : 0x20000 ≤ off) (f : Nat) : ¬ off < 0x4000 + 16 * vectors f := by
  unfold vectors
  split <;> omega

theorem regSet_irqCoal (f : Nat) (v n : Word) (s : State) :
    regSet f 0x24 v n s = setFn f (fun x => { x with irqCoal := v &&& 0x00FF_FFFF }) s := rfl

theorem regSet_vnrSel (f : Nat) (v n : Word) (s : State) :
    regSet f 0x40010 v n s = setFn f (fun x => { x with vnrSel := v &&& 0x00FF_FFFF }) s := by
  simp [regSet, eventsMask, writable64, not_msixTable]

theorem regSet_krfSel (f : Nat) (v n : Word) (s : State) :
    regSet f 0x6000C v n s = setFn f (fun x => { x with krfSel := v }) s := by
  simp [regSet, eventsMask, writable64, not_msixTable]

theorem regSet_ckpSel (f : Nat) (v n : Word) (s : State) :
    regSet f 0x90020 v n s = setFn f (fun x => { x with ckpSel := v }) s := by
  simp [regSet, eventsMask, writable64, not_msixTable]

theorem regSet_wakeEn (f : Nat) (v n : Word) (s : State) :
    regSet f 0xA000C v n s = { s with pwr := { s.pwr with wakeEn := (v &&& 0x1FFD) ||| 2 } } := by
  simp [regSet, eventsMask, writable64, not_msixTable]

theorem regSet_memSel_high (f : Nat) (v n : Word) (s : State) : regSet f 0x7002C v n s = writeHigh f 0x7002C v s := rfl

/-- The high word of MEM_SEL joins the low word latched before it (R10, R322). -/
theorem writeHigh_memSel {s : State} {f lo : Nat}
    (hl : (fnOf s f).writeLatch.find? (fun e => e.1 == 0x70028) = some (0x70028, lo)) (v : Word) :
    writeHigh f 0x7002C v s = setFn f (fun x => { x with writeLatch := tdel x.writeLatch 0x70028 })
      (setFn f (fun x => { x with memSel := lo + v.toNat * 2 ^ 32 }) s) := by
  simp [writeHigh, ringLocked, hl, set64]

/-- What a command leaves that changed one field of one function's record: the field as it set it there, every unit, and
the field of every other function. -/
theorem settle_setFn_own {α : Type} (φ : FnSt → α) (hp : ∀ x l, φ { x with pairs := l } = φ x)
    (hd : ∀ x e o w p, φ { x with evtHeld := e, ovfl := o, wakeCause := w, wakePending := p } = φ x)
    (v : State) (f : Nat) (g : FnSt → FnSt) (s : State) :
    φ (fnOf (settle v (setFn f g s)) f) = φ (g (fnOf s f)) ∧ UnitsKept s (settle v (setFn f g s)) ∧
      ∀ j : Nat, j ≠ f → φ (fnOf (settle v (setFn f g s)) j) = φ (fnOf s j) := by
  refine ⟨?_, unitsKept_settle v (unitsKept_refl s), fun j hj => ?_⟩
  · rw [fnOf_settle φ hp hd, fnOf_setFn_same]
  · rw [fnOf_settle φ hp hd, fnOf_setFn_other g s hj.symm]

/-- The plain registers that a function writes for itself. -/
def OwnRegs (x y : FnSt) : Prop :=
  y.irqCoal = x.irqCoal ∧ y.vnrSel = x.vnrSel ∧ y.krfSel = x.krfSel ∧ y.ckpSel = x.ckpSel ∧ y.memSel = x.memSel

theorem Counted.ownRegs {x y : FnSt} (h : Counted x y) : OwnRegs x y :=
  ⟨counted_field FnSt.irqCoal (fun _ _ _ _ => rfl) h, counted_field FnSt.vnrSel (fun _ _ _ _ => rfl) h,
    counted_field FnSt.krfSel (fun _ _ _ _ => rfl) h, counted_field FnSt.ckpSel (fun _ _ _ _ => rfl) h,
    counted_field FnSt.memSel (fun _ _ _ _ => rfl) h⟩

/-- A write of a function in QUARANTINE changes no unit and none of its plain registers (R404). -/
theorem settle_regWrite_quarantined {s : State} {f off : Nat} (hq : (fnOf s f).quarantine = true)
    (hp : passesQuarantine off = false) (h : off ≠ 0x28) (v : Word) :
    UnitsKept s (settle s (regWrite f off v 0 s)) ∧ OwnRegs (fnOf s f) (fnOf (settle s (regWrite f off v 0 s)) f) := by
  rcases regWrite_quarantined hq hp h v with hw | hw <;> rw [hw]
  · exact ⟨unitsKept_settle s (unitsKept_refl s), by simp [OwnRegs]⟩
  · exact ⟨unitsKept_settle s (badAccess_units f off 4 v.toNat s),
      by simpa [OwnRegs] using (badAccess_counted f off 4 v.toNat s).ownRegs⟩

/-! ### Commands -/

theorem exec_registerWrite (f : Fin 64) (off : Nat) (v : Word) (s : State) :
    exec (.registerWrite f off v) s = .next (settle s (regWrite f off v 0 s)) := rfl
theorem exec_reg64LowWrite (f : Fin 64) (off : Nat) (v : Word) (s : State) :
    exec (.reg64LowWrite f off v) s = .next (settle s (regWrite f off v 0 s)) := rfl
theorem exec_reg64HighWrite (f : Fin 64) (off : Nat) (v : Word) (s : State) :
    exec (.reg64HighWrite f off v) s = .next (settle s (regWrite f off v 0 s)) := rfl
theorem exec_w1cWrite (f : Fin 64) (off : Nat) (v setNow : Word) (s : State) :
    exec (.w1cWrite f off v setNow) s = .next (settle s (regWrite f off v setNow s)) := rfl

/-- A register write that sets one field of its own function's record does that and no more. -/
theorem registerWrite_own {α : Type} (φ : FnSt → α) (hp : ∀ x l, φ { x with pairs := l } = φ x)
    (hd : ∀ x e o w p, φ { x with evtHeld := e, ovfl := o, wakeCause := w, wakePending := p } = φ x)
    {f : Fin 64} {off : Nat} {v : Word} {g : FnSt → FnSt} {s : State} (hw : regWrite f off v 0 s = setFn f g s) :
    ∃ t, exec (.registerWrite f off v) s = .next t ∧ φ (fnOf t f) = φ (g (fnOf s f)) ∧ UnitsKept s t ∧
      ∀ j : Nat, j ≠ f → φ (fnOf t j) = φ (fnOf s j) :=
  ⟨_, by rw [exec_registerWrite, hw], settle_setFn_own φ hp hd s f g s⟩

/-! ### FN_EVT_PEND.OVFL (R12, R399) -/

/-- When no record of the log is new, settling delivers nothing. -/
theorem settle_of_no_new {s t : State} (h : ∀ r ∈ t.dbg.log, r.seq < s.dbg.nextSeq) :
    settle s t = trimLog (alertLine t) := by
  have hnew : (t.dbg.log.reverse.filter fun r => decide (s.dbg.nextSeq ≤ r.seq) && deliverable r) = [] := by
    rw [List.filter_eq_nil_iff]
    intro r hr
    have := h r (List.mem_reverse.mp hr)
    simp [Nat.not_le.mpr this]
  rw [settle, hnew]
  rfl

theorem regSet_ovfl (f : Nat) (v setNow : Word) (s : State) : regSet f 0x28 v setNow s =
    setFn f (fun x => { x with ovfl := (x.ovfl && !bit v.toNat 31) || bit setNow.toNat 31 }) s := rfl

/-- A write of FN_EVT_PEND clears OVFL where it is written 1 out of QUARANTINE, and what the module sets stays set. -/
theorem regWrite_ovfl (f : Nat) (v setNow : Word) (s : State) : ∃ g, regWrite f 0x28 v setNow s = setFn f g s ∧
    (g (fnOf s f)).ovfl = (((fnOf s f).ovfl && !(bit v.toNat 31 && !(fnOf s f).quarantine)) || bit setNow.toNat 31) := by
  cases hq : (fnOf s f).quarantine with
  | false => exact ⟨_, (regWrite_done rfl rfl (.inl (by decide)) hq v setNow).trans (regSet_ovfl f v setNow s), by simp⟩
  | true =>
    refine ⟨fun x => { x with ovfl := x.ovfl || bit setNow.toNat 31 }, ?_, by simp⟩
    rw [regWrite_eq]
    simp [named, passesQuarantine, hq, moduleSets, eventsMask]

/-- With every record of the log numbered below the next number, the write of FN_EVT_PEND does what R12 says. -/
theorem w1cWrite_ovfl_of_numbered {s : State} (hn : ∀ r ∈ s.dbg.log, r.seq < s.dbg.nextSeq) (f : Fin 64) (v setNow : Word) :
    ∃ t, exec (.w1cWrite f 0x28 v setNow) s = .next t ∧ UnitsKept s t ∧
      (fnOf t f).ovfl = (((fnOf s f).ovfl && !(bit v.toNat 31 && !(fnOf s f).quarantine)) || bit setNow.toNat 31) := by
  obtain ⟨g, hw, hg⟩ := regWrite_ovfl f v setNow s
  refine ⟨settle s (setFn f g s), by rw [exec_w1cWrite, hw], unitsKept_settle s (unitsKept_refl s), ?_⟩
  rw [settle_of_no_new (t := setFn f g s) hn]
  exact (congrArg FnSt.ovfl (fnOf_setFn_same f.val g s)).trans hg

/-- Function 0 holds the 256 events that it can hold, and the log has a record that every function sees, with the number
that the next record gets; `logEntry`, which writes the log, numbers a record below the number that it leaves. -/
def unnumberedLog : State := { State.reset with
  host := { State.reset.host with
    fns := [(0, { FnSt.reset with ovfl := true, evtHeld := List.replicate 256 (0, 0x0A01, 0) })] }
  dbg := { State.reset.dbg with log := [⟨0, 0x0A01, 1, 8, 0, none, false, 1, none, 0, 0, []⟩] } }

/-- The record is delivered after the write, as if the command had raised it, and sets OVFL again (R399). -/
theorem unnumberedLog_sets_ovfl :
    (fnOf (settle unnumberedLog (regWrite 0 0x28 0x8000_0000 0 unnumberedLog)) 0).ovfl = true := by decide +kernel

end Sys2Proof.Machine

namespace Sys2Proof

open Machine

/-- Settles O10: a read and a write of a wrong width are both a refused access, and the read is answered with 0. -/
theorem badWidthAccessesAreRefused : Obligations.BadWidthAccessesAreRefused := by
  intro f off width write s
  cases write with
  | some v =>
    obtain ⟨hk, hc, hl, ho⟩ := refused_badAccess s f off width v s
    exact ⟨_, rfl, hk, nofun, hc, hl, ho⟩
  | none =>
    obtain ⟨hk, hc, hl, ho⟩ := refused_emit_badAccess s (.read f off 0) f off width 0 s
    have hs : Sends (.read f off 0) s (emit (.read f off 0) (badAccess f off width 0 s)) :=
      ⟨[.read f off 0], congrArg _ (badAccess_out f off width 0 s), by simp⟩
    exact ⟨_, rfl, hk, fun _ => sends_settle s hs, hc, hl, ho⟩


/-- Every write of a module-wide block by a function that is not the owner PF is refused (R14). -/
theorem foreignWrite_refused (f : Fin 64) (off : Nat) (v : Word) (s : State) (ho : isOwner s f = false)
    (h : 0x20000 ≤ off) (hp : perFn off = false) :
    ∀ c ∈ [Instr.registerWrite f off v, .reg64LowWrite f off v, .reg64HighWrite f off v, .w1cWrite f off v 0],
      ∃ t, exec c s = .next t ∧ Refused f s t := by
  have hr : Refused f s (settle s (regWrite f off v 0 s)) := by
    rw [regWrite_foreign ho h hp]
    exact refused_badAccess s f off 4 v.toNat s
  simp only [List.forall_mem_cons]
  exact ⟨⟨_, exec_registerWrite .., hr⟩, ⟨_, exec_reg64LowWrite .., hr⟩, ⟨_, exec_reg64HighWrite .., hr⟩,
    ⟨_, exec_w1cWrite .., hr⟩, nofun⟩

/-- Settles O9: a foreign write is a refused access, a plain write sets one field of its own function, and QUARANTINE
leaves a write nothing to change. -/
theorem onlyTheOwnerWritesModuleWideBlocks : Obligations.OnlyTheOwnerWritesModuleWideBlocks := by
  refine ⟨foreignWrite_refused, fun f v s hq => ⟨?_, ?_, ?_, ?_, fun lo hl => ?_, fun ho => ?_⟩, fun f v s hq => ?_⟩
  case refine_1 =>
    exact registerWrite_own FnSt.irqCoal (fun _ _ => rfl) (fun _ _ _ _ _ => rfl)
      ((regWrite_done rfl rfl (.inl (by decide)) hq v 0).trans (regSet_irqCoal f v 0 s))
  case refine_2 =>
    exact registerWrite_own FnSt.vnrSel (fun _ _ => rfl) (fun _ _ _ _ _ => rfl)
      ((regWrite_done rfl rfl (.inr (.inr rfl)) hq v 0).trans (regSet_vnrSel f v 0 s))
  case refine_3 =>
    exact registerWrite_own FnSt.krfSel (fun _ _ => rfl) (fun _ _ _ _ _ => rfl)
      ((regWrite_done rfl rfl (.inr (.inr rfl)) hq v 0).trans (regSet_krfSel f v 0 s))
  case refine_4 =>
    exact registerWrite_own FnSt.ckpSel (fun _ _ => rfl) (fun _ _ _ _ _ => rfl)
      ((regWrite_done rfl rfl (.inr (.inr rfl)) hq v 0).trans (regSet_ckpSel f v 0 s))
  case refine_5 =>
    rw [exec_reg64HighWrite, regWrite_done rfl rfl (.inr (.inr rfl)) hq, regSet_memSel_high, writeHigh_memSel hl]
    obtain ⟨hf, hk, ho⟩ := settle_setFn_own FnSt.memSel (fun _ _ => rfl) (fun _ _ _ _ _ => rfl) s f
      (fun x => { x with writeLatch := tdel x.writeLatch 0x70028 })
      (setFn f (fun x => { x with memSel := lo + v.toNat * 2 ^ 32 }) s)
    exact ⟨_, rfl, hk, hf.trans (by rw [fnOf_setFn_same]),
      fun g hg => (ho g hg).trans (by rw [fnOf_setFn_other _ s hg.symm])⟩
  case refine_6 =>
    rw [exec_registerWrite, regWrite_done rfl rfl (.inr (.inl ho)) hq, regSet_wakeEn]
    exact ⟨_, rfl, settle_pwr ..⟩
  case refine_7 =>
    have kept {off : Nat} (hp : passesQuarantine off = false) (h : off ≠ 0x28) := settle_regWrite_quarantined hq hp h v
    simp only [List.forall_mem_cons]
    exact ⟨⟨_, exec_registerWrite .., kept rfl (by decide)⟩, ⟨_, exec_registerWrite .., kept rfl (by decide)⟩,
      ⟨_, exec_registerWrite .., kept rfl (by decide)⟩, ⟨_, exec_registerWrite .., kept rfl (by decide)⟩,
      ⟨_, exec_reg64HighWrite .., kept rfl (by decide)⟩, ⟨_, exec_registerWrite .., kept rfl (by decide)⟩, nofun⟩

/-- Refutes O8, by its clause of OVFL in FN_EVT_PEND (0x28): the statement takes every state, also one whose log has a
record numbered not below the next number. The end of the write takes that record for an event of its own and delivers it;
with 256 events held, OVFL is set again though the write has 1 in it and `setNow` is 0. With a log that is numbered as
`logEntry` numbers it, the clause holds: `w1cWrite_ovfl_of_numbered`. -/
theorem not_clearingLosesNothingThatArrives : ¬ Obligations.ClearingLosesNothingThatArrives := by
  rintro ⟨-, hovfl, -⟩
  obtain ⟨t, ht, -, ho⟩ := hovfl 0 0x8000_0000 0 unnumberedLog
  rw [exec_w1cWrite, Host.Outcome.next.injEq] at ht
  subst t
  exact absurd (unnumberedLog_sets_ovfl.symm.trans ho) (by decide +kernel)

end Sys2Proof
